-- ==== Sys2Proof/Word.lean ====
section
/-! DEFINITION. The byte, and the names the spec gives to short sequences of bytes. -/

namespace Sys2Proof

/-- One byte of the Command Link (R179). -/
abbrev Byte := BitVec 8

/-- A label of up to 16 characters, one byte each, without the unused places (R184). -/
abbrev Label := List Byte

/-- The twelve condition flags, enables or fresh marks, bit 0 HAMMER FAULT to bit 11 SUPPLY RETURNED
(section 11.5 of the spec). -/
abbrev FlagSet := BitVec 12

end Sys2Proof
end

