-- ==== Sys2Proof/Config.lean ====
section
/-! DEFINITION. The capacities and fixed times of the TW48, each with the rule that states it. The spec leaves no value of an
instruction open, so there is no free value here. -/

namespace Sys2Proof.Config

/-! Capacities (00_scope.md, "The tower the part is sized for"). -/

abbrev dials : Nat := 6
abbrev bells : Nat := 40
abbrev channels : Nat := 24
abbrev lines : Nat := 64
abbrev occasions : Nat := 256
abbrev tunes : Nat := 64
abbrev scenes : Nat := 32
abbrev degrees : Nat := 32
abbrev contexts : Nat := 8
abbrev tolls : Nat := 2
abbrev weeks : Nat := 53

/-- Places of the step pool (section 5.2). -/
def pool : Nat := 2048
/-- Greatest step count of one tune (R76). -/
def maxTuneSteps : Nat := 512
/-- Greatest number of queued chime entries (R90). -/
def queueCapacity : Nat := 8
/-- Greatest number of layers (R152). -/
def layerCapacity : Nat := 8
/-- Greatest number of standing entries (R162). -/
def standingCapacity : Nat := 8
/-- Greatest number of bells with a MOTOR line (R39). -/
def motorBells : Nat := 6
/-- Greatest number of frames on the call stack (R98). -/
def callDepth : Nat := 4

/-! Crystal counts (R1, R3, R11, R16, R151). -/

/-- Counts in an untrimmed second (R1). -/
def countsPerSecond : Nat := 32768
/-- Half width of the SMARK alignment window (R3). -/
def alignWindow : Nat := 8192
/-- The 2 s a SET TIME waits for a mark (R11) and the 2 s MSENSE is qualified for (R16). -/
def twoSeconds : Nat := 65536
/-- Counts in a frame (R151). -/
def countsPerFrame : Nat := 512
/-- The wrap of frame numbers (R151). -/
def frameWrap : Nat := 4294967296

/-! Milliseconds. -/

/-- The lead window of the sequencer and the tolls (section 6.2). -/
def leadWindow : Nat := 400
/-- The time a dial's sense line has to show current (R29, R30). -/
def senseTime : Nat := 50
/-- The time the driver has to answer on BUSY (R62). -/
def answerTime : Nat := 50
/-- The time after which BUSY still active is STUCK (R63). -/
def stuckTime : Nat := 400
/-- The time a run waits to be admitted (R53). -/
def pendingTime : Nat := 120000
/-- The stall watch (R55). -/
def stallTime : Nat := 20000
/-- The longest gap recorded as a half-swing period, and the shortest quiet time (R47). -/
def maxHalfSwing : Nat := 10000
def minQuiet : Nat := 3000
/-- The time the mean must stay at 0 or 1023 to be a sensor fault (R143). -/
def sensorFaultTime : Nat := 600000
/-- A musical tick (00_scope.md, "Time"). -/
def tick : Nat := 10

/-! Civil time. -/

/-- Seconds in a day. -/
def daySeconds : Nat := 86400
/-- The end of the calendar range: seconds from 2000-01-01 00:00:00 to 2200-01-01 00:00:00 (R4). -/
def rangeEnd : Nat := 6311433600
/-- Days from 2000-01-01 to 2200-01-01 (R4). -/
def rangeDays : Nat := 73049
/-- Seconds between quarter marks (R12). -/
def quarterSeconds : Nat := 900

/-! Levels and scale (chapters 9 and 10). -/

def fullScale : Nat := 4096
def maxLevel : Nat := 4095
def fullFactor : Nat := 256
/-- How far the scale may rise in one frame (R175). -/
def softRestore : Nat := 64

/-- Saturation of the skipped and missed counters (R101, R117). -/
def counterMax : Nat := 65535

/-- A bound on the steps one walk reads, above every walk the rules allow: three outer passes of at most 513 reads, each
read entering at most 16 passes one level deeper, four levels deep. DEDUCED (log entry 11). -/
def walkFuel : Nat := 100000000000000000000

end Sys2Proof.Config
end

