-- ==== Sys2Proof/Syntax.lean ====
section
/-! DEFINITION. The commands of the TW48 and the records they carry: one constructor of `Instr` per row of
spec/opcode_table.json. -/

namespace Sys2Proof

/-- The name of a living record: slot and generation (R73). -/
structure Handle where
  slot : Nat
  gen : Nat
deriving DecidableEq, Repr

/-- A civil date (R4). -/
structure Date where
  year : Nat
  month : Nat
  day : Nat
deriving DecidableEq, Repr

/-- A civil date and time to the second. -/
structure DateTime where
  date : Date
  hour : Nat
  minute : Nat
  second : Nat
deriving DecidableEq, Repr

/-- A time of day hh:mm. -/
structure HourMinute where
  hour : Nat
  minute : Nat
deriving DecidableEq, Repr

inductive Weekday where
  | monday | tuesday | wednesday | thursday | friday | saturday | sunday
deriving DecidableEq, Repr

/-- Whether a SET TIME gives standard or local time (R10). -/
inductive TimeBasis where
  | standardTime | localTime
deriving DecidableEq, Repr

/-- The summer rule (section 1.3). `startWeek` and `endWeek` are 1 to 4, or 5 for LAST (R184). -/
structure SummerRule where
  enabled : Bool
  offset : Nat
  startMonth : Nat
  startWeek : Nat
  startWeekday : Weekday
  startTime : HourMinute
  endMonth : Nat
  endWeek : Nat
  endWeekday : Weekday
  endTime : HourMinute
deriving DecidableEq, Repr

/-- The time settings record (R2, R3, section 1.3). -/
structure TimeSettings where
  trim : Int
  markEnable : Bool
  rule : SummerRule
deriving DecidableEq, Repr

/-- The fields of a dial that AMEND writes (section 2.1); times in milliseconds. -/
structure DialAmend where
  label : Label
  service : Bool
  impulseWidth : Nat
  spacing : Nat
  window : Nat
deriving DecidableEq, Repr

/-- The function of a field line (section 3.1). -/
inductive LineFunction where
  | unused | hammerStrike | hammerBusy | swingSense | restSense | motor | dialPositive | dialNegative | dialSense | lamp
  | ambient | ringingSwitch | bellKey
deriving DecidableEq, Repr

/-- The line record (section 3.1). -/
structure LineRecord where
  function : LineFunction
  bound : Option Nat
  activeHigh : Bool
  filter : Nat
deriving DecidableEq, Repr

inductive BellGroup where
  | ring | chime | service
deriving DecidableEq, Repr

inductive SensorMode where
  | none | swingOnly | swingAndRest
deriving DecidableEq, Repr

inductive Feedback where
  | busy | none
deriving DecidableEq, Repr

/-- The configuration fields of a bell (section 3.3). -/
structure BellConfig where
  label : Label
  group : BellGroup
  inService : Bool
  hammerInService : Bool
  motorInService : Bool
  hostLock : Bool
  sensorMode : SensorMode
  settle : Nat
  lead : Nat
  velocity0 : Nat
  velocity1 : Nat
  velocity2 : Nat
  velocity3 : Nat
  feedback : Feedback
  repeatInterval : Nat
  motorRating : Nat
deriving DecidableEq, Repr

/-- A step of a tune (section 5.2); durations in ticks. -/
inductive Step where
  | note (degrees : List Nat) (velocity duration : Nat)
  | rest (duration : Nat)
  | call (tune : Handle) (repeats : Nat)
deriving DecidableEq, Repr

inductive RetireMode where
  | gentle | abrupt
deriving DecidableEq, Repr

inductive TuneState where
  | draft | live | retiring
deriving DecidableEq, Repr

inductive NightMode where
  | all | quarters
deriving DecidableEq, Repr

/-- The clock program record (section 7.1). -/
structure ClockConfig where
  quartersEnabled : Bool
  first : Option Handle
  second : Option Handle
  third : Option Handle
  fourth : Option Handle
  hourEnabled : Bool
  hourBell : Nat
  blowInterval : Nat
  hourVelocity : Nat
  strikeGap : Nat
  quarterPriority : Nat
  hourPriority : Nat
  expiry : Nat
  nightStart : Option HourMinute
  nightEnd : Option HourMinute
  nightMode : NightMode
deriving DecidableEq, Repr

/-- The recurrence of an occasion (R125). Weekday sets have bit 0 MONDAY, month sets bit 0 January (section 11.5). -/
inductive Recurrence where
  | once (date : Date)
  | daily
  | weekly (weekdays : BitVec 7)
  | monthlyNth (week : Nat) (weekday : Weekday) (months : BitVec 12)
  | annual (month day : Nat)
deriving DecidableEq, Repr

/-- How an occasion's time of day is given (R126). -/
inductive Anchor where
  | clock (hour minute second : Nat)
  | dusk (offset : Int)
deriving DecidableEq, Repr

/-- The six kinds of action (section 8.1). -/
inductive ActionKind where
  | play (tune : Handle) (transposition : Int) (repeats : Nat) (yields : Bool)
  | toll (bell interval blows velocity : Nat)
  | swing (bell minutes : Nat)
  | sceneUp (scene : Handle) (hold : Nat)
  | sceneDown (scene : Handle)
  | silence (minutes : Nat)
deriving DecidableEq, Repr

/-- An action and its start offset in seconds. -/
structure Action where
  offset : Nat
  kind : ActionKind
deriving DecidableEq, Repr

inductive OccasionState where
  | armed | firing | suspended | spent | retiring
deriving DecidableEq, Repr

/-- The configuration fields of an occasion (section 8.1). -/
structure OccasionConfig where
  label : Label
  recurrence : Recurrence
  firstDate : Option Date
  lastDate : Option Date
  anchor : Anchor
  grace : Nat
  priority : Nat
  actions : List Action
deriving DecidableEq, Repr

/-- The configuration fields of a channel (section 9.1). -/
structure ChannelConfig where
  label : Label
  inService : Bool
  rating : Nat
  ceiling : Nat
  floor : Nat
deriving DecidableEq, Repr

inductive LayerMode where
  | top | max
deriving DecidableEq, Repr

inductive SceneState where
  | live | retiring
deriving DecidableEq, Repr

/-- The configuration fields of a scene (section 9.2); a level list pairs channels with levels. -/
structure SceneConfig where
  label : Label
  levels : List (Nat × Nat)
  fadeIn : Nat
  fadeOut : Nat
  priority : Nat
  mode : LayerMode
deriving DecidableEq, Repr

/-- A host request as the Command Link routes it to its owner (R184): a command, its class, handle or index, and its payload.
Numbers are held as given, in range or not: their owner's checks answer BAD FIELD. -/
inductive Request where
  /-- SET TIME, class TIME BASE (R10). -/
  | setTime (basis : TimeBasis) (at_ : DateTime)
  /-- SET DIAL (R32). -/
  | setDial (dial position : Nat)
  /-- SWING (R51). -/
  | swing (bell minutes : Nat)
  /-- STOP naming a bell (R54). -/
  | stopBell (bell : Nat)
  /-- OPEN TUNE (R74). -/
  | openTune (label : Label)
  /-- APPEND STEPS (R76). -/
  | appendSteps (tune : Handle) (steps : List Step)
  /-- CLOSE TUNE (R78). -/
  | closeTune (tune : Handle)
  /-- RETIRE of a tune (R80). -/
  | retireTune (tune : Handle) (mode : RetireMode)
  /-- PLAY (R111). -/
  | play (tune : Handle) (transposition : Int) (repeats priority : Nat) (yields : Bool)
  /-- STOP naming a chime entry (R106). -/
  | stopChimeEntry (entry : Nat)
  /-- TOLL (R107). -/
  | toll (bell interval blows velocity : Nat)
  /-- STOP naming a toll channel (R109). -/
  | stopTollChannel (channel : Nat)
  /-- STORE of an occasion (R123). -/
  | storeOccasion (config : OccasionConfig)
  /-- SUSPEND (R137). -/
  | suspend (occasion : Handle)
  /-- RESUME (R137). -/
  | resume (occasion : Handle)
  /-- RETIRE GENTLE of an occasion (R138). -/
  | retireGentle (occasion : Handle)
  /-- RETIRE ABRUPT of an occasion (R139). -/
  | retireAbrupt (occasion : Handle)
  /-- RAISE SCENE (R168). -/
  | raiseScene (scene : Handle) (hold : Option Nat)
  /-- LOWER SCENE (R168). -/
  | lowerScene (scene : Handle)
  /-- STORE of a scene (R150). -/
  | storeScene (config : SceneConfig)
  /-- RETIRE of a scene (R165). -/
  | retireScene (scene : Handle) (mode : RetireMode)
  /-- READ CONDITIONS (R186). -/
  | readConditions
  /-- ACKNOWLEDGE (R186). -/
  | acknowledge (named : FlagSet)
  /-- RESTART (R187). -/
  | restart
  /-- AMEND of the time settings (R6). -/
  | amendTimeSettings (settings : TimeSettings)
  /-- AMEND of a dial (R20). -/
  | amendDial (dial : Nat) (amend : DialAmend)
  /-- AMEND of a line (R37). -/
  | amendLine (line : Nat) (record : LineRecord)
  /-- AMEND of a bell (R44). -/
  | amendBell (bell : Nat) (config : BellConfig)
  /-- AMEND of a tune (R79). -/
  | amendTune (tune : Handle) (label : Label)
  /-- AMEND of the Chime Map (R85). -/
  | amendChimeMap (pairs : List (Nat × Option Nat))
  /-- AMEND of the clock program (R112). -/
  | amendClockProgram (config : ClockConfig)
  /-- AMEND of an occasion (R124). -/
  | amendOccasion (occasion : Handle) (config : OccasionConfig)
  /-- AMEND of the dusk settings (R144). The payload's sensor fault is ignored (R143). -/
  | amendDuskSettings (line : Option Nat) (threshold confirm : Nat)
  /-- AMEND of the Dusk Table (R144). -/
  | amendDuskTable (pairs : List (Nat × Nat))
  /-- AMEND of a channel (R148). -/
  | amendChannel (channel : Nat) (config : ChannelConfig)
  /-- AMEND of a scene (R164). -/
  | amendScene (scene : Handle) (config : SceneConfig)
  /-- AMEND of the feeder record (R170). -/
  | amendFeeder (capacity : Nat)
  /-- AMEND of class CONDITIONS (R186). -/
  | amendConditions (enables : FlagSet)
  /-- LIST NEXT for tunes; no filter is "any" (R88). -/
  | listNextTune (after : Option Nat) (filter : Option TuneState)
  /-- LIST NEXT for occasions (R147). -/
  | listNextOccasion (after : Option Nat) (filter : Option OccasionState)
  /-- LIST NEXT for scenes (R169). -/
  | listNextScene (after : Option Nat) (filter : Option SceneState)
  /-- LOOK UP of the time settings (R19). -/
  | lookUpTimeSettings
  /-- LOOK UP of a dial (R36). -/
  | lookUpDial (dial : Nat)
  /-- LOOK UP of a line (R43). -/
  | lookUpLine (line : Nat)
  /-- LOOK UP of a bell (R57). -/
  | lookUpBell (bell : Nat)
  /-- LOOK UP of a tune, with an optional first step number (R88). -/
  | lookUpTune (tune : Handle) (first : Option Nat)
  /-- LOOK UP of the Chime Map (R85). -/
  | lookUpChimeMap
  /-- LOOK UP of the clock program (R122). -/
  | lookUpClockProgram
  /-- LOOK UP of an occasion (R147). -/
  | lookUpOccasion (occasion : Handle)
  /-- LOOK UP of the dusk settings (R147). -/
  | lookUpDuskSettings
  /-- LOOK UP of the Dusk Table (R147). -/
  | lookUpDuskTable
  /-- LOOK UP of a channel (R169). -/
  | lookUpChannel (channel : Nat)
  /-- LOOK UP of a scene (R169). -/
  | lookUpScene (scene : Handle)
  /-- LOOK UP of the feeder record (R178). -/
  | lookUpFeeder
  /-- LOOK UP of class CONDITIONS (R186). -/
  | lookUpConditions
  /-- READ STATE of a dial (R36). -/
  | readStateDial (dial : Nat)
  /-- READ STATE of a line (R43). -/
  | readStateLine (line : Nat)
  /-- READ STATE of a bell (R57, R72). -/
  | readStateBell (bell : Nat)
  /-- READ STATE of a tune (R88). -/
  | readStateTune (tune : Handle)
  /-- READ STATE of the Clock Program (R122). -/
  | readStateClockProgram
  /-- READ STATE of an occasion (R147). -/
  | readStateOccasion (occasion : Handle)
  /-- READ STATE of a channel (R169). -/
  | readStateChannel (channel : Nat)
  /-- READ STATE of a scene (R169). -/
  | readStateScene (scene : Handle)
  /-- READ STATE of the Time Base (R19). -/
  | readStateTimeBase
  /-- READ STATE of the Tune Library (R88). -/
  | readStateTuneLibrary
  /-- READ STATE of the Chime Sequencer (R111). -/
  | readStateChimeSequencer
  /-- READ STATE of the Occasion Calendar (R147). -/
  | readStateOccasionCalendar
  /-- READ STATE of the Floodlight Mixer (R169). -/
  | readStateFloodlightMixer
  /-- READ STATE of the Feeder Account (R178). -/
  | readStateFeederAccount
deriving DecidableEq, Repr

/-- The commands of the block, one constructor per row of opcode_table.json. `dt` is the number of crystal counts that have
passed since the command before it (DESIGN CHOICE, log entry 1). -/
inductive Instr where
  /-- SECOND_END. The prescaler reaches the length of the second (R1). -/
  | secondEnd (dt : Nat)
  /-- SMARK_EDGE. A rising edge on SMARK (R3). -/
  | smarkEdge (dt : Nat)
  /-- SET_TIME. SET TIME, class TIME BASE (R10). -/
  | setTime (dt : Nat) (basis : TimeBasis) (at_ : DateTime)
  /-- SET_TIME_AT_MARK_EDGE. A waiting SET TIME meets its SMARK edge (R11). -/
  | setTimeAtMarkEdge (dt : Nat)
  /-- SET_TIME_MARK_TIMEOUT. A waiting SET TIME has waited 2 s (R11). -/
  | setTimeMarkTimeout (dt : Nat)
  /-- RESERVE_ENTRY. MSENSE goes inactive in MAINS (R15). -/
  | reserveEntry (dt : Nat)
  /-- MSENSE_QUALIFICATION_START. MSENSE goes active in RESERVE (R16). -/
  | msenseQualificationStart (dt : Nat)
  /-- MSENSE_QUALIFICATION_CANCEL. MSENSE goes inactive before its 2 s have run (R16). -/
  | msenseQualificationCancel (dt : Nat)
  /-- MSENSE_QUALIFICATION_EXPIRY. MSENSE has stayed active for 2 s (R16). -/
  | msenseQualificationExpiry (dt : Nat)
  /-- COUNTING_DOMAIN_POWER_UP. The counting domain powers up after total loss (R17). -/
  | countingDomainPowerUp (dt : Nat)
  /-- PIN_LEVEL_CHANGE. The pin of a field line takes a logic level and, on an analog line, the voltage that converts to
  `reading` (R40, R42). -/
  | pinLevelChange (dt : Nat) (line : Nat) (high : Bool) (reading : Nat)
  /-- INPUT_FILTER_EXPIRY. A new pin level has held for the filter time (R40). -/
  | inputFilterExpiry (dt : Nat) (line : Nat)
  /-- QUIET_TIMER_EXPIRY. The quiet timer of a SWINGING bell expires (R48). -/
  | quietTimerExpiry (dt : Nat) (bell : Nat)
  /-- SETTLE_TIME_EXPIRY. At a SECOND the settle test passes (R49, R50). -/
  | settleTimeExpiry (dt : Nat) (bell : Nat)
  /-- REST_RULE_EXPIRY. The catch-up spacing has passed and a held-back impulse starts (R27). -/
  | restRuleExpiry (dt : Nat) (dial : Nat)
  /-- IMPULSE_END. The impulse width has passed (R29). -/
  | impulseEnd (dt : Nat) (dial : Nat)
  /-- NO_CURRENT. 50 ms have passed without sense current (R30). -/
  | noCurrent (dt : Nat) (dial : Nat)
  /-- DEFERRED_RECONCILIATION. An owed reconciliation is made (R24). -/
  | deferredReconciliation (dt : Nat) (dial : Nat)
  /-- DEFERRED_DIAL_AMEND. A dial AMEND that waited for an impulse proceeds (R20). -/
  | deferredDialAmend (dt : Nat)
  /-- DEFERRED_SET_DIAL. A SET DIAL that waited for an impulse proceeds (R32). -/
  | deferredSetDial (dt : Nat)
  /-- SET_DIAL. SET DIAL (R32). -/
  | setDial (dt : Nat) (dial position : Nat)
  /-- SWING. SWING (R51). -/
  | swing (dt : Nat) (bell minutes : Nat)
  /-- PENDING_TIMEOUT. A run is still not admitted after 120 s (R53). -/
  | pendingTimeout (dt : Nat) (bell : Nat)
  /-- RUN_END. A running motor reaches its end (R54). -/
  | runEnd (dt : Nat) (bell : Nat)
  /-- STALL_WATCH_EXPIRY. 20 s have passed without a swing pulse (R55). -/
  | stallWatchExpiry (dt : Nat) (bell : Nat)
  /-- STOP_BELL. STOP naming a bell (R54). -/
  | stopBell (dt : Nat) (bell : Nat)
  /-- RAISE_MOMENT. The raise moment of a REQUESTED stroke (R60). -/
  | raiseMoment (dt : Nat) (bell : Nat)
  /-- PULSE_END. The captured pulse width has passed (R61, R62). -/
  | pulseEnd (dt : Nat) (bell : Nat)
  /-- NO_ANSWER. 50 ms have passed without a BUSY answer (R62). -/
  | noAnswer (dt : Nat) (bell : Nat)
  /-- STUCK. BUSY is still active after 400 ms (R63). -/
  | stuck (dt : Nat) (bell : Nat)
  /-- RECOVERY_END. The recovery end is reached (R64). -/
  | recoveryEnd (dt : Nat) (bell : Nat)
  /-- RSTN_ASSERTED. RSTN becomes asserted (R69). -/
  | rstnAsserted (dt : Nat)
  /-- RSTN_RELEASED. RSTN becomes released (R70). -/
  | rstnReleased (dt : Nat)
  /-- RESTART_RESET. The gate opens and the reset takes place (R71). -/
  | restartReset (dt : Nat)
  /-- OPEN_TUNE. OPEN TUNE (R74). -/
  | openTune (dt : Nat) (label : Label)
  /-- APPEND_STEPS. APPEND STEPS (R76). -/
  | appendSteps (dt : Nat) (tune : Handle) (steps : List Step)
  /-- CLOSE_TUNE. CLOSE TUNE (R78). -/
  | closeTune (dt : Nat) (tune : Handle)
  /-- RETIRE_TUNE. RETIRE of a tune (R80). -/
  | retireTune (dt : Nat) (tune : Handle) (mode : RetireMode)
  /-- PLAY. PLAY (R111). -/
  | play (dt : Nat) (tune : Handle) (transposition : Int) (repeats priority : Nat) (yields : Bool)
  /-- STEP_BOUNDARY. A step boundary of the performance (R96). -/
  | stepBoundary (dt : Nat)
  /-- BLOW_REQUEST_MOMENT. The request moment of the performance's next scheduled blow (R101). -/
  | blowRequestMoment (dt : Nat)
  /-- END_MOMENT. The end moment of a FINISHING performance (R102). -/
  | endMoment (dt : Nat)
  /-- STOP_CHIME_ENTRY. STOP naming a chime entry (R106). -/
  | stopChimeEntry (dt : Nat) (entry : Nat)
  /-- TOLL. TOLL (R107). -/
  | toll (dt : Nat) (bell interval blows velocity : Nat)
  /-- TOLL_TAKE_UP. The take-up moment of a toll's next blow (R108). -/
  | tollTakeUp (dt : Nat) (channel : Nat)
  /-- TOLL_REQUEST_MOMENT. The request moment of a toll's scheduled blow (R108). -/
  | tollRequestMoment (dt : Nat) (channel : Nat)
  /-- TOLL_END. A toll reaches its end (R109). -/
  | tollEnd (dt : Nat) (channel : Nat)
  /-- STOP_TOLL_CHANNEL. STOP naming a toll channel (R109). -/
  | stopTollChannel (dt : Nat) (channel : Nat)
  /-- DUE_REACHED. The first due in due-list order is reached (R129). -/
  | dueReached (dt : Nat)
  /-- GRACE_EXPIRY. The grace of the first waiting occasion that has passed it (R129). -/
  | graceExpiry (dt : Nat)
  /-- ACTION_START. The first action of a context whose start instant has come (R132). -/
  | actionStart (dt : Nat) (context : Nat)
  /-- STORE_OCCASION. STORE of an occasion (R123). -/
  | storeOccasion (dt : Nat) (config : OccasionConfig)
  /-- SUSPEND. SUSPEND (R137). -/
  | suspend (dt : Nat) (occasion : Handle)
  /-- RESUME. RESUME (R137). -/
  | resume (dt : Nat) (occasion : Handle)
  /-- RETIRE_GENTLE. RETIRE GENTLE of an occasion (R138). -/
  | retireGentle (dt : Nat) (occasion : Handle)
  /-- RETIRE_ABRUPT. RETIRE ABRUPT of an occasion (R139). -/
  | retireAbrupt (dt : Nat) (occasion : Handle)
  /-- DUSK_CONFIRMED. Dusk is confirmed (R142). -/
  | duskConfirmed (dt : Nat)
  /-- SENSOR_FAULT. The mean has stayed at 0 or 1023 for 10 minutes (R143). -/
  | sensorFault (dt : Nat)
  /-- FRAME_BOUNDARY. A frame boundary (R151). -/
  | frameBoundary (dt : Nat)
  /-- RAISE_SCENE. RAISE SCENE (R168). -/
  | raiseScene (dt : Nat) (scene : Handle) (hold : Option Nat)
  /-- LOWER_SCENE. LOWER SCENE (R168). -/
  | lowerScene (dt : Nat) (scene : Handle)
  /-- STANDING_ENTRY_END. The first standing entry whose end instant has come (R163). -/
  | standingEntryEnd (dt : Nat)
  /-- STORE_SCENE. STORE of a scene (R150). -/
  | storeScene (dt : Nat) (config : SceneConfig)
  /-- RETIRE_SCENE. RETIRE of a scene (R165). -/
  | retireScene (dt : Nat) (scene : Handle) (mode : RetireMode)
  /-- FRAME_BEGIN. SEL is asserted (R180). -/
  | frameBegin (dt : Nat)
  /-- FRAME_END. SEL is released after these bits were sampled on SDI, in the order of the rising edges of SCK (R179, R181). -/
  | frameEnd (dt : Nat) (bits : List Bool)
  /-- REQUEST_ROUTED. A request that waited for another block's write is routed (R182). -/
  | requestRouted (dt : Nat)
  /-- RECORD_MEMORY_WRITE_END. The record memory write in progress ends (R183). -/
  | recordMemoryWriteEnd (dt : Nat)
  /-- READ_CONDITIONS. READ CONDITIONS (R186). -/
  | readConditions (dt : Nat)
  /-- ACKNOWLEDGE. ACKNOWLEDGE (R186). -/
  | acknowledge (dt : Nat) (named : FlagSet)
  /-- RESTART. RESTART (R187). -/
  | restart (dt : Nat)
  /-- AMEND_TIME_SETTINGS. AMEND of the time settings (R6). -/
  | amendTimeSettings (dt : Nat) (settings : TimeSettings)
  /-- AMEND_DIAL. AMEND of a dial (R20). -/
  | amendDial (dt : Nat) (dial : Nat) (amend : DialAmend)
  /-- AMEND_LINE. AMEND of a line (R37). -/
  | amendLine (dt : Nat) (line : Nat) (record : LineRecord)
  /-- AMEND_BELL. AMEND of a bell (R44). -/
  | amendBell (dt : Nat) (bell : Nat) (config : BellConfig)
  /-- AMEND_TUNE. AMEND of a tune (R79). -/
  | amendTune (dt : Nat) (tune : Handle) (label : Label)
  /-- AMEND_CHIME_MAP. AMEND of the Chime Map (R85). -/
  | amendChimeMap (dt : Nat) (pairs : List (Nat × Option Nat))
  /-- AMEND_CLOCK_PROGRAM. AMEND of the clock program (R112). -/
  | amendClockProgram (dt : Nat) (config : ClockConfig)
  /-- AMEND_OCCASION. AMEND of an occasion (R124). -/
  | amendOccasion (dt : Nat) (occasion : Handle) (config : OccasionConfig)
  /-- AMEND_DUSK_SETTINGS. AMEND of the dusk settings (R144). The payload's sensor fault is ignored (R143). -/
  | amendDuskSettings (dt : Nat) (line : Option Nat) (threshold confirm : Nat)
  /-- AMEND_DUSK_TABLE. AMEND of the Dusk Table (R144). -/
  | amendDuskTable (dt : Nat) (pairs : List (Nat × Nat))
  /-- AMEND_CHANNEL. AMEND of a channel (R148). -/
  | amendChannel (dt : Nat) (channel : Nat) (config : ChannelConfig)
  /-- AMEND_SCENE. AMEND of a scene (R164). -/
  | amendScene (dt : Nat) (scene : Handle) (config : SceneConfig)
  /-- AMEND_FEEDER. AMEND of the feeder record (R170). -/
  | amendFeeder (dt : Nat) (capacity : Nat)
  /-- AMEND_CONDITIONS. AMEND of class CONDITIONS (R186). -/
  | amendConditions (dt : Nat) (enables : FlagSet)
  /-- LIST_NEXT_TUNE. LIST NEXT for tunes; no filter is "any" (R88). -/
  | listNextTune (dt : Nat) (after : Option Nat) (filter : Option TuneState)
  /-- LIST_NEXT_OCCASION. LIST NEXT for occasions (R147). -/
  | listNextOccasion (dt : Nat) (after : Option Nat) (filter : Option OccasionState)
  /-- LIST_NEXT_SCENE. LIST NEXT for scenes (R169). -/
  | listNextScene (dt : Nat) (after : Option Nat) (filter : Option SceneState)
  /-- LOOK_UP_TIME_SETTINGS. LOOK UP of the time settings (R19). -/
  | lookUpTimeSettings (dt : Nat)
  /-- LOOK_UP_DIAL. LOOK UP of a dial (R36). -/
  | lookUpDial (dt : Nat) (dial : Nat)
  /-- LOOK_UP_LINE. LOOK UP of a line (R43). -/
  | lookUpLine (dt : Nat) (line : Nat)
  /-- LOOK_UP_BELL. LOOK UP of a bell (R57). -/
  | lookUpBell (dt : Nat) (bell : Nat)
  /-- LOOK_UP_TUNE. LOOK UP of a tune, with an optional first step number (R88). -/
  | lookUpTune (dt : Nat) (tune : Handle) (first : Option Nat)
  /-- LOOK_UP_CHIME_MAP. LOOK UP of the Chime Map (R85). -/
  | lookUpChimeMap (dt : Nat)
  /-- LOOK_UP_CLOCK_PROGRAM. LOOK UP of the clock program (R122). -/
  | lookUpClockProgram (dt : Nat)
  /-- LOOK_UP_OCCASION. LOOK UP of an occasion (R147). -/
  | lookUpOccasion (dt : Nat) (occasion : Handle)
  /-- LOOK_UP_DUSK_SETTINGS. LOOK UP of the dusk settings (R147). -/
  | lookUpDuskSettings (dt : Nat)
  /-- LOOK_UP_DUSK_TABLE. LOOK UP of the Dusk Table (R147). -/
  | lookUpDuskTable (dt : Nat)
  /-- LOOK_UP_CHANNEL. LOOK UP of a channel (R169). -/
  | lookUpChannel (dt : Nat) (channel : Nat)
  /-- LOOK_UP_SCENE. LOOK UP of a scene (R169). -/
  | lookUpScene (dt : Nat) (scene : Handle)
  /-- LOOK_UP_FEEDER. LOOK UP of the feeder record (R178). -/
  | lookUpFeeder (dt : Nat)
  /-- LOOK_UP_CONDITIONS. LOOK UP of class CONDITIONS (R186). -/
  | lookUpConditions (dt : Nat)
  /-- READ_STATE_DIAL. READ STATE of a dial (R36). -/
  | readStateDial (dt : Nat) (dial : Nat)
  /-- READ_STATE_LINE. READ STATE of a line (R43). -/
  | readStateLine (dt : Nat) (line : Nat)
  /-- READ_STATE_BELL. READ STATE of a bell (R57, R72). -/
  | readStateBell (dt : Nat) (bell : Nat)
  /-- READ_STATE_TUNE. READ STATE of a tune (R88). -/
  | readStateTune (dt : Nat) (tune : Handle)
  /-- READ_STATE_CLOCK_PROGRAM. READ STATE of the Clock Program (R122). -/
  | readStateClockProgram (dt : Nat)
  /-- READ_STATE_OCCASION. READ STATE of an occasion (R147). -/
  | readStateOccasion (dt : Nat) (occasion : Handle)
  /-- READ_STATE_CHANNEL. READ STATE of a channel (R169). -/
  | readStateChannel (dt : Nat) (channel : Nat)
  /-- READ_STATE_SCENE. READ STATE of a scene (R169). -/
  | readStateScene (dt : Nat) (scene : Handle)
  /-- READ_STATE_TIME_BASE. READ STATE of the Time Base (R19). -/
  | readStateTimeBase (dt : Nat)
  /-- READ_STATE_TUNE_LIBRARY. READ STATE of the Tune Library (R88). -/
  | readStateTuneLibrary (dt : Nat)
  /-- READ_STATE_CHIME_SEQUENCER. READ STATE of the Chime Sequencer (R111). -/
  | readStateChimeSequencer (dt : Nat)
  /-- READ_STATE_OCCASION_CALENDAR. READ STATE of the Occasion Calendar (R147). -/
  | readStateOccasionCalendar (dt : Nat)
  /-- READ_STATE_FLOODLIGHT_MIXER. READ STATE of the Floodlight Mixer (R169). -/
  | readStateFloodlightMixer (dt : Nat)
  /-- READ_STATE_FEEDER_ACCOUNT. READ STATE of the Feeder Account (R178). -/
  | readStateFeederAccount (dt : Nat)
deriving DecidableEq, Repr
end Sys2Proof
end

