-- ==== Sys2Proof/Machine/State.lean ====
section
/-! DEFINITION. The state of the TW48: every record, queue, counter, mode and pin the spec gives the part, as plain data, and
the state right after COLD START of a factory-blank part. Moments of elapsed time are milliseconds (log entry 6); instants
are seconds since 2000-01-01 00:00:00. -/

namespace Sys2Proof.Machine

/-- The machine never faults: hammer, dial, motor and sensor faults of the spec are states and condition flags. -/
inductive Fault
deriving DecidableEq, Repr

/-- Why a command is refused. -/
inductive Refusal where
  /-- No meaning is written for the command. No arm of `exec` answers with it. Safe. -/
  | notModelled (mnemonic : String)
  /-- An event command names a line, bell, dial, toll channel or firing context the part does not have, so no such event
  can happen. Raised by the event commands with an index operand. Safe (log entry 41). -/
  | noSuchRecord
deriving DecidableEq, Repr

/-! ## Time Base (chapter 1) -/

inductive PowerState where
  | mains | reserve
deriving DecidableEq, Repr

/-- A SET TIME waiting for a mark: when its request was taken, in crystal counts, and the standard instant it sets (R11). -/
structure SetTimeWait where
  since : Nat
  instant : Nat
deriving DecidableEq, Repr

/-- The Time Base (chapter 1). `secondLength` is the length the second in progress began with (R1, R2), and `trimInUse` the trim
of the latest second numbered 31 (R2, R19); `lastSecond` is the model's own record of the moment of the latest SECOND announced,
in crystal counts (log entry 7). -/
structure TimeBase where
  prescaler : Nat
  secondLength : Nat
  trimInUse : Int
  trimCycle : Nat
  standard : Nat
  summer : Bool
  valid : Bool
  lastAlignment : Option Int
  power : PowerState
  settings : TimeSettings
  setTimeWait : Option SetTimeWait
  msense : Bool
  qualification : Option Nat
  coldStartPending : Bool
  reserveEntry : Nat
  lastSecond : Option Nat
deriving DecidableEq, Repr

/-! ## Dial Drive (chapter 2) -/

inductive DialState where
  | off | waitTime | run | catchUp | hold | fault
deriving DecidableEq, Repr

inductive Polarity where
  | positive | negative
deriving DecidableEq, Repr

inductive DialFault where
  | noCurrent
deriving DecidableEq, Repr

/-- An impulse in progress: its polarity, the moment it began, and whether the sense line has shown current within 50 ms. -/
structure Impulse where
  polarity : Polarity
  began : Nat
  sensed : Bool
deriving DecidableEq, Repr

/-- A dial: its record and its working state (section 2.1). -/
structure Dial where
  label : Label
  service : Bool
  state : DialState
  position : Nat
  nextPolarity : Polarity
  impulseWidth : Nat
  spacing : Nat
  window : Nat
  doubt : Bool
  fault : Option DialFault
  impulse : Option Impulse
  lastStart : Option Nat
  owed : Bool
deriving DecidableEq, Repr

/-! ## Field Line Table (chapter 3) -/

/-- A field line: its record, its pin and its filter (sections 3.1 and 3.2). `changing` is the moment the pin left the filtered
state; `analog` is the reading the pin voltage of an analog line converts to. -/
structure Line where
  record : LineRecord
  pinHigh : Bool
  filtered : Bool
  changing : Option Nat
  analog : Nat
  lastReading : Option Nat
deriving DecidableEq, Repr

/-! ## Bell Monitor (chapter 3) -/

inductive SwingState where
  | unknown | atRest | swinging | settling | up | locked
deriving DecidableEq, Repr

/-- Who asked for a motor run (section 3.5): an occasion action, by firing context and action place, or the SWING command. -/
inductive MotorSource where
  | action (context place : Nat)
  | command
deriving DecidableEq, Repr

/-- The final reports of a motor run (R53 to R56). -/
inductive MotorReport where
  | done | stopped | locked | up | stalled | refusedFeeder
deriving DecidableEq, Repr

/-- The motor run record of a bell (section 3.5). -/
inductive MotorRun where
  | off
  | pending (length since : Nat) (isAdmitted : Bool) (sources : List MotorSource)
  | running (energised endAt : Nat) (satisfied : Bool) (sources : List MotorSource)
deriving DecidableEq, Repr

inductive HammerFault where
  | noAnswer | stuck | unsolicited
deriving DecidableEq, Repr

/-- A bell: its stored configuration, its last hammer fault reason and its read-only fields (section 3.3). -/
structure Bell where
  config : BellConfig
  hammerFault : Option HammerFault
  swing : SwingState
  halfSwing : Option Nat
  lastPulse : Option Nat
  restClosedSince : Option Nat
  entered : Nat
  quietUntil : Option Nat
  motor : MotorRun
  lastOutcome : Option MotorReport
deriving DecidableEq, Repr

/-! ## Hammer Drive (chapter 4) -/

/-- Who asked for a blow (section 4.1): the performance, named by its entry's arrival sequence, or a toll channel, with the number of
its toll (log entry 31). -/
inductive Requester where
  | performance (arrival : Nat)
  | toll (channel run : Nat)
deriving DecidableEq, Repr

/-- A stroke with its captured settings (section 4.1). `lineActive` is whether the strike line is active. -/
structure Stroke where
  sounding : Nat
  velocity : Nat
  requester : Requester
  lead : Nat
  width : Nat
  feedback : Feedback
  repeatInterval : Nat
  raised : Bool
  risenAt : Nat
  lineActive : Bool
deriving DecidableEq, Repr

/-- The state of a stroke machine (section 4.1). -/
inductive StrokeState where
  | idle
  | requested (k : Stroke)
  | striking (k : Stroke)
  | recovering (k : Stroke) (endAt : Nat)
  | fault
  | outOfService
deriving DecidableEq, Repr

inductive GateState where
  | closed | holding
deriving DecidableEq, Repr

structure HammerDrive where
  strokes : Vector StrokeState Config.bells
  gate : GateState
  rstn : Bool
deriving DecidableEq, Repr

/-! ## Tune Library (chapter 5) -/

/-- A slot of a kind of living record: its current generation, and the record when it is occupied (R73). -/
structure Slot (α : Type) where
  gen : Nat
  record : Option α
deriving DecidableEq, Repr

/-- A tune (section 5.1). Its step count is the number of its steps. -/
structure Tune where
  label : Label
  state : TuneState
  steps : List Step
  refs : Nat
deriving DecidableEq, Repr

structure TuneLibrary where
  slots : Vector (Slot Tune) Config.tunes
  freeSteps : Nat
  chimeMap : Vector (Option Nat) Config.degrees
deriving DecidableEq, Repr

/-! ## Chime Sequencer (chapter 6) -/

/-- The source of a chime entry (section 6.1). QUARTER and HOUR carry the mark's local instant (R113, R114). -/
inductive EntrySource where
  | quarter (mark : Nat)
  | hour (mark : Nat)
  | occasion (occasion : Handle) (context place : Nat)
  | command
deriving DecidableEq, Repr

inductive Content where
  | tune (tune : Handle)
  | hourStrike (bell blows interval velocity : Nat)
deriving DecidableEq, Repr

structure Cursor where
  tune : Handle
  step : Nat
deriving DecidableEq, Repr

structure CallFrame where
  tune : Handle
  returnStep : Nat
  repeatsLeft : Nat
deriving DecidableEq, Repr

/-- Outer repeats left (section 6.2). -/
inductive Passes where
  | left (n : Nat)
  | untilStopped
deriving DecidableEq, Repr

structure ResumePoint where
  cursor : Cursor
  stack : List CallFrame
  passes : Passes
  skipped : Nat
  depth : Bool
deriving DecidableEq, Repr

/-- A chime entry (section 6.1). -/
structure Entry where
  number : Nat
  source : EntrySource
  content : Content
  transposition : Int
  repeats : Nat
  priority : Nat
  yields : Bool
  expiry : Option Nat
  leadIn : Nat
  arrival : Nat
  resume : Option ResumePoint
  started : Bool
deriving DecidableEq, Repr

/-- The reports of R94. -/
inductive EntryReport where
  | queued | gone | notLive | refusedFull | expired | started | done | stopped | preEmptedDropped
deriving DecidableEq, Repr

inductive Ending where
  | done | stopped | preEmpted
deriving DecidableEq, Repr

/-- A blow taken up but not yet requested (R101, R108). -/
structure ScheduledBlow where
  bell : Nat
  sounding : Nat
  velocity : Nat
  requestAt : Nat
deriving DecidableEq, Repr

/-- The performance (section 6.2). It is PLAYING while `ending` is absent and FINISHING while it is present. `hourTaken` counts
the blows of an hour strike taken up (R103), and `resume` is the resume point taken at pre-emption (R104). -/
structure Performance where
  entry : Entry
  ending : Option Ending
  stopPending : Bool
  preemptPending : Bool
  dequeued : Nat
  start : Nat
  nextSounding : Nat
  cursor : Cursor
  stack : List CallFrame
  passes : Passes
  ticks : Nat
  passTested : Bool
  hourTaken : Nat
  blows : List ScheduledBlow
  skipped : Nat
  depth : Bool
  resume : Option ResumePoint
deriving DecidableEq, Repr

/-- The source of a toll (section 6.5). -/
inductive TollSource where
  | action (occasion : Handle) (context place : Nat)
  | command
deriving DecidableEq, Repr

/-- A toll under way (section 6.5). `run` numbers the tolls taken since the last reset (log entry 31). -/
structure TollRun where
  run : Nat
  bell : Nat
  interval : Nat
  blowsLeft : Nat
  velocity : Nat
  source : TollSource
  start : Nat
  nextBlow : Nat
  scheduled : Option ScheduledBlow
  skipped : Nat
deriving DecidableEq, Repr

inductive EntryOrToll where
  | entry (number : Nat)
  | toll (channel : Nat)
deriving DecidableEq, Repr

/-- The last command outcome of the sequencer (R111). -/
structure CommandOutcome where
  what : EntryOrToll
  report : EntryReport
  skipped : Nat
  depth : Bool
deriving DecidableEq, Repr

structure ChimeSequencer where
  queue : List Entry
  performance : Option Performance
  /-- `none` is an IDLE channel. -/
  tolls : Vector (Option TollRun) Config.tolls
  /-- What an IDLE channel still holds of its latest toll, its claim apart (section 6.5, log entry 46). -/
  lastTolls : Vector TollRun Config.tolls
  lastEntryNumber : Nat
  lastArrival : Nat
  /-- How many tolls have been taken since the last reset (log entry 31). -/
  tollsTaken : Nat
  lastOutcome : Option CommandOutcome
deriving DecidableEq, Repr

/-! ## Clock Program (chapter 7) -/

inductive ClockSource where
  | quarter | hour
deriving DecidableEq, Repr

/-- The last clock outcome (section 7.1). -/
structure ClockOutcome where
  source : ClockSource
  mark : Nat
  report : EntryReport
  skipped : Nat
deriving DecidableEq, Repr

structure ClockProgram where
  config : ClockConfig
  silencedUntil : Option Nat
  quartersMissed : Nat
  hoursMissed : Nat
  lastMark : Option Nat
  lastOutcome : Option ClockOutcome
deriving DecidableEq, Repr

/-! ## Occasion Calendar (chapter 8) -/

/-- The reasons and notes of an outcome entry, in the order of their codes 0 to 15 (section 11.5). -/
inductive Reason where
  | none | noRecord | full | bellClaimed | noChannel | notInService | noMotor | motorOutOfService | locked | up | feeder
  | expired | preEmpted | stalled | interrupted | notStanding
deriving DecidableEq, Repr

/-- The kinds of an outcome entry, in the order of their codes (section 11.5). -/
inductive OutcomeKind where
  | pending | started | done | cancelled | refused | skipped
deriving DecidableEq, Repr

structure Outcome where
  kind : OutcomeKind
  note : Reason
  skipped : Nat
  depth : Bool
deriving DecidableEq, Repr

/-- A next due and the occasion date it belongs to, as a day number (section 8.1). -/
structure Due where
  instant : Nat
  day : Nat
deriving DecidableEq, Repr

/-- An occasion (section 8.1). `waiting` is yes while its due has been reached and no context was free (R129). -/
structure Occasion where
  config : OccasionConfig
  state : OccasionState
  due : Option Due
  lastFired : Option Nat
  outcome : List Outcome
  missed : Nat
  context : Option Nat
  waiting : Bool
deriving DecidableEq, Repr

/-- What an ACTIVE action is held by (R147). -/
inductive Holder where
  | entry (number : Nat)
  | toll (channel : Nat)
  | bell (bell : Nat)
deriving DecidableEq, Repr

inductive ActionPhase where
  | waiting (holdsReference : Bool)
  | active (holder : Holder)
  | done
deriving DecidableEq, Repr

structure ContextAction where
  kind : ActionKind
  start : Nat
  phase : ActionPhase
deriving DecidableEq, Repr

/-- A firing context (R130). -/
structure Context where
  occasion : Handle
  due : Nat
  actions : List ContextAction
deriving DecidableEq, Repr

structure DuskSettings where
  line : Option Nat
  threshold : Nat
  confirm : Nat
  sensorFault : Bool
deriving DecidableEq, Repr

/-- A local date, as a day number, and a standard instant. -/
structure DayInstant where
  day : Nat
  instant : Nat
deriving DecidableEq, Repr

structure Calendar where
  slots : Vector (Slot Occasion) Config.occasions
  contexts : Vector (Option Context) Config.contexts
  dusk : DuskSettings
  duskTable : Vector Nat Config.weeks
  window : List Nat
  belowSince : Option Nat
  zeroSince : Option Nat
  fullSince : Option Nat
  tableDusk : DayInstant
  confirmed : Option DayInstant
  /-- R142: the local dates whose dusk has passed on the table since the last reset (log entry 60). -/
  duskPassed : List Nat
deriving DecidableEq, Repr

/-! ## Floodlight Mixer (chapter 9) -/

/-- The levels of one channel for one frame (section 9.1). -/
structure Levels where
  mixed : Nat
  capped : Nat
  delivered : Nat
deriving DecidableEq, Repr

structure Channel where
  config : ChannelConfig
  levels : Levels
deriving DecidableEq, Repr

structure Scene where
  config : SceneConfig
  state : SceneState
deriving DecidableEq, Repr

/-- A layer (section 9.4). -/
structure Layer where
  scene : Handle
  sequence : Nat
  f : Nat
  f0 : Nat
  target : Nat
  k0 : Nat
  length : Nat
deriving DecidableEq, Repr

inductive Creator where
  | occasion (occasion : Handle)
  | command
deriving DecidableEq, Repr

structure StandingEntry where
  scene : Handle
  endAt : Nat
  creator : Creator
deriving DecidableEq, Repr

/-- The mixer. `nextFrame` is the number of the frame that begins at the next boundary; `computed` holds the levels worked for
it (R151); `frameMark` is the model's count of boundaries passed by the crystal (log entry 15). -/
structure Mixer where
  channels : Vector Channel Config.channels
  scenes : Vector (Slot Scene) Config.scenes
  layers : List Layer
  standing : List StandingEntry
  raiseSequence : Nat
  nextFrame : Nat
  frameMark : Nat
  computed : Option (Vector Levels Config.channels)
deriving DecidableEq, Repr

/-! ## Feeder Account (chapter 10) -/

structure Ask where
  bell : Nat
  rating : Nat
  since : Nat
deriving DecidableEq, Repr

/-- An admitted run. `permitted` is whether its permission to energise has been given (R178). -/
structure AdmittedRun where
  bell : Nat
  rating : Nat
  awaiting : Option Nat
  permitted : Bool
deriving DecidableEq, Repr

structure Computation where
  frame : Nat
  capacity : Nat
  load : Nat
  demand : Nat
  budget : Nat
  target : Nat
  scale : Nat
deriving DecidableEq, Repr

/-- The Feeder Account. The admitted load M is the sum over `admitted` (chapter 10, block table). -/
structure Feeder where
  capacity : Nat
  asks : List Ask
  admitted : List AdmittedRun
  record : Option Computation
  previousScale : Nat
  scaleInEffect : Nat
  shed : Bool
deriving DecidableEq, Repr

/-! ## Command Link and record memory (chapter 11) -/

/-- Status codes 0 to 8 of the output header (section 11.5). -/
inductive Status where
  | idle | done | busy | noRecord | full | poolFull | wrongState | badField | badFrame
deriving DecidableEq, Repr

structure Response where
  status : Status
  slot : Nat
  gen : Nat
  payload : List Byte
deriving DecidableEq, Repr

/-- How far the request in progress is: waiting for another block's write, free to be routed, waiting in its owner for a dial's
impulse to end, or worked (R182, R20, R32). -/
inductive RequestPhase where
  | awaitingWrite | ready | deferred | working
deriving DecidableEq, Repr

/-- What a taken frame asks for: a request; one whose class, command or payload refuses it (R184); or an APPEND STEPS whose steps
cannot be read, which its owner refuses in the order of R76. -/
inductive Task where
  | request (request : Request)
  | refused (status : Status) (slot gen : Nat)
  | badSteps (tune : Handle)
deriving DecidableEq, Repr

/-- What a request's rule reads at the moment the request is taken: the stroke state of the bell that a READ STATE names (R72), or
the admitted load that a feeder AMEND is tested against (R170). -/
inductive Seen where
  | nothing
  | stroke (state : StrokeState)
  | load (watts : Nat)
deriving DecidableEq, Repr

/-- The request in progress; `taken` is the moment it was taken, in crystal counts, and `seen` what its rule reads then (R11, R72,
R170, R182). -/
structure InProgress where
  task : Task
  phase : RequestPhase
  taken : Nat
  seen : Seen
deriving DecidableEq, Repr

/-- A link frame in progress: the link state it began with and the response attached to it (R180). -/
structure LinkFrame where
  openAtBegin : Bool
  response : Option Response
deriving DecidableEq, Repr

/-- The Command Link. `sel` is whether SEL is asserted (R179). -/
structure Link where
  sel : Bool
  inProgress : Option InProgress
  waiting : Option Response
  frame : Option LinkFrame
  flags : FlagSet
  fresh : FlagSet
  enables : FlagSet
  lastReport : FlagSet
deriving DecidableEq, Repr

/-- The condition flags in the order of their bits (section 11.5). -/
inductive Condition where
  | hammerFault | dialFault | dialDoubt | motorFault | clockMissed | occasionOutcome | occasionMissed | sceneRefused
  | shedActive | sensorFault | timeInvalid | supplyReturned
deriving DecidableEq, Repr

/-- The record a write stores when nothing waits for the write's end. `dialSettle` is the write that settles a delivered
impulse (R29, R70). -/
inductive RecordName where
  | dial (dial : Nat)
  | dialSettle (dial : Nat)
  | bell (bell : Nat)
  | tune (slot : Nat)
  | occasion (slot : Nat)
  | scene (slot : Nat)
  | standingList
  | duskSettings
deriving DecidableEq, Repr

/-- What takes effect when a write ends: nothing more than the storing of a record whose live value has already changed; an AMEND
whose rule says that it takes effect when the write ends (log entry 12); or a fault's own write, which stores what an AMEND asked
for before it may have changed meanwhile (R183, log entry 13). -/
inductive WriteEffect where
  | stored (record : RecordName)
  | timeSettings (settings : TimeSettings)
  | dial (dial : Nat) (amend : DialAmend)
  | line (line : Nat) (record : LineRecord)
  | bell (bell : Nat) (config : BellConfig)
  | chimeMap (pairs : List (Nat × Option Nat))
  | clockProgram (config : ClockConfig)
  | duskSettings (line : Option Nat) (threshold confirm : Nat)
  | duskTable (pairs : List (Nat × Nat))
  | channel (channel : Nat) (config : ChannelConfig)
  | scene (scene : Handle) (config : SceneConfig)
  | feeder (capacity : Nat)
  | conditions (enables : FlagSet)
  | hammerFault (bell : Nat) (fault : HammerFault)
  | motorFault (bell : Nat)
  | sensorFault
deriving DecidableEq, Repr

/-- A record memory write, in progress or waiting, and the response that becomes waiting when it ends (R182, R183). -/
structure Write where
  effect : WriteEffect
  response : Option Response
deriving DecidableEq, Repr

/-- Record memory: the write in progress first, then the writes waiting in the order asked for (R183). -/
structure RecordMemory where
  writes : List Write
deriving DecidableEq, Repr

/-! ## The machine -/

/-- The whole state: the elapsed clock in crystal counts, one field per block, record memory and the queue of commands. -/
structure State where
  clock : Nat
  time : TimeBase
  dials : Vector Dial Config.dials
  lines : Vector Line Config.lines
  bells : Vector Bell Config.bells
  hammers : HammerDrive
  tunes : TuneLibrary
  chime : ChimeSequencer
  program : ClockProgram
  calendar : Calendar
  mixer : Mixer
  feeder : Feeder
  link : Link
  memory : RecordMemory
  pending : List Instr
deriving DecidableEq, Repr

/-! ## Factory-blank records -/

def TimeSettings.blank : TimeSettings :=
  { trim := 0, markEnable := false,
    rule := { enabled := false, offset := 60, startMonth := 3, startWeek := 5, startWeekday := .sunday,
              startTime := ⟨1, 0⟩, endMonth := 10, endWeek := 5, endWeekday := .sunday, endTime := ⟨2, 0⟩ } }

/-- A factory-blank dial (section 2.1). -/
def Dial.blank : Dial :=
  { label := [], service := false, state := .off, position := 0, nextPolarity := .positive, impulseWidth := 500,
    spacing := 1000, window := 1080, doubt := false, fault := none, impulse := none, lastStart := none, owed := false }

/-- A factory-blank line (section 3.1) whose pin is low (log entry 5). -/
def Line.blank : Line :=
  { record := { function := .unused, bound := none, activeHigh := true, filter := 0 }, pinHigh := false, filtered := false,
    changing := none, analog := 0, lastReading := none }

/-- A factory-blank bell (section 3.3), out of service and so UNKNOWN (R50). -/
def Bell.blank : Bell :=
  { config := { label := [], group := .chime, inService := false, hammerInService := false, motorInService := false,
                hostLock := false, sensorMode := .none, settle := 60, lead := 0, velocity0 := 40, velocity1 := 60,
                velocity2 := 80, velocity3 := 100, feedback := .none, repeatInterval := 300, motorRating := 0 },
    hammerFault := none, swing := .unknown, halfSwing := none, lastPulse := none, restClosedSince := none, entered := 0,
    quietUntil := none, motor := .off, lastOutcome := none }

/-- A factory-blank clock program (section 7.1). -/
def ClockConfig.blank : ClockConfig :=
  { quartersEnabled := false, first := none, second := none, third := none, fourth := none, hourEnabled := false,
    hourBell := 39, blowInterval := 250, hourVelocity := 3, strikeGap := 200, quarterPriority := 5, hourPriority := 6,
    expiry := 60, nightStart := none, nightEnd := none, nightMode := .quarters }

def Levels.dark : Levels := { mixed := 0, capped := 0, delivered := 0 }

/-- A factory-blank channel (section 9.1). -/
def Channel.blank : Channel :=
  { config := { label := [], inService := false, rating := 0, ceiling := 4095, floor := 0 }, levels := Levels.dark }

/-- What a toll channel holds before its first toll since a reset (log entry 46). -/
def TollRun.blank : TollRun :=
  { run := 0, bell := 0, interval := 2, blowsLeft := 0, velocity := 0, source := .command, start := 0, nextBlow := 1,
    scheduled := none, skipped := 0 }

/-! ## Reset -/

/-- The Time Base right after COLD START of a factory-blank part (R17, log entry 5). -/
def TimeBase.reset : TimeBase :=
  { prescaler := 0, secondLength := Config.countsPerSecond, trimInUse := 0, trimCycle := 0, standard := 0, summer := false,
    valid := false, lastAlignment := none, power := .mains, settings := TimeSettings.blank, setTimeWait := none, msense := true,
    qualification := none, coldStartPending := false, reserveEntry := 0, lastSecond := none }

/-- The machine right after COLD START of a factory-blank part, with no command waiting: every field at the value its chapter
states for COLD START or for a factory-blank part, and the values of log entry 5 where the spec states none. -/
def State.reset : State :=
  { clock := 0
    time := TimeBase.reset
    dials := Vector.replicate Config.dials Dial.blank
    lines := Vector.replicate Config.lines Line.blank
    bells := Vector.replicate Config.bells Bell.blank
    hammers := { strokes := Vector.replicate Config.bells .outOfService, gate := .closed, rstn := false }
    tunes := { slots := Vector.replicate Config.tunes ⟨0, none⟩, freeSteps := Config.pool,
               chimeMap := Vector.replicate Config.degrees none }
    chime := { queue := [], performance := none, tolls := Vector.replicate Config.tolls none,
               lastTolls := Vector.replicate Config.tolls TollRun.blank, lastEntryNumber := 0, lastArrival := 0,
               tollsTaken := 0, lastOutcome := none }
    program := { config := ClockConfig.blank, silencedUntil := none, quartersMissed := 0, hoursMissed := 0, lastMark := none,
                 lastOutcome := none }
    calendar := { slots := Vector.replicate Config.occasions ⟨0, none⟩, contexts := Vector.replicate Config.contexts none,
                  dusk := { line := none, threshold := 200, confirm := 10, sensorFault := false },
                  duskTable := Vector.replicate Config.weeks 1080, window := [], belowSince := none, zeroSince := none,
                  fullSince := none, tableDusk := { day := 0, instant := 64800 }, confirmed := none,
                  duskPassed := [] }
    mixer := { channels := Vector.replicate Config.channels Channel.blank,
               scenes := Vector.replicate Config.scenes ⟨0, none⟩, layers := [], standing := [], raiseSequence := 0,
               nextFrame := 0, frameMark := 0, computed := none }
    feeder := { capacity := 0, asks := [], admitted := [], record := none, previousScale := Config.fullScale,
                scaleInEffect := Config.fullScale, shed := false }
    link := { sel := false, inProgress := none, waiting := none, frame := none, flags := 0x400#12,
              fresh := 0x400#12, enables := BitVec.allOnes 12, lastReport := 0#12 }
    memory := { writes := [] }
    pending := [] }

end Sys2Proof.Machine
end

