-- ==== Sys2Proof/Machine/Civil.lean ====
section
/-! DEFINITION. The civil calendar and the summer rule (R4, R5, R7, R10). A date is numbered by its days since 2000-01-01, an
instant by its seconds since 2000-01-01 00:00:00. -/

namespace Sys2Proof

/-- R4: divisible by 4, but by 100 only when also by 400. -/
def isLeap (y : Nat) : Bool := y % 4 == 0 && (y % 100 != 0 || y % 400 == 0)

/-- R4. -/
def daysInYear (y : Nat) : Nat := if isLeap y then 366 else 365

/-- R4. -/
def daysInMonth (y m : Nat) : Nat :=
  match m with
  | 2 => if isLeap y then 29 else 28
  | 4 | 6 | 9 | 11 => 30
  | _ => 31

/-- The leap years of the Gregorian calendar before the year `y`. -/
def leapYearsBefore (y : Nat) : Nat := (y - 1) / 4 - (y - 1) / 100 + (y - 1) / 400

/-- The day number of 1 January of `y`; 484 leap years lie before the year 2000. -/
def dayOfYearStart (y : Nat) : Int := 365 * ((y : Int) - 2000) + (leapYearsBefore y : Int) - 484

/-- The days of the year `y` before its month `m`. -/
def daysBeforeMonth (y m : Nat) : Nat := ((List.range (m - 1)).map fun k => daysInMonth y (k + 1)).sum

/-- The day number of a date. -/
def dayNumber (d : Date) : Int := dayOfYearStart d.year + (daysBeforeMonth d.year d.month + d.day : Nat) - 1

/-- R4: the day of the year, from 1. -/
def dayOfYear (d : Date) : Nat := daysBeforeMonth d.year d.month + d.day

/-- Counts off whole years from `y` while `n` days hold one. -/
def splitYear : Nat → Nat → Nat → Nat × Nat
  | 0, y, n => (y, n)
  | fuel + 1, y, n => if n < daysInYear y then (y, n) else splitYear fuel (y + 1) (n - daysInYear y)

/-- Counts off whole months of the year `y` from `m` while `n` days hold one. -/
def splitMonth : Nat → Nat → Nat → Nat → Nat × Nat
  | 0, _, m, n => (m, n)
  | fuel + 1, y, m, n => if n < daysInMonth y m then (m, n) else splitMonth fuel y (m + 1) (n - daysInMonth y m)

/-- The date of a day number, for the years 2000 to 2300. -/
def dateOfDay (n : Nat) : Date :=
  let (y, rest) := splitYear 300 2000 n
  let (m, d) := splitMonth 12 y 1 rest
  { year := y, month := m, day := d + 1 }

/-- A real date of the calendar range (R4, R10). -/
def Date.isReal (d : Date) : Bool :=
  2000 ≤ d.year && d.year ≤ 2199 && 1 ≤ d.month && d.month ≤ 12 && 1 ≤ d.day && d.day ≤ daysInMonth d.year d.month

/-- A time of day hh:mm. -/
def HourMinute.isReal (t : HourMinute) : Bool := t.hour ≤ 23 && t.minute ≤ 59

def HourMinute.seconds (t : HourMinute) : Nat := t.hour * 3600 + t.minute * 60

/-- The instant a date and time reads. -/
def DateTime.instant (t : DateTime) : Int :=
  dayNumber t.date * 86400 + (t.hour * 3600 + t.minute * 60 + t.second : Nat)

/-- The date and time of an instant. -/
def dateTimeOf (t : Nat) : DateTime :=
  { date := dateOfDay (t / 86400), hour := t % 86400 / 3600, minute := t % 3600 / 60, second := t % 60 }

/-! ## Weekdays (R4, R5) -/

def Weekday.index : Weekday → Nat
  | .monday => 0
  | .tuesday => 1
  | .wednesday => 2
  | .thursday => 3
  | .friday => 4
  | .saturday => 5
  | .sunday => 6

/-- R4: the weekday of a day number, MONDAY 0 to SUNDAY 6; 2000-01-01 is a SATURDAY. -/
def weekdayIndex (day : Int) : Nat := ((day + 5) % 7).toNat

/-- R5: the day of the month of the `week`-th occurrence of a weekday, `week` 5 being LAST. -/
def nthWeekday (y m week : Nat) (weekday : Weekday) : Nat :=
  let firstIndex := weekdayIndex (dayNumber ⟨y, m, 1⟩)
  let first := 1 + (weekday.index + 7 - firstIndex) % 7
  if week ≤ 4 then first + 7 * (week - 1) else first + 7 * ((daysInMonth y m - first) / 7)

/-! ## The summer rule (R7) -/

/-- R7: the start instant S(Y), read as standard time. -/
def summerStart (r : SummerRule) (y : Nat) : Int :=
  dayNumber ⟨y, r.startMonth, nthWeekday y r.startMonth r.startWeek r.startWeekday⟩ * 86400 + (r.startTime.seconds : Int)

/-- R7: the end instant E(Y), read as local summer time, less the offset. -/
def summerEnd (r : SummerRule) (y : Nat) : Int :=
  dayNumber ⟨y, r.endMonth, nthWeekday y r.endMonth r.endWeek r.endWeekday⟩ * 86400 + (r.endTime.seconds : Int)
    - (r.offset * 60 : Nat)

/-- The year of a standard instant; an instant before 2000, which a summer reading can give, lies in 1999. -/
def yearOf (t : Int) : Nat := if t < 0 then 1999 else (dateOfDay (t.toNat / 86400)).year

/-- R7: whether summer is in force at the standard instant `t`. -/
def summerAt (r : SummerRule) (t : Int) : Bool :=
  let y := yearOf t
  r.enabled &&
    (if r.startMonth < r.endMonth then decide (summerStart r y ≤ t ∧ t < summerEnd r y)
     else decide (t < summerEnd r y ∨ summerStart r y ≤ t))

/-- The offset in seconds while summer is in force, else 0. -/
def SummerRule.shift (r : SummerRule) (summer : Bool) : Nat := if summer then r.offset * 60 else 0

/-- R7: the local instant shown at a standard instant. -/
def localAt (r : SummerRule) (t : Nat) : Nat := t + r.shift (summerAt r t)

/-- R10: the standard instant a local instant `g` reads, against the rule: the summer reading when it is consistent, else the
winter reading when that is, else none (the skipped hour). -/
def readLocal (r : SummerRule) (g : Int) : Option Int :=
  if !r.enabled then some g
  else if summerAt r (g - (r.offset * 60 : Nat)) then some (g - (r.offset * 60 : Nat))
  else if !summerAt r g then some g
  else none

/-- R10: an instant of the calendar range. -/
def inRange (t : Int) : Bool := decide (0 ≤ t ∧ t < (Config.rangeEnd : Int))

/-- R19: the standard instant of the next summer transition after `t`. After the last one of 2199 it answers the next of the year
2200, which lies beyond the calendar range (log entry 48). -/
def nextTransition (r : SummerRule) (t : Nat) : Option Nat :=
  let y := yearOf t
  let all := [summerStart r y, summerEnd r y, summerStart r (y + 1), summerEnd r (y + 1)].filter fun x => decide ((t : Int) < x)
  match all with
  | [] => none
  | x :: rest => some (rest.foldl min x).toNat

end Sys2Proof
end

