-- ==== Sys2Proof/Decode.lean ====
section
/-! DEFINITION. The bytes of a link frame read as a host request (R181, R184, section 11.5), and the table's words, which spell no
command: no row of the table gives bits. -/

namespace Sys2Proof

/-- No row of opcode_table.json gives bits, so no word spells a command. -/
def decodeTableWord (_nbits _w : Nat) : Option Instr := none

/-! ## Bits (R179) -/

/-- A byte of eight bits, most significant first. -/
def byteOfBits (bits : List Bool) : Byte := BitVec.ofNat 8 (bits.foldl (fun n b => 2 * n + b.toNat) 0)

/-- R179: the whole bytes of the bits sampled in a frame, most significant bit first; a part byte left is discarded. -/
def shiftedBytes : List Bool → List Byte
  | a :: b :: c :: d :: e :: f :: g :: h :: rest => byteOfBits [a, b, c, d, e, f, g, h] :: shiftedBytes rest
  | _ => []

/-- The bits a host drives on SDI for some bytes, most significant bit first (R179). -/
def bitsOfBytes (bytes : List Byte) : List Bool := bytes.flatMap fun b => (List.range 8).map fun k => b.getLsbD (7 - k)

/-! ## Fields (R184). Each reader answers the field and the bytes after it, or none when the payload is too short or holds a code
not defined for the field. -/

/-- A field of `k` bytes, most significant first. -/
def readNat : Nat → List Byte → Option (Nat × List Byte)
  | 0, b => some (0, b)
  | _ + 1, [] => none
  | k + 1, x :: b => (readNat k b).map fun r => (x.toNat * 256 ^ k + r.1, r.2)

def read8 (b : List Byte) : Option (Nat × List Byte) := readNat 1 b
def read16 (b : List Byte) : Option (Nat × List Byte) := readNat 2 b

/-- A signed field of `k` bytes in two's complement. -/
def readSigned (k : Nat) (b : List Byte) : Option (Int × List Byte) :=
  (readNat k b).map fun r => (if 2 * r.1 < 256 ^ k then (r.1 : Int) else (r.1 : Int) - (256 ^ k : Nat), r.2)

/-- An enumerated field, coded by place. -/
def readEnum {α : Type} (values : List α) (b : List Byte) : Option (α × List Byte) :=
  match read8 b with
  | none => none
  | some (n, b) => values[n]?.map fun x => (x, b)

def readYesNo (b : List Byte) : Option (Bool × List Byte) := readEnum [false, true] b

/-- An optional field: a presence byte, then the field. -/
def readOptional {α : Type} (f : List Byte → Option (α × List Byte)) (b : List Byte) : Option (Option α × List Byte) :=
  match readYesNo b with
  | none => none
  | some (false, b) => some (none, b)
  | some (true, b) => (f b).map fun r => (some r.1, r.2)

/-- A given number of fields of one form. -/
def readMany {α : Type} (f : List Byte → Option (α × List Byte)) : Nat → List Byte → Option (List α × List Byte)
  | 0, b => some ([], b)
  | n + 1, b => do
    let (x, b) ← f b
    let (xs, b) ← readMany f n b
    some (x :: xs, b)

/-- Fields of one form until the payload ends; `fuel` bounds their number (log entry 25). -/
def readAll {α : Type} (f : List Byte → Option (α × List Byte)) : Nat → List Byte → Option (List α)
  | _, [] => some []
  | 0, _ :: _ => none
  | fuel + 1, b => do
    let (x, b) ← f b
    let xs ← readAll f fuel b
    some (x :: xs)

/-- A label of 16 bytes; its unused places are the zeros at its end. -/
def readLabel (b : List Byte) : Option (Label × List Byte) :=
  if 16 ≤ b.length then some (((b.take 16).reverse.dropWhile (· == 0)).reverse, b.drop 16) else none

def readHandle (b : List Byte) : Option (Handle × List Byte) := do
  let (slot, b) ← read8 b
  let (gen, b) ← read8 b
  some ({ slot := slot, gen := gen }, b)

def readDate (b : List Byte) : Option (Date × List Byte) := do
  let (year, b) ← read16 b
  let (month, b) ← read8 b
  let (day, b) ← read8 b
  some ({ year := year, month := month, day := day }, b)

def readHourMinute (b : List Byte) : Option (HourMinute × List Byte) := do
  let (hour, b) ← read8 b
  let (minute, b) ← read8 b
  some ({ hour := hour, minute := minute }, b)

/-- An instant of seven bytes. -/
def readInstant (b : List Byte) : Option (DateTime × List Byte) := do
  let (date, b) ← readDate b
  let (hour, b) ← read8 b
  let (minute, b) ← read8 b
  let (second, b) ← read8 b
  some ({ date := date, hour := hour, minute := minute, second := second }, b)

/-- The weekdays, MONDAY first. -/
def weekdays : List Weekday := [.monday, .tuesday, .wednesday, .thursday, .friday, .saturday, .sunday]

/-! ## Records -/

/-- Trim, mark input enable and the summer rule, in the order of section 1.3 (log entry 24). -/
def readTimeSettings (b : List Byte) : Option (TimeSettings × List Byte) := do
  let (trim, b) ← readSigned 2 b
  let (markEnable, b) ← readYesNo b
  let (enabled, b) ← readYesNo b
  let (offset, b) ← read8 b
  let (startMonth, b) ← read8 b
  let (startWeek, b) ← read8 b
  let (startWeekday, b) ← readEnum weekdays b
  let (startTime, b) ← readHourMinute b
  let (endMonth, b) ← read8 b
  let (endWeek, b) ← read8 b
  let (endWeekday, b) ← readEnum weekdays b
  let (endTime, b) ← readHourMinute b
  some ({ trim := trim, markEnable := markEnable,
          rule := { enabled := enabled, offset := offset, startMonth := startMonth, startWeek := startWeek,
                    startWeekday := startWeekday, startTime := startTime, endMonth := endMonth, endWeek := endWeek,
                    endWeekday := endWeekday, endTime := endTime } }, b)

/-- The stored dial record of R36; position, polarity, doubt and fault reason are read past (R20). -/
def readDialAmend (b : List Byte) : Option (DialAmend × List Byte) := do
  let (label, b) ← readLabel b
  let (service, b) ← readEnum [true, false] b
  let (_, b) ← read16 b
  let (_, b) ← readEnum [(), ()] b
  let (width, b) ← read8 b
  let (spacing, b) ← read8 b
  let (window, b) ← read16 b
  let (_, b) ← readYesNo b
  let (_, b) ← readOptional (readEnum [()]) b
  some ({ label := label, service := service, impulseWidth := width * 10, spacing := spacing * 500, window := window }, b)

def lineFunctions : List LineFunction :=
  [.unused, .hammerStrike, .hammerBusy, .swingSense, .restSense, .motor, .dialPositive, .dialNegative, .dialSense, .lamp,
   .ambient, .ringingSwitch, .bellKey]

def readLineRecord (b : List Byte) : Option (LineRecord × List Byte) := do
  let (function, b) ← readEnum lineFunctions b
  let (bound, b) ← readOptional read8 b
  let (activeHigh, b) ← readEnum [true, false] b
  let (filter, b) ← read8 b
  some ({ function := function, bound := bound, activeHigh := activeHigh, filter := filter }, b)

def readBellConfig (b : List Byte) : Option (BellConfig × List Byte) := do
  let (label, b) ← readLabel b
  let (group, b) ← readEnum [BellGroup.ring, .chime, .service] b
  let (inService, b) ← readYesNo b
  let (hammerInService, b) ← readYesNo b
  let (motorInService, b) ← readYesNo b
  let (hostLock, b) ← readYesNo b
  let (sensorMode, b) ← readEnum [SensorMode.none, .swingOnly, .swingAndRest] b
  let (settle, b) ← read16 b
  let (lead, b) ← read16 b
  let (velocity0, b) ← read8 b
  let (velocity1, b) ← read8 b
  let (velocity2, b) ← read8 b
  let (velocity3, b) ← read8 b
  let (feedback, b) ← readEnum [Feedback.busy, .none] b
  let (repeatInterval, b) ← read16 b
  let (motorRating, b) ← read16 b
  some ({ label := label, group := group, inService := inService, hammerInService := hammerInService,
          motorInService := motorInService, hostLock := hostLock, sensorMode := sensorMode, settle := settle, lead := lead,
          velocity0 := velocity0, velocity1 := velocity1, velocity2 := velocity2, velocity3 := velocity3,
          feedback := feedback, repeatInterval := repeatInterval, motorRating := motorRating }, b)

/-- The degrees of a NOTE: 255 stands after the last. -/
def readDegrees (d : List Nat) : Option (List Nat) :=
  let used := d.takeWhile (· != 255)
  if (d.drop used.length).all (· == 255) then some used else none

/-- A tune step of 8 bytes (section 11.5). The bytes the layout gives as 0 are not judged (log entry 25). -/
def readStep (b : List Byte) : Option (Step × List Byte) := do
  let (kind, b) ← read8 b
  let (first, b) ← read8 b
  let (high, b) ← read8 b
  let (low, b) ← read8 b
  let (rest, b) ← readMany read8 4 b
  match kind with
  | 1 => (readDegrees rest).map fun d => (.note d first (high * 256 + low), b)
  | 2 => some (.rest (high * 256 + low), b)
  | 3 => some (.call { slot := high, gen := low } first, b)
  | _ => none

/-- A degree and a bell index or nothing (R85). -/
def readMapPair (b : List Byte) : Option ((Nat × Option Nat) × List Byte) := do
  let (degree, b) ← read8 b
  let (bell, b) ← readOptional read8 b
  some ((degree, bell), b)

def readClockConfig (b : List Byte) : Option (ClockConfig × List Byte) := do
  let (quartersEnabled, b) ← readYesNo b
  let (first, b) ← readOptional readHandle b
  let (second, b) ← readOptional readHandle b
  let (third, b) ← readOptional readHandle b
  let (fourth, b) ← readOptional readHandle b
  let (hourEnabled, b) ← readYesNo b
  let (hourBell, b) ← read8 b
  let (blowInterval, b) ← read16 b
  let (hourVelocity, b) ← read8 b
  let (strikeGap, b) ← read16 b
  let (quarterPriority, b) ← read8 b
  let (hourPriority, b) ← read8 b
  let (expiry, b) ← read16 b
  let (nightStart, b) ← readOptional readHourMinute b
  let (nightEnd, b) ← readOptional readHourMinute b
  let (nightMode, b) ← readEnum [NightMode.all, .quarters] b
  some ({ quartersEnabled := quartersEnabled, first := first, second := second, third := third, fourth := fourth,
          hourEnabled := hourEnabled, hourBell := hourBell, blowInterval := blowInterval, hourVelocity := hourVelocity,
          strikeGap := strikeGap, quarterPriority := quarterPriority, hourPriority := hourPriority, expiry := expiry,
          nightStart := nightStart, nightEnd := nightEnd, nightMode := nightMode }, b)

/-- Bytes 16 to 20 of an occasion record; bits of a set that name nothing are dropped (log entry 25). -/
def readRecurrence (b : List Byte) : Option (Recurrence × List Byte) := do
  let (kind, b) ← read8 b
  let (x, b) ← readMany read8 4 b
  match kind, x with
  | 0, [y1, y0, m, d] => some (.once { year := y1 * 256 + y0, month := m, day := d }, b)
  | 1, _ => some (.daily, b)
  | 2, [w, _, _, _] => some (.weekly (BitVec.ofNat 7 w), b)
  | 3, [week, day, m1, m0] =>
    (if day = 0 then none else weekdays[day - 1]?).map fun w => (.monthlyNth week w (BitVec.ofNat 12 (m1 * 256 + m0)), b)
  | 4, [m, d, _, _] => some (.annual m d, b)
  | _, _ => none

/-- Bytes 30 to 33 of an occasion record. -/
def readAnchor (b : List Byte) : Option (Anchor × List Byte) := do
  let (kind, b) ← read8 b
  match kind with
  | 0 => do
    let (h, b) ← read8 b
    let (m, b) ← read8 b
    let (sec, b) ← read8 b
    some (.clock h m sec, b)
  | 1 => do
    let (offset, b) ← readSigned 2 b
    let (_, b) ← read8 b
    some (.dusk offset, b)
  | _ => none

/-- The fields of an action block, by its kind. -/
def readActionKind (kind : Nat) (b : List Byte) : Option ActionKind :=
  match kind with
  | 1 => do
    let (tune, b) ← readHandle b
    let (transposition, b) ← readSigned 1 b
    let (repeats, b) ← read8 b
    let (yields, _) ← readYesNo b
    some (.play tune transposition repeats yields)
  | 2 => do
    let (bell, b) ← read8 b
    let (interval, b) ← read8 b
    let (blows, b) ← read16 b
    let (velocity, _) ← read8 b
    some (.toll bell interval blows velocity)
  | 3 => do
    let (bell, b) ← read8 b
    let (minutes, _) ← read8 b
    some (.swing bell minutes)
  | 4 => do
    let (scene, b) ← readHandle b
    let (hold, _) ← read16 b
    some (.sceneUp scene hold)
  | 5 => do
    let (scene, _) ← readHandle b
    some (.sceneDown scene)
  | 6 => do
    let (minutes, _) ← read8 b
    some (.silence minutes)
  | _ => none

/-- An action block of 10 bytes. -/
def readAction (b : List Byte) : Option (Action × List Byte) :=
  if b.length < 10 then none
  else do
    let (kind, c) ← read8 b
    let (offset, c) ← read16 c
    let k ← readActionKind kind c
    some ({ offset := offset, kind := k }, b.drop 10)

/-- The 77 bytes of configuration of an occasion record; the blocks after the action count are not read, and bits 2 to 7
of the window are dropped (log entry 25). -/
def readOccasion (b : List Byte) : Option (OccasionConfig × List Byte) :=
  if b.length < 77 then none
  else do
    let (label, c) ← readLabel b
    let (recurrence, c) ← readRecurrence c
    let (window, c) ← read8 c
    let (first, c) ← readDate c
    let (last, c) ← readDate c
    let (anchor, c) ← readAnchor c
    let (grace, c) ← read8 c
    let (priority, c) ← read8 c
    let (count, c) ← read8 c
    if 4 < count then none
    else do
      let (actions, _) ← readMany readAction count c
      some ({ label := label, recurrence := recurrence,
              firstDate := if window % 2 = 1 then some first else none,
              lastDate := if window / 2 % 2 = 1 then some last else none,
              anchor := anchor, grace := grace, priority := priority, actions := actions }, b.drop 77)

/-- A week and its minutes (R144). -/
def readDuskPair (b : List Byte) : Option ((Nat × Nat) × List Byte) := do
  let (week, b) ← read8 b
  let (minutes, b) ← read16 b
  some ((week, minutes), b)

def readChannelConfig (b : List Byte) : Option (ChannelConfig × List Byte) := do
  let (label, b) ← readLabel b
  let (inService, b) ← readYesNo b
  let (rating, b) ← read16 b
  let (ceiling, b) ← read16 b
  let (floor, b) ← read16 b
  some ({ label := label, inService := inService, rating := rating, ceiling := ceiling, floor := floor }, b)

/-- A channel and its level (section 11.5). -/
def readLevel (b : List Byte) : Option ((Nat × Nat) × List Byte) := do
  let (channel, b) ← read8 b
  let (level, b) ← read16 b
  some ((channel, level), b)

/-- A scene payload (section 11.5). -/
def readScene (b : List Byte) : Option (SceneConfig × List Byte) := do
  let (label, b) ← readLabel b
  let (fadeIn, b) ← read16 b
  let (fadeOut, b) ← read16 b
  let (priority, b) ← read8 b
  let (mode, b) ← readEnum [LayerMode.top, .max] b
  let (count, b) ← read8 b
  let (levels, b) ← readMany readLevel count b
  some ({ label := label, levels := levels, fadeIn := fadeIn, fadeOut := fadeOut, priority := priority, mode := mode }, b)

/-- The condition flags' two bytes; bits 12 to 15 hold no flag and are dropped (log entry 25). -/
def readFlags (b : List Byte) : Option (FlagSet × List Byte) := (read16 b).map fun r => (BitVec.ofNat 12 r.1, r.2)

def readRetireMode (b : List Byte) : Option (RetireMode × List Byte) := readEnum [RetireMode.gentle, .abrupt] b

/-- LIST NEXT: the optional "after" slot and the state filter, whose last place is "any". -/
def readListNext {α : Type} (states : List α) (b : List Byte) : Option ((Option Nat × Option α) × List Byte) := do
  let (after, b) ← readOptional read8 b
  let (filter, b) ← readEnum (states.map some ++ [none]) b
  some ((after, filter), b)

/-! ## Commands (section 11.5) -/

/-- LOOK UP, by class. -/
def decodeLookUp (cls slot : Nat) (h : Handle) (p : List Byte) : Option Request :=
  match cls with
  | 1 => some .lookUpTimeSettings
  | 2 => some (.lookUpDial slot)
  | 3 => some (.lookUpLine slot)
  | 4 => some (.lookUpBell slot)
  | 5 => (readOptional read16 p).map fun r => .lookUpTune h r.1
  | 6 => some .lookUpChimeMap
  | 7 => some .lookUpClockProgram
  | 8 => some (.lookUpOccasion h)
  | 9 => some .lookUpDuskSettings
  | 10 => some .lookUpDuskTable
  | 11 => some (.lookUpChannel slot)
  | 12 => some (.lookUpScene h)
  | 13 => some .lookUpFeeder
  | 14 => some .lookUpConditions
  | _ => none

/-- AMEND, by class. -/
def decodeAmend (cls slot : Nat) (h : Handle) (p : List Byte) : Option Request :=
  match cls with
  | 1 => (readTimeSettings p).map fun r => .amendTimeSettings r.1
  | 2 => (readDialAmend p).map fun r => .amendDial slot r.1
  | 3 => (readLineRecord p).map fun r => .amendLine slot r.1
  | 4 => (readBellConfig p).map fun r => .amendBell slot r.1
  | 5 => (readLabel p).map fun r => .amendTune h r.1
  | 6 => (readAll readMapPair 512 p).map fun r => .amendChimeMap r
  | 7 => (readClockConfig p).map fun r => .amendClockProgram r.1
  | 8 => (readOccasion p).map fun r => .amendOccasion h r.1
  | 9 => do
    let (line, p) ← readOptional read8 p
    let (threshold, p) ← read16 p
    let (confirm, p) ← read8 p
    let (_, _) ← readYesNo p
    some (.amendDuskSettings line threshold confirm)
  | 10 => (readAll readDuskPair 512 p).map fun r => .amendDuskTable r
  | 11 => (readChannelConfig p).map fun r => .amendChannel slot r.1
  | 12 => (readScene p).map fun r => .amendScene h r.1
  | 13 => (read16 p).map fun r => .amendFeeder r.1
  | 14 => (readFlags p).map fun r => .amendConditions r.1
  | _ => none

/-- READ STATE, by class. -/
def decodeReadState (cls slot : Nat) (h : Handle) : Option Request :=
  match cls with
  | 2 => some (.readStateDial slot)
  | 3 => some (.readStateLine slot)
  | 4 => some (.readStateBell slot)
  | 5 => some (.readStateTune h)
  | 7 => some .readStateClockProgram
  | 8 => some (.readStateOccasion h)
  | 11 => some (.readStateChannel slot)
  | 12 => some (.readStateScene h)
  | 17 => some .readStateTimeBase
  | 18 => some .readStateTuneLibrary
  | 19 => some .readStateChimeSequencer
  | 20 => some .readStateOccasionCalendar
  | 21 => some .readStateFloodlightMixer
  | 22 => some .readStateFeederAccount
  | _ => none

/-- LIST NEXT, by class. -/
def decodeListNext (cls : Nat) (p : List Byte) : Option Request :=
  match cls with
  | 5 => (readListNext [TuneState.draft, .live, .retiring] p).map fun r => .listNextTune r.1.1 r.1.2
  | 8 =>
    (readListNext [OccasionState.armed, .firing, .suspended, .spent, .retiring] p).map fun r =>
      .listNextOccasion r.1.1 r.1.2
  | 12 => (readListNext [SceneState.live, .retiring] p).map fun r => .listNextScene r.1.1 r.1.2
  | _ => none

/-- RETIRE, by class. -/
def decodeRetire (cls : Nat) (h : Handle) (p : List Byte) : Option Request :=
  (readRetireMode p).bind fun r =>
    match cls, r.1 with
    | 5, m => some (.retireTune h m)
    | 8, .gentle => some (.retireGentle h)
    | 8, .abrupt => some (.retireAbrupt h)
    | 12, m => some (.retireScene h m)
    | _, _ => none

/-- STOP, by class: a bell by its index, a chime entry by the number in the payload, whatever the slot (log entry 25), a toll channel by
the payload's byte. -/
def decodeStop (cls slot : Nat) (p : List Byte) : Option Request :=
  match cls with
  | 4 => some (.stopBell slot)
  | 15 => (read16 p).map fun r => .stopChimeEntry r.1
  | 16 => (read8 p).map fun r => .stopTollChannel r.1
  | _ => none

/-- The commands of one class each. -/
def decodeSingle (command cls slot : Nat) (h : Handle) (p : List Byte) : Option Request :=
  match command, cls with
  | 3, 8 => (readOccasion p).map fun r => .storeOccasion r.1
  | 3, 12 => (readScene p).map fun r => .storeScene r.1
  | 4, 5 => (readLabel p).map fun r => .openTune r.1
  | 5, 5 => (readAll readStep 512 p).map fun r => .appendSteps h r
  | 6, 5 => some (.closeTune h)
  | 9, 8 => some (.suspend h)
  | 10, 8 => some (.resume h)
  | 11, 17 => do
    let (basis, p) ← readEnum [TimeBasis.standardTime, .localTime] p
    let (t, _) ← readInstant p
    some (.setTime basis t)
  | 12, 2 => (read16 p).map fun r => .setDial slot r.1
  | 13, 5 => do
    let (transposition, p) ← readSigned 1 p
    let (repeats, p) ← read8 p
    let (priority, p) ← read8 p
    let (yields, _) ← readYesNo p
    some (.play h transposition repeats priority yields)
  | 14, 16 => do
    let (bell, p) ← read8 p
    let (interval, p) ← read8 p
    let (blows, p) ← read16 p
    let (velocity, _) ← read8 p
    some (.toll bell interval blows velocity)
  | 15, 4 => (read8 p).map fun r => .swing slot r.1
  | 17, 12 => (readOptional read16 p).map fun r => .raiseScene h r.1
  | 18, 12 => some (.lowerScene h)
  | 20, 14 => some .readConditions
  | 21, 14 => (readFlags p).map fun r => .acknowledge r.1
  | 22, 14 => some .restart
  | _, _ => none

/-- R184: a command, its class, slot, generation and payload as a request; none is BAD FIELD. -/
def decodeRequest (command cls slot gen : Nat) (p : List Byte) : Option Request :=
  let h : Handle := { slot := slot, gen := gen }
  match command with
  | 1 => decodeLookUp cls slot h p
  | 2 => decodeListNext cls p
  | 7 => decodeAmend cls slot h p
  | 8 => decodeRetire cls h p
  | 16 => decodeStop cls slot p
  | 19 => decodeReadState cls slot h
  | _ => decodeSingle command cls slot h p

/-- What the bytes of a frame are (R181, R184). -/
inductive FrameContent where
  /-- No bytes, or command code 0, NONE. -/
  | nothing
  | badFrame
  /-- A request that is taken when the link is OPEN. -/
  | taken (task : Machine.Task)
deriving DecidableEq, Repr

/-- R112, R170: STORE and RETIRE of a record the part holds exactly one of. -/
def isSingleRecord (command cls : Nat) : Bool := (command == 3 || command == 8) && (cls == 7 || cls == 13)

/-- R184: the class's slot and generation together name a record: TUNE, OCCASION and SCENE, but for the commands that name none
(LIST NEXT, STORE and OPEN TUNE). -/
def namesHandle (command cls : Nat) : Bool := [5, 8, 12].contains cls && !([2, 3, 4].contains command)

/-- R184: the class's slot alone names a record: DIAL, LINE, BELL, CHANNEL and CHIME ENTRY. -/
def namesIndex (cls : Nat) : Bool := [2, 3, 4, 11, 15].contains cls

/-- R184: a request refused by its class or its payload; the response carries the handle or index it named (log entry 23). -/
def refusedTask (status : Machine.Status) (command cls slot gen : Nat) : Machine.Task :=
  if namesHandle command cls then .refused status slot gen
  else if namesIndex cls then .refused status slot 0
  else .refused status 0 0

/-- R184: a whole request, header and payload. Steps of an APPEND STEPS that cannot be read are its owner's to refuse, in the order
of R76. -/
def decodeBody (command cls slot gen : Nat) (payload : List Byte) : Machine.Task :=
  if isSingleRecord command cls then refusedTask .wrongState command cls slot gen
  else
    match decodeRequest command cls slot gen payload with
    | some r => .request r
    | none =>
      if command = 5 ∧ cls = 5 then .badSteps { slot := slot, gen := gen }
      else refusedTask .badField command cls slot gen

/-- R181: the bytes shifted in, judged. -/
def decodeFrame (bytes : List Byte) : FrameContent :=
  match bytes with
  | [] => .nothing
  | b0 :: rest =>
    if b0 = 0 then .nothing
    else
      match rest with
      | b1 :: b2 :: b3 :: b4 :: b5 :: payload =>
        let length := b4.toNat * 256 + b5.toNat
        if 512 < length ∨ payload.length < length then .badFrame
        else if 22 < b0.toNat ∨ b1 = 0 ∨ 22 < b1.toNat then .badFrame
        else .taken (decodeBody b0.toNat b1.toNat b2.toNat b3.toNat (payload.take length))
      | _ => .badFrame

end Sys2Proof
end

