-- ==== Sys2Proof/Machine/Ops.lean ====
section
/-! DEFINITION. The named operations every block shares: the passage of elapsed time, reading and writing one record of a table,
asking for a record memory write, the link state, answering a request, and the form of a command's outcome. -/

namespace Sys2Proof.Machine

/-- The outcome of a step of this machine. -/
abbrev Result := Host.Outcome State Fault Refusal

/-! ## Elapsed time -/

/-- The present moment of elapsed time, to the millisecond (log entry 6). -/
def State.nowMs (s : State) : Nat := s.clock * 1000 / Config.countsPerSecond

/-- `dt` crystal counts pass: the elapsed clock and the prescaler count them, the prescaler no further than the length of the
second, at which SECOND_END is due (R1, log entry 3). -/
def State.elapse (s : State) (dt : Nat) : State :=
  { s with clock := s.clock + dt, time.prescaler := min s.time.secondLength (s.time.prescaler + dt) }

/-- A SECOND has been announced at the present moment, so that the tests made at a SECOND are made now (log entry 7). -/
abbrev State.atSecond (s : State) : Prop := s.time.lastSecond = some s.clock

/-- The power state is MAINS: every block runs (section 1.7). -/
abbrev State.inMains (s : State) : Prop := s.time.power = .mains

/-- The local instant shown (R7). -/
def State.localNow (s : State) : Nat := s.time.standard + s.time.settings.rule.shift s.time.summer

/-- A standard instant given as a local instant, by the rule in force. -/
def State.localOf (s : State) (t : Nat) : Nat := localAt s.time.settings.rule t

/-! ## Reading and writing one record -/

def State.dial (s : State) (i : Nat) : Dial := s.dials.getD i Dial.blank
def State.setDial (s : State) (i : Nat) (d : Dial) : State := { s with dials := s.dials.setIfInBounds i d }

def State.line (s : State) (i : Nat) : Line := s.lines.getD i Line.blank
def State.setLine (s : State) (i : Nat) (l : Line) : State := { s with lines := s.lines.setIfInBounds i l }

def State.bell (s : State) (i : Nat) : Bell := s.bells.getD i Bell.blank
def State.setBell (s : State) (i : Nat) (b : Bell) : State := { s with bells := s.bells.setIfInBounds i b }

def State.stroke (s : State) (i : Nat) : StrokeState := s.hammers.strokes.getD i .outOfService
def State.setStroke (s : State) (i : Nat) (k : StrokeState) : State :=
  { s with hammers.strokes := s.hammers.strokes.setIfInBounds i k }

def State.tuneSlot (s : State) (i : Nat) : Slot Tune := s.tunes.slots.getD i ⟨0, none⟩
def State.setTuneSlot (s : State) (i : Nat) (x : Slot Tune) : State :=
  { s with tunes.slots := s.tunes.slots.setIfInBounds i x }

def State.toll (s : State) (i : Nat) : Option TollRun := s.chime.tolls.getD i none
def State.setToll (s : State) (i : Nat) (x : Option TollRun) : State :=
  { s with chime.tolls := s.chime.tolls.setIfInBounds i x }

def State.lastToll (s : State) (i : Nat) : TollRun := s.chime.lastTolls.getD i TollRun.blank
def State.setLastToll (s : State) (i : Nat) (x : TollRun) : State :=
  { s with chime.lastTolls := s.chime.lastTolls.setIfInBounds i x }

def State.occasionSlot (s : State) (i : Nat) : Slot Occasion := s.calendar.slots.getD i ⟨0, none⟩
def State.setOccasionSlot (s : State) (i : Nat) (x : Slot Occasion) : State :=
  { s with calendar.slots := s.calendar.slots.setIfInBounds i x }

def State.context (s : State) (i : Nat) : Option Context := s.calendar.contexts.getD i none
def State.setContext (s : State) (i : Nat) (x : Option Context) : State :=
  { s with calendar.contexts := s.calendar.contexts.setIfInBounds i x }

def State.channel (s : State) (i : Nat) : Channel := s.mixer.channels.getD i Channel.blank
def State.setChannel (s : State) (i : Nat) (x : Channel) : State :=
  { s with mixer.channels := s.mixer.channels.setIfInBounds i x }

def State.sceneSlot (s : State) (i : Nat) : Slot Scene := s.mixer.scenes.getD i ⟨0, none⟩
def State.setSceneSlot (s : State) (i : Nat) (x : Slot Scene) : State :=
  { s with mixer.scenes := s.mixer.scenes.setIfInBounds i x }

/-- Applies an act for each index below `n`, in order (log entry 66). -/
def eachIndex (n : Nat) (act : Nat → State → State) (s : State) : State :=
  (List.range n).foldl (fun s i => act i s) s

/-! ## Handles (R73) -/

/-- A handle in range: a slot below `slots` and a generation of 1 to 255 (R73). -/
def handleInRange (h : Handle) (slots : Nat) : Bool := h.slot < slots && 1 ≤ h.gen && h.gen ≤ 255

/-- R74: a generation advances by 1, from 255 to 1. -/
def nextGeneration (g : Nat) : Nat := if 255 ≤ g then 1 else g + 1

/-- The record a handle names: the slot is occupied and the generations agree (R73). -/
def Slot.named {α : Type} (x : Slot α) (h : Handle) : Option α := if h.gen = x.gen then x.record else none

/-- The tune, occasion or scene a handle names, none when it is stale (R73). -/
def State.findTune (s : State) (h : Handle) : Option Tune := Slot.named (s.tuneSlot h.slot) h
def State.findOccasion (s : State) (h : Handle) : Option Occasion := Slot.named (s.occasionSlot h.slot) h
def State.findScene (s : State) (h : Handle) : Option Scene := Slot.named (s.sceneSlot h.slot) h

/-- The lowest-numbered free slot of a table (R74, R123, R150). -/
def lowestFree {α : Type} {n : Nat} (slots : Vector (Slot α) n) : Option Nat :=
  (List.range n).find? fun i => (slots.getD i ⟨0, none⟩).record.isNone

/-! ## Record memory (R183) -/

/-- Asks for a write; it joins the end of the waiting writes (R183). -/
def State.askWrite (s : State) (e : WriteEffect) : State :=
  { s with memory.writes := s.memory.writes ++ [{ effect := e, response := none }] }

/-- Asks for the write of a record whose live value has already changed. -/
def State.store (s : State) (r : RecordName) : State := s.askWrite (.stored r)

/-! ## The Command Link's answers (R180, R182) -/

/-- R182: the link is OPEN when no request is in progress, no write is in progress and the gate is CLOSED. -/
def State.linkOpen (s : State) : Bool :=
  s.link.inProgress.isNone && s.memory.writes.isEmpty && decide (s.hammers.gate = .closed)

/-- R182: an answer becomes the waiting response, replacing one not collected, and no request is in progress. -/
def State.answer (s : State) (r : Response) : State :=
  { s with link.inProgress := none, link.waiting := some r }

/-- Puts the response of the request in progress on the last write asked for (R182). -/
def attachResponse (r : Response) : List Write → List Write
  | [] => []
  | [w] => [{ w with response := some r }]
  | w :: ws => w :: attachResponse r ws

/-- R182: the response becomes waiting when the request's last write ends, or at once when it asked for none; `before` is the
number of writes before the request was worked. -/
def State.answerAfterWrites (s : State) (before : Nat) (r : Response) : State :=
  if before < s.memory.writes.length then { s with memory.writes := attachResponse r s.memory.writes } else s.answer r

/-- A response that carries a status and a payload for a handle or index. -/
def reply (status : Status) (slot gen : Nat) (payload : List Byte := []) : Response :=
  { status := status, slot := slot, gen := gen, payload := payload }

/-! ## The form of a command's outcome -/

/-- Section 1.7: the blocks act while the power state is MAINS; in RESERVE only the counting domain and record memory run. -/
def State.whenMains (s : State) (act : State → State) : State := if s.inMains then act s else s

/-- A command that always has an outcome: `dt` counts pass and the command acts. -/
def happen (dt : Nat) (act : State → State) (s : State) : Result := .next (act (s.elapse dt))

/-- An event of one record of a table: refused when the part has no such record (log entry 41). -/
def happenAt (dt i bound : Nat) (act : State → State) (s : State) : Result :=
  if i < bound then .next (act (s.elapse dt)) else .refused .noSuchRecord

end Sys2Proof.Machine
end

