-- ==== Sys2Proof/Machine/Flags.lean ====
section
/-! DEFINITION. The condition flags of the Command Link (R185, R186, R188). -/

namespace Sys2Proof.Machine

/-- The bit of a condition flag (section 11.5). -/
def Condition.bit : Condition → Nat
  | .hammerFault => 0
  | .dialFault => 1
  | .dialDoubt => 2
  | .motorFault => 3
  | .clockMissed => 4
  | .occasionOutcome => 5
  | .occasionMissed => 6
  | .sceneRefused => 7
  | .shedActive => 8
  | .sensorFault => 9
  | .timeInvalid => 10
  | .supplyReturned => 11

/-- The set that holds one flag alone. -/
def Condition.only (c : Condition) : FlagSet := 1#12 <<< c.bit

/-- R185: the flag becomes set and its fresh mark becomes set. -/
def State.raise (s : State) (c : Condition) : State :=
  { s with link.flags := s.link.flags ||| c.only, link.fresh := s.link.fresh ||| c.only }

/-- Raises a condition when `b` holds. -/
def State.raiseIf (s : State) (b : Bool) (c : Condition) : State := if b then s.raise c else s

/-- R185: ATTN is asserted while any flag whose enable is yes is set; it is released in RESERVE. -/
def State.attn (s : State) : Bool := decide (s.inMains) && decide (s.link.flags &&& s.link.enables ≠ 0#12)

/-- R180: RDY is asserted while a response is waiting. -/
def State.rdy (s : State) : Bool := decide (s.inMains) && s.link.waiting.isSome

/-- R186: the flags an ACKNOWLEDGE clears: named, set, not fresh, and in the last report set. -/
def acknowledged (named flags fresh lastReport : FlagSet) : FlagSet := named &&& flags &&& ~~~fresh &&& lastReport

end Sys2Proof.Machine
end

