-- ==== Sys2Proof/Machine/Operands.lean ====
section
/-! DEFINITION. The checks every request's fields are put to before anything is stored, and the clamps, each with the rule that
states it. A failed check is answered BAD FIELD unless the rule says otherwise. -/

namespace Sys2Proof.Machine

/-- Section 2.1 and others: a label has up to 16 characters. -/
def labelOk (l : Label) : Bool := l.length ≤ 16

/-! ## Time settings (R2, R6) -/

/-- R2: a trim outside -255 to +255 is clamped to the nearer limit. -/
def clampTrim (t : Int) : Int := max (-255) (min 255 t)

/-- R6: the checks of the summer rule, made whether or not it is enabled. -/
def summerRuleOk (r : SummerRule) : Bool :=
  (15 ≤ r.offset && r.offset ≤ 120 && r.offset % 15 == 0)
    && (1 ≤ r.startMonth && r.startMonth ≤ 12) && (1 ≤ r.endMonth && r.endMonth ≤ 12)
    && (1 ≤ r.startWeek && r.startWeek ≤ 5) && (1 ≤ r.endWeek && r.endWeek ≤ 5)
    && r.startTime.isReal && r.endTime.isReal
    && r.startMonth != r.endMonth
    && r.startTime.seconds + r.offset * 60 < Config.daySeconds
    && r.offset * 60 ≤ r.endTime.seconds

/-- R10: a real date of the range and a time of day. -/
def dateTimeOk (t : DateTime) : Bool := t.date.isReal && t.hour ≤ 23 && t.minute ≤ 59 && t.second ≤ 59

/-! ## Dials (R20) -/

/-- R20: the least multiple of 0.5 s that is at least the impulse width plus 250 ms. -/
def leastSpacing (width : Nat) : Nat := (width + 250 + 499) / 500 * 500

/-- R20: the clamped catch-up spacing. -/
def clampSpacing (width spacing : Nat) : Nat := max spacing (leastSpacing width)

/-- The number of lines of a function bound to an index. -/
def State.countLines (s : State) (f : LineFunction) (i : Nat) : Nat :=
  s.lines.toList.countP fun l => decide (l.record.function = f ∧ l.record.bound = some i)

/-- R20: exactly one DIAL POSITIVE, one DIAL NEGATIVE and at most one DIAL SENSE. -/
def State.dialLinesOk (s : State) (i : Nat) : Bool :=
  s.countLines .dialPositive i == 1 && s.countLines .dialNegative i == 1 && s.countLines .dialSense i ≤ 1

/-- R20: the checks of a dial AMEND. -/
def State.dialAmendOk (s : State) (i : Nat) (a : DialAmend) : Bool :=
  labelOk a.label
    && (100 ≤ a.impulseWidth && a.impulseWidth ≤ 2000 && a.impulseWidth % 10 == 0)
    && (500 ≤ a.spacing && a.spacing ≤ 30000 && a.spacing % 500 == 0)
    && (1 ≤ a.window && a.window ≤ 1439)
    && (!a.service || s.dialLinesOk i)

/-! ## Lines (R37, R38, R39) -/

/-- The kinds of record a line may be bound to (section 3.1). -/
inductive BoundKind where
  | bell | dial | channel
deriving DecidableEq, Repr

/-- Section 3.1: the kind of record a function is bound to. -/
def boundKind : LineFunction → Option BoundKind
  | .hammerStrike | .hammerBusy | .swingSense | .restSense | .motor | .bellKey => some .bell
  | .dialPositive | .dialNegative | .dialSense => some .dial
  | .lamp => some .channel
  | .unused | .ambient | .ringingSwitch => none

/-- Section 3.1: the functions whose lines are outputs. -/
def isOutput : LineFunction → Bool
  | .hammerStrike | .motor | .dialPositive | .dialNegative | .lamp => true
  | _ => false

/-- R40, R41: the functions whose lines have a filtered state; an UNUSED line is an input with no effect. -/
def isInput (f : LineFunction) : Bool := !isOutput f && f != .ambient

/-- R37: the functions of which one record may have only one line. -/
def isExclusive (f : LineFunction) : Bool := (boundKind f).isSome && f != .bellKey

def BoundKind.size : BoundKind → Nat
  | .bell => Config.bells
  | .dial => Config.dials
  | .channel => Config.channels

/-- R37: the bound index is present and in range exactly when the function needs one. -/
def boundOk (r : LineRecord) : Bool :=
  match boundKind r.function, r.bound with
  | none, b => b.isNone
  | some k, some i => i < k.size
  | some _, none => false

/-- R37: another line of the function is bound to the same record. -/
def State.boundElsewhere (s : State) (line : Nat) (r : LineRecord) : Bool :=
  (List.range Config.lines).any fun j =>
    j != line && decide ((s.line j).record.function = r.function ∧ (s.line j).record.bound = r.bound)

/-- R37: the checks of a line AMEND, the line index apart. -/
def State.lineRecordOk (s : State) (line : Nat) (r : LineRecord) : Bool :=
  (r.function != .ambient || 56 ≤ line) && boundOk r && !(isExclusive r.function && s.boundElsewhere line r) && r.filter ≤ 15

/-- R38: the record a line is bound to is in service. -/
def State.boundInService (s : State) (r : LineRecord) : Bool :=
  match boundKind r.function, r.bound with
  | some .bell, some i => (s.bell i).config.inService
  | some .dial, some i => (s.dial i).service
  | some .channel, some i => (s.channel i).config.inService
  | _, _ => false

/-- R39: the record would bind a MOTOR line to a seventh bell. -/
def State.motorFull (s : State) (line : Nat) (r : LineRecord) : Bool :=
  r.function == .motor
    && Config.motorBells ≤
      ((List.range Config.lines).countP fun j => j != line && (s.line j).record.function == .motor)

/-! ## Bells (R39, R44) -/

/-- R44: every field inside the range of the table of section 3.3. -/
def bellConfigOk (c : BellConfig) : Bool :=
  labelOk c.label && (10 ≤ c.settle && c.settle ≤ 600) && c.lead ≤ 400
    && [c.velocity0, c.velocity1, c.velocity2, c.velocity3].all (fun w => 10 ≤ w && w ≤ 200)
    && (100 ≤ c.repeatInterval && c.repeatInterval ≤ 3000) && c.motorRating ≤ 7500

/-- R39: the lines bound to a bell are exactly those its settings call for. -/
def State.bellLinesOk (s : State) (i : Nat) (c : BellConfig) : Bool :=
  (if c.hammerInService then
      s.countLines .hammerStrike i == 1 && s.countLines .hammerBusy i == (if c.feedback = .busy then 1 else 0)
    else s.countLines .hammerStrike i ≤ 1 && s.countLines .hammerBusy i ≤ 1)
    && (match c.sensorMode with
        | .none => s.countLines .swingSense i == 0 && s.countLines .restSense i == 0
        | .swingOnly => s.countLines .swingSense i == 1 && s.countLines .restSense i == 0
        | .swingAndRest => s.countLines .swingSense i == 1 && s.countLines .restSense i == 1)
    && (if 0 < c.motorRating then s.countLines .motor i == 1 && c.sensorMode != .none else s.countLines .motor i == 0)

/-- R39: the AMEND changes a field the table of R39 names. -/
def bellLinesFieldsDiffer (old new : BellConfig) : Bool :=
  old.hammerInService != new.hammerInService || old.feedback != new.feedback || old.sensorMode != new.sensorMode
    || old.motorRating != new.motorRating

/-- R39: when the test of the bound lines is made. -/
def State.bellAmendOk (s : State) (i : Nat) (c : BellConfig) : Bool :=
  let old := (s.bell i).config
  bellConfigOk c
    && (if c.inService && (!old.inService || bellLinesFieldsDiffer old c) then s.bellLinesOk i c else true)

/-- The pulse width of a velocity class (section 3.3). -/
def pulseWidth (c : BellConfig) : Nat → Nat
  | 0 => c.velocity0
  | 1 => c.velocity1
  | 2 => c.velocity2
  | _ => c.velocity3

/-! ## Tunes (R75, R76, R85) -/

/-- No value stands twice. -/
def distinct (l : List Nat) : Bool := decide l.Nodup

/-- R75. -/
def stepOk : Step → Bool
  | .note degrees velocity duration =>
    1 ≤ degrees.length && degrees.length ≤ 4 && degrees.all (· < Config.degrees) && distinct degrees
      && velocity ≤ 3 && 1 ≤ duration && duration ≤ 6000
  | .rest duration => 1 ≤ duration && duration ≤ 6000
  | .call tune repeats => handleInRange tune Config.tunes && 1 ≤ repeats && repeats ≤ 16

/-- R76: a batch of 1 to 32 valid steps. -/
def batchOk (b : List Step) : Bool := 1 ≤ b.length && b.length ≤ 32 && b.all stepOk

/-- R85. -/
def mapPairsOk (p : List (Nat × Option Nat)) : Bool :=
  1 ≤ p.length && p.length ≤ 32 && p.all (fun x => x.1 < Config.degrees && x.2.all (· < Config.bells)) && distinct (p.map (·.1))

/-! ## Sequencer commands (R107, R111) -/

/-- R111. -/
def playOk (transposition : Int) (repeats priority : Nat) : Bool :=
  decide (-16 ≤ transposition ∧ transposition ≤ 16) && repeats ≤ 99 && priority ≤ 7

/-- R107. -/
def tollOk (bell interval blows velocity : Nat) : Bool :=
  bell < Config.bells && (2 ≤ interval && interval ≤ 120) && (1 ≤ blows && blows ≤ 999) && velocity ≤ 3

/-! ## Clock program (R112) -/

/-- R112. -/
def clockConfigOk (c : ClockConfig) : Bool :=
  [c.first, c.second, c.third, c.fourth].all (fun h => h.all (handleInRange · Config.tunes))
    && c.hourBell < Config.bells && (100 ≤ c.blowInterval && c.blowInterval ≤ 1000) && c.hourVelocity ≤ 3
    && c.strikeGap ≤ 1000 && c.quarterPriority ≤ 7 && c.hourPriority ≤ 7 && (10 ≤ c.expiry && c.expiry ≤ 300)
    && (match c.nightStart, c.nightEnd with
        | none, none => true
        | some a, some b => a.isReal && b.isReal && a != b
        | _, _ => false)

/-! ## Occasions (R123) -/

/-- R123: the recurrence's own values. -/
def recurrenceOk : Recurrence → Bool
  | .once d => d.isReal
  | .daily => true
  | .weekly w => w != 0#7
  | .monthlyNth week _ months => 1 ≤ week && week ≤ 5 && months != 0#12
  | .annual month day => 1 ≤ month && month ≤ 12 && 1 ≤ day && day ≤ daysInMonth 2000 month

/-- R123: the anchor. -/
def anchorOk : Anchor → Bool
  | .clock h m sec => h ≤ 23 && m ≤ 59 && sec ≤ 59
  | .dusk offset => decide (-120 ≤ offset ∧ offset ≤ 240)

/-- R123: an action inside the ranges of section 8.1. -/
def actionOk (a : Action) : Bool :=
  a.offset ≤ 3600
    && (match a.kind with
        | .play tune transposition repeats _ =>
          handleInRange tune Config.tunes && decide (-16 ≤ transposition ∧ transposition ≤ 16) && 1 ≤ repeats && repeats ≤ 99
        | .toll bell interval blows velocity => tollOk bell interval blows velocity
        | .swing bell minutes => bell < Config.bells && 1 ≤ minutes && minutes ≤ 30
        | .sceneUp scene hold => handleInRange scene Config.scenes && 1 ≤ hold && hold ≤ 1440
        | .sceneDown scene => handleInRange scene Config.scenes
        | .silence minutes => 1 ≤ minutes && minutes ≤ 240)

/-- R123: of two window dates the first is not later than the last. A window date that is no real date of 2000 to 2199 is refused too,
which R123 asks of a ONCE date only (the model's choice, log entry 68). -/
def windowOk (first last : Option Date) : Bool :=
  first.all Date.isReal && last.all Date.isReal
    && (match first, last with
        | some a, some b => decide (dayNumber a ≤ dayNumber b)
        | _, _ => true)

/-- R123. -/
def occasionConfigOk (c : OccasionConfig) : Bool :=
  labelOk c.label && recurrenceOk c.recurrence && windowOk c.firstDate c.lastDate && anchorOk c.anchor && c.grace ≤ 60
    && c.priority ≤ 7 && 1 ≤ c.actions.length && c.actions.length ≤ 4 && c.actions.all actionOk

/-! ## Dusk (R144) -/

/-- R144. -/
def duskSettingsOk (line : Option Nat) (threshold confirm : Nat) : Bool :=
  line.all (fun l => 56 ≤ l && l ≤ 63) && threshold ≤ 1023 && 1 ≤ confirm && confirm ≤ 30

/-- R144. -/
def duskPairsOk (p : List (Nat × Nat)) : Bool :=
  1 ≤ p.length && p.length ≤ 53 && p.all (fun x => x.1 < Config.weeks && x.2 ≤ 1439) && distinct (p.map (·.1))

/-! ## Floodlights (R148, R150, R168) -/

/-- R148 with R39: the fields' ranges, and one LAMP line for a channel put into service. -/
def State.channelAmendOk (s : State) (i : Nat) (c : ChannelConfig) : Bool :=
  labelOk c.label && c.rating ≤ 6000 && c.ceiling ≤ 4095 && c.floor ≤ 4095
    && (!c.inService || (s.channel i).config.inService || s.countLines .lamp i == 1)

/-- R150. -/
def sceneConfigOk (c : SceneConfig) : Bool :=
  labelOk c.label && 1 ≤ c.levels.length && c.levels.length ≤ 24
    && c.levels.all (fun x => x.1 < Config.channels && x.2 ≤ Config.maxLevel) && distinct (c.levels.map (·.1))
    && c.fadeIn ≤ 2400 && c.fadeOut ≤ 2400 && c.priority ≤ 7

/-- R168: a hold of 1 to 1440 minutes. -/
def holdOk (hold : Option Nat) : Bool := hold.all fun m => 1 ≤ m && m ≤ 1440

/-! ## Feeder (R170) -/

/-- R170. -/
def capacityOk (c : Nat) : Bool := c ≤ 60000

end Sys2Proof.Machine
end

