-- ==== Sys2Proof/Machine/Tunes.lean ====
section
/-! DEFINITION. The Tune Library's operations: references, freeing, step reads and the Chime Map (chapter 5). -/

namespace Sys2Proof.Machine

/-- Writes the record of an occupied tune slot, keeping its generation. -/
def State.setTune (s : State) (slot : Nat) (t : Tune) : State :=
  s.setTuneSlot slot { s.tuneSlot slot with record := some t }

/-- R83: freeing a tune returns its steps to the pool; the slot keeps its generation; the change is written. -/
def State.freeTune (s : State) (slot : Nat) : State :=
  match (s.tuneSlot slot).record with
  | none => s
  | some t =>
    let s := s.setTuneSlot slot { s.tuneSlot slot with record := none }
    let s := { s with tunes.freeSteps := s.tunes.freeSteps + t.steps.length }
    s.store (.tune slot)

/-- R81: the tune's state refuses a take with GONE or NOT LIVE, or grants it. -/
def State.takeRefusal (s : State) (h : Handle) : Option EntryReport :=
  match s.findTune h with
  | none => some .gone
  | some t => if t.state = .live then none else some .notLive

/-- R81: a granted take raises the reference count by 1. -/
def State.takeRef (s : State) (h : Handle) : State :=
  match s.findTune h with
  | none => s
  | some t => s.setTune h.slot { t with refs := t.refs + 1 }

/-- R82: a drop lowers the count by 1 and frees a RETIRING tune whose count it brings to 0. -/
def State.dropRef (s : State) (h : Handle) : State :=
  match s.findTune h with
  | none => s
  | some t =>
    let s := s.setTune h.slot { t with refs := t.refs - 1 }
    if t.state = .retiring ∧ t.refs ≤ 1 then s.freeTune h.slot else s

/-- The answer to a step read (R84). -/
inductive StepRead where
  | gone
  | atEnd (state : TuneState)
  | step (state : TuneState) (step : Step)
deriving DecidableEq, Repr

/-- R84: reads step `n` (from 1) of a tune. -/
def State.readStep (s : State) (h : Handle) (n : Nat) : StepRead :=
  match s.findTune h with
  | none => .gone
  | some t =>
    match n with
    | 0 => .atEnd t.state
    | k + 1 =>
      match t.steps[k]? with
      | some st => .step t.state st
      | none => .atEnd t.state

/-- The answer of the Chime Map for one degree (R86). -/
inductive MapAnswer where
  | bell (bell : Nat)
  | outOfRange
  | unmapped
deriving DecidableEq, Repr

/-- R86: the degree plus the transposition, looked up. -/
def TuneLibrary.lookUp (t : TuneLibrary) (transposition : Int) (degree : Nat) : MapAnswer :=
  let sum := (degree : Int) + transposition
  if 0 ≤ sum ∧ sum ≤ 31 then
    match t.chimeMap.getD sum.toNat none with
    | some b => .bell b
    | none => .unmapped
  else .outOfRange

/-- Section 5.1: the durations of a tune's NOTE and REST steps. -/
def Step.ticks : Step → Nat
  | .note _ _ duration => duration
  | .rest duration => duration
  | .call _ _ => 0

/-- Section 5.1: own ticks. -/
def ownTicks (steps : List Step) : Nat := (steps.map Step.ticks).sum

/-- R85: the degrees named are set and the others are left. -/
def setDegrees (m : Vector (Option Nat) Config.degrees) (pairs : List (Nat × Option Nat)) :
    Vector (Option Nat) Config.degrees :=
  pairs.foldl (fun m p => m.setIfInBounds p.1 p.2) m

/-- R87 step 1, for one slot. -/
def Slot.clearRefs (x : Slot Tune) : Slot Tune := { x with record := x.record.map fun t => { t with refs := 0 } }

/-- R87 step 2, for one slot: a RETIRING tune is freed. -/
def State.freeIfRetiring (s : State) (slot : Nat) : State :=
  if (s.tuneSlot slot).record.any (fun t => t.state == .retiring) then s.freeTune slot else s

/-- R87: every reference count becomes 0 and every RETIRING tune is freed, in slot order. -/
def State.resetTunes (s : State) : State :=
  eachIndex Config.tunes (fun i s => s.freeIfRetiring i) { s with tunes.slots := s.tunes.slots.map Slot.clearRefs }

end Sys2Proof.Machine
end

