-- ==== Sys2Proof/Machine/Feeder.lean ====
section
/-! DEFINITION. The Feeder Account's operations: asks, admission, release and the scale (chapter 10). -/

namespace Sys2Proof.Machine

/-- Chapter 10: the admitted load M is the sum of the ratings of the admitted runs. -/
def Feeder.load (f : Feeder) : Nat := (f.admitted.map (·.rating)).sum

/-- The capacity of a feeder AMEND whose write has not ended (R170). -/
def WriteEffect.newCapacity : WriteEffect → Option Nat
  | .feeder c => some c
  | _ => none

/-- R170: the new capacity of a feeder AMEND in progress that the load seen at its taking does not refuse. -/
def InProgress.newCapacity (q : InProgress) : Option Nat :=
  match q.task, q.seen with
  | .request (.amendFeeder c), .load m => if capacityOk c ∧ m ≤ c then some c else none
  | _, _ => none

/-- R170: the new capacity that a feeder AMEND brings from the moment it is taken. -/
def Link.takenCapacity (l : Link) : Option Nat := l.inProgress.bind InProgress.newCapacity

/-- R170: from the moment a feeder AMEND is taken until its write ends, admission tests against the lesser of the stored capacity
and the new one. -/
def State.admissionCapacity (s : State) : Nat :=
  (s.link.takenCapacity.toList ++ s.memory.writes.filterMap fun w => w.effect.newCapacity).foldl min s.feeder.capacity

/-- The Bell Monitor is told that a run is admitted (R172, R53). -/
def MotorRun.markAdmitted : MotorRun → MotorRun
  | .pending length since _ sources => .pending length since true sources
  | m => m

/-- R172: the ask is admitted; its load joins M and an admitted run is made with its awaiting frame absent. -/
def State.admitAsk (s : State) (a : Ask) : State :=
  let run : AdmittedRun := { bell := a.bell, rating := a.rating, awaiting := none, permitted := false }
  let b := s.bell a.bell
  let s := { s with feeder.admitted := s.feeder.admitted ++ [run] }
  s.setBell a.bell { b with motor := b.motor.markAdmitted }

/-- R172: heads are admitted in order while they fit; the first that does not fit stops the try. -/
def admitHeads : List Ask → State → State
  | [], s => { s with feeder.asks := [] }
  | a :: rest, s =>
    if s.feeder.load + a.rating ≤ s.admissionCapacity then admitHeads rest (s.admitAsk a)
    else { s with feeder.asks := a :: rest }

/-- R172: a try of the ask list. -/
def State.tryAsks (s : State) : State := admitHeads s.feeder.asks s

/-- R171: an ask joins the end of the list; R172: the list is tried when it joins an empty list. -/
def State.ask (s : State) (bell rating : Nat) : State :=
  let a : Ask := { bell := bell, rating := rating, since := s.nowMs }
  let s' := { s with feeder.asks := s.feeder.asks ++ [a] }
  if s.feeder.asks.isEmpty then s'.tryAsks else s'

/-- R171, R173: a run's claim on the feeder ends: a load admitted is released, an ask still listed is withdrawn, and the list is
tried after a release or when the ask withdrawn was the head. -/
def State.endClaim (s : State) (bell : Nat) : State :=
  let released := s.feeder.admitted.any fun r => r.bell == bell
  let wasHead := s.feeder.asks.head?.any fun a => a.bell == bell
  let s' := { s with feeder.asks := s.feeder.asks.filter fun a => a.bell != bell
                     feeder.admitted := s.feeder.admitted.filter fun r => r.bell != bell }
  if released || wasHead then s'.tryAsks else s'

/-! ## The scale (R174, R175) -/

/-- R174: ceil(rating × L / 4095). -/
def channelTerm (rating level : Nat) : Nat := (rating * level + 4094) / 4095

/-- R174: the target scale. -/
def targetScale (demand budget : Nat) : Nat := if demand ≤ budget then Config.fullScale else Config.fullScale * budget / demand

/-- R175: a fall is followed at once, a rise by 64 a frame. -/
def nextScale (target previous : Nat) : Nat :=
  if target < previous then target else min target (previous + Config.softRestore)

/-- R174, R175, R176: the computation for frame `k` of a demand: it records what it took, works the scale, gives frame `k` as the
awaiting frame of every admitted run that has none, and raises SHED ACTIVE when the scale first falls below full. -/
def State.computeScale (s : State) (k demand : Nat) : State :=
  let load := s.feeder.load
  let budget := s.feeder.capacity - load
  let target := targetScale demand budget
  let scale := nextScale target s.feeder.previousScale
  let shedNow := decide (scale < Config.fullScale)
  let wasShed := s.feeder.shed
  let record : Computation :=
    { frame := k, capacity := s.feeder.capacity, load := load, demand := demand, budget := budget, target := target,
      scale := scale }
  let feeder : Feeder :=
    { s.feeder with record := some record, previousScale := scale, shed := shedNow,
                    admitted := s.feeder.admitted.map fun r => { r with awaiting := some (r.awaiting.getD k) } }
  let s := { s with feeder := feeder }
  s.raiseIf (shedNow && !wasShed) .shedActive

/-- R177: the values of each reset kind; the capacity is kept. -/
def Feeder.afterReset (f : Feeder) : Feeder :=
  { f with asks := [], admitted := [], record := none, previousScale := Config.fullScale, scaleInEffect := Config.fullScale,
           shed := false }

end Sys2Proof.Machine
end

