-- ==== Sys2Proof/Machine/Mixer.lean ====
section
/-! DEFINITION. The Floodlight Mixer's operations: the layer stack, the standing list, the level chain and the lamp waveform
(chapter 9). -/

namespace Sys2Proof.Machine

/-! ## Scenes and the stack (R150, R152, R153, R165) -/

def State.setScene (s : State) (slot : Nat) (x : Scene) : State :=
  s.setSceneSlot slot { s.sceneSlot slot with record := some x }

/-- R165: the slot becomes free and keeps its generation; the change is written. -/
def State.freeScene (s : State) (slot : Nat) : State :=
  (s.setSceneSlot slot { s.sceneSlot slot with record := none }).store (.scene slot)

/-- R152: the layer priority of a layer's scene, read from its record. -/
def State.layerPriority (s : State) (l : Layer) : Nat :=
  match s.findScene l.scene with
  | some x => x.config.priority
  | none => 0

/-- R152: stack order, layer priority ascending, then raise sequence ascending. -/
def State.stackBefore (s : State) (a b : Layer) : Bool :=
  s.layerPriority a < s.layerPriority b || (s.layerPriority a == s.layerPriority b && a.sequence < b.sequence)

/-- Places a layer at its place in stack order. -/
def State.insertLayer (s : State) (l : Layer) : State :=
  let earlier := s.mixer.layers.takeWhile fun x => s.stackBefore x l
  let later := s.mixer.layers.dropWhile fun x => s.stackBefore x l
  { s with mixer.layers := earlier ++ l :: later }

/-- R153, R156: a scene's layer leaves the stack; a RETIRING scene is freed at that moment (R165). -/
def State.leaveStack (s : State) (h : Handle) : State :=
  let s' := { s with mixer.layers := s.mixer.layers.filter fun l => l.scene != h }
  if (s.findScene h).any (fun x => x.state == .retiring) then s'.freeScene h.slot else s'

/-- R152: the first frame computed from now on. -/
def State.nextComputed (s : State) : Nat := (s.mixer.nextFrame + 1) % Config.frameWrap

/-- R153 way 1: the layer of target 0 with the smallest f, the earliest among equals. -/
def reclaimable (layers : List Layer) : Option Layer :=
  (layers.filter fun l => l.target == 0).foldl
    (fun best l => match best with
      | none => some l
      | some b => if l.f < b.f then some l else some b) none

/-- R153 way 2: the latest raised layer of the lowest priority present, when that priority is below the new scene's. -/
def State.displaceable (s : State) (priority : Nat) : Option Layer :=
  match s.mixer.layers with
  | [] => none
  | l :: rest =>
    let lowest := rest.foldl (fun p x => min p (s.layerPriority x)) (s.layerPriority l)
    if lowest < priority then
      (s.mixer.layers.filter fun x => s.layerPriority x == lowest).foldl
        (fun best x => match best with
          | none => some x
          | some b => if b.sequence < x.sequence then some x else some b) none
    else none

/-- The answer of the mixer to a raise (R152). -/
inductive RaiseAnswer where
  | raised | full | noRecord | notLive
deriving DecidableEq, Repr

/-- R152: a new layer with the next raise sequence, fading in from 0. -/
def State.addLayer (s : State) (h : Handle) (x : Scene) : State :=
  let n := s.mixer.raiseSequence + 1
  let s := { s with mixer.raiseSequence := n }
  s.insertLayer { scene := h, sequence := n, f := 0, f0 := 0, target := Config.fullFactor, k0 := s.nextComputed,
                  length := 16 * x.config.fadeIn }

/-- R152: reverses the fade of a scene's layer towards a target over a length. -/
def State.turnFade (s : State) (h : Handle) (target length : Nat) : State :=
  let layers := s.mixer.layers.map fun (l : Layer) =>
    if l.scene = h then { l with f0 := l.f, target := target, k0 := s.nextComputed, length := length } else l
  { s with mixer.layers := layers }

/-- R152, R153: a raise of a scene. -/
def State.raiseScene (s : State) (h : Handle) : State × RaiseAnswer :=
  match s.findScene h with
  | none => (s, .noRecord)
  | some x =>
    if x.state ≠ .live then (s, .notLive)
    else
      match s.mixer.layers.find? (fun l => l.scene = h) with
      | some l =>
        if l.target = 0 then (s.turnFade h Config.fullFactor (16 * x.config.fadeIn), .raised) else (s, .raised)
      | none =>
        if s.mixer.layers.length < Config.layerCapacity then (s.addLayer h x, .raised)
        else
          match reclaimable s.mixer.layers with
          | some l => ((s.leaveStack l.scene).addLayer h x, .raised)
          | none =>
            match s.displaceable x.config.priority with
            | some l => ((s.leaveStack l.scene).addLayer h x, .raised)
            | none => (s.raise .sceneRefused, .full)

/-- R154: a lower starts a fade out of a layer whose target is 256, and changes no other layer. -/
def State.lowerScene (s : State) (h : Handle) : State :=
  match s.mixer.layers.find? (fun l => l.scene = h) with
  | none => s
  | some l =>
    if l.target = 0 then s
    else
      let fadeOut := match s.findScene h with
        | some x => x.config.fadeOut
        | none => 0
      s.turnFade h 0 (16 * fadeOut)

/-! ## The standing list (R162, R163) -/

def State.hasStanding (s : State) (h : Handle) : Bool := s.mixer.standing.any fun e => e.scene == h

/-- Removes a scene's standing entry, if it has one; the change is written (section 9.6). -/
def State.removeStanding (s : State) (h : Handle) : State :=
  if s.hasStanding h then
    let s := { s with mixer.standing := s.mixer.standing.filter fun e => e.scene != h }
    s.store .standingList
  else s

/-- R154, R163: a lower by LOWER SCENE, SCENE DOWN or the creator's ABRUPT retire, which also removes the standing entry. -/
def State.lowerAndRemove (s : State) (h : Handle) : State := (s.lowerScene h).removeStanding h

/-- R162: makes or refreshes a standing entry; false when none could be made (NOT STANDING). -/
def State.makeStanding (s : State) (h : Handle) (endAt : Nat) (creator : Creator) : State × Bool :=
  let e : StandingEntry := { scene := h, endAt := endAt, creator := creator }
  if s.hasStanding h then
    let s := { s with mixer.standing := s.mixer.standing.map fun (x : StandingEntry) => if x.scene = h then e else x }
    (s.store .standingList, true)
  else if s.mixer.standing.length < Config.standingCapacity then
    let s := { s with mixer.standing := s.mixer.standing ++ [e] }
    (s.store .standingList, true)
  else (s, false)

/-- R163: the first standing entry whose end instant has come. -/
def State.endedStanding (s : State) : Option StandingEntry :=
  s.mixer.standing.find? fun e => e.endAt ≤ s.time.standard

/-- R163: the end of an entry removes it and lowers its scene. -/
def State.endStanding (s : State) (e : StandingEntry) : State := (s.removeStanding e.scene).lowerScene e.scene

/-- R163 at a SECOND: the first entry whose end instant has come ends. -/
def State.endFirstStanding (s : State) : State :=
  match s.endedStanding with
  | none => s
  | some e => s.endStanding e

/-- R163 at a TIME SET: every entry whose end instant has come ends, in list order (log entry 66). -/
def State.endStandingEntries (s : State) : State :=
  (s.mixer.standing.filter fun e => e.endAt ≤ s.time.standard).foldl (fun s e => s.endStanding e) s

/-- R139: every standing entry whose creator is the occasion is removed and its scene is lowered with its fade-out, in list order
(log entry 66). -/
def State.removeCreatedBy (s : State) (h : Handle) : State :=
  (s.mixer.standing.filter fun e => e.creator == .occasion h).foldl (fun s e => s.endStanding e) s

/-! ## Factors and levels (R155 to R161) -/

/-- R155: the number of frames since the fade began, modulo the wrap of frame numbers. -/
def Layer.age (l : Layer) (k : Nat) : Nat := (k + Config.frameWrap - l.k0) % Config.frameWrap

/-- R155: the factor of a layer at the computation of frame `k`. -/
def Layer.factor (l : Layer) (k : Nat) : Nat :=
  if l.length = 0 ∨ l.length ≤ l.age k then l.target
  else if l.target = 0 then l.f0 - l.f0 * l.age k / l.length
  else l.f0 + (Config.fullFactor - l.f0) * l.age k / l.length

/-- R155, R156: every layer's factor is worked for frame `k`; a layer of target 0 and factor 0 leaves. DESIGN CHOICE: of several
that leave at one computation the one earlier in stack order goes first, so their RETIRING scenes are freed, and those writes asked
for, in stack order; R156 gives no order (log entry 66). -/
def State.workFactors (s : State) (k : Nat) : State :=
  let layers := s.mixer.layers.map fun (l : Layer) => { l with f := l.factor k }
  let s : State := { s with mixer.layers := layers }
  (s.mixer.layers.filter fun l => l.target == 0 && l.f == 0).foldl (fun s l => s.leaveStack l.scene) s

/-- R157: one layer mixed over what lies below it. -/
def mixLevel (mode : LayerMode) (out v f : Nat) : Nat :=
  match mode with
  | .top => (out * (Config.fullFactor - f) + v * f) / 256
  | .max => max out (v * f / 256)

/-- R157: the mixed level of a channel. -/
def State.mixedLevel (s : State) (channel : Nat) : Nat :=
  s.mixer.layers.foldl
    (fun out l =>
      match s.findScene l.scene with
      | none => out
      | some x =>
        match x.config.levels.find? (fun p => p.1 == channel) with
        | some p => mixLevel x.config.mode out p.2 l.f
        | none => out) 0

/-- R158: the capped level. -/
def cappedLevel (mixed ceiling : Nat) : Nat := min mixed ceiling

/-- R159: the scaled level. -/
def scaledLevel (capped scale : Nat) : Nat := capped * scale / Config.fullScale

/-- R160: the floor turns off a level above 0 and below it. -/
def flooredLevel (scaled floor : Nat) : Nat := if 0 < scaled ∧ scaled < floor then 0 else scaled

/-- R157, R158: the capped level of a channel for the frame whose factors stand in the stack, 0 out of service (R149). -/
def State.workedCapped (s : State) (i : Nat) : Nat :=
  if (s.channel i).config.inService then cappedLevel (s.mixedLevel i) (s.channel i).config.ceiling else 0

/-- R174: the demand, over the channels in service. -/
def State.demand (s : State) : Nat :=
  ((List.range Config.channels).map fun i =>
    if (s.channel i).config.inService then channelTerm (s.channel i).config.rating (s.workedCapped i) else 0).sum

/-- R157 to R160: the levels of a channel for a scale. -/
def State.workedLevels (s : State) (scale i : Nat) : Levels :=
  let c := (s.channel i).config
  if c.inService then
    { mixed := s.mixedLevel i, capped := s.workedCapped i,
      delivered := flooredLevel (scaledLevel (s.workedCapped i) scale) c.floor }
  else Levels.dark

/-- R151: the computation of frame `k`. -/
def State.computeFrame (s : State) (k : Nat) : State :=
  let s := s.workFactors k
  let s := s.computeScale k s.demand
  { s with mixer.computed := some (Vector.ofFn fun i : Fin Config.channels => s.workedLevels s.feeder.previousScale i) }

/-- R151: the computed levels take effect on the channels in service. -/
def State.deliverFrame (s : State) : State :=
  match s.mixer.computed with
  | none => s
  | some v =>
    let channels := s.mixer.channels.mapIdx fun i (c : Channel) =>
      { c with levels := if c.config.inService then v.getD i Levels.dark else Levels.dark }
    { s with mixer.channels := channels }

/-- R161: cycle `c` of a frame has an extra count. -/
def extraCount (delivered c : Nat) : Bool := c * (delivered % 16) / 16 < (c + 1) * (delivered % 16) / 16

/-- R161: the LAMP line is active at count `n` (0 to 4095) of a frame that delivers this level. -/
def lampOn (delivered n : Nat) : Bool :=
  n % 256 < delivered / 16 + (if extraCount delivered (n / 256) then 1 else 0)

/-! ## Resets (R166, R167) -/

/-- R165, R167: RETIRING scenes are freed in slot order. -/
def State.freeSceneIfRetiring (s : State) (slot : Nat) : State :=
  if (s.sceneSlot slot).record.any (fun x => x.state == .retiring) then s.freeScene slot else s

/-- R166: at RESERVE ENTRY the stack is discarded, a RETIRING scene is freed, and every delivered level becomes 0. -/
def State.darken (s : State) : State :=
  let channels := s.mixer.channels.map fun (c : Channel) => { c with levels := { c.levels with delivered := 0 } }
  let s : State := { s with mixer.layers := [], mixer.computed := none, mixer.channels := channels }
  eachIndex Config.scenes (fun i s => s.freeSceneIfRetiring i) s

/-- R167: the values of each reset kind, the standing list apart. -/
def State.resetMixer (s : State) : State :=
  let channels := s.mixer.channels.map fun (c : Channel) => { c with levels := Levels.dark }
  let s : State := { s with
    mixer.layers := [], mixer.computed := none, mixer.raiseSequence := 0, mixer.nextFrame := 0,
    mixer.frameMark := s.clock / Config.countsPerFrame, mixer.channels := channels }
  eachIndex Config.scenes (fun i s => s.freeSceneIfRetiring i) s

/-- R167 at SUPPLY RETURN and RESTART: entries whose end instant has come are removed. -/
def State.settleStanding (s : State) : State :=
  if s.endedStanding.isSome then
    let s := { s with mixer.standing := s.mixer.standing.filter fun e => s.time.standard < e.endAt }
    s.store .standingList
  else s

/-- R167 at COLD START: the standing list is cleared. -/
def State.clearStanding (s : State) : State :=
  if s.mixer.standing.isEmpty then s
  else
    let s := { s with mixer.standing := [] }
    s.store .standingList

/-- R167: one re-raise; refused by a full stack, its entry is removed. A scene the entry names that is not LIVE cannot be lit
and leaves no entry either (log entry 38). -/
def State.reRaise (s : State) (e : StandingEntry) : State :=
  if s.hasStanding e.scene then
    match s.raiseScene e.scene with
    | (s, .raised) => s
    | (s, _) => s.removeStanding e.scene
  else s

/-- R167: every remaining entry's scene is raised, in standing-list order. -/
def State.reRaiseStanding (s : State) (entries : List StandingEntry) : State := entries.foldl (fun s e => s.reRaise e) s

end Sys2Proof.Machine
end

