-- ==== Sys2Proof/Machine/Hammers.lean ====
section
/-! DEFINITION. The Hammer Drive's operations: strike requests, raises, strokes, faults and the restart gate (chapter 4). -/

namespace Sys2Proof.Machine

/-! ## Lines seen by a bell or a dial -/

/-- A line of the function is bound to the record. -/
def State.hasLine (s : State) (f : LineFunction) (i : Nat) : Bool := 0 < s.countLines f i

/-- A line of the function bound to the record has its filtered state active (R40). -/
def State.lineActive (s : State) (f : LineFunction) (i : Nat) : Bool :=
  s.lines.toList.any fun l => decide (l.record.function = f ∧ l.record.bound = some i) && l.filtered

/-- R58: a bell has a stroke machine while a HAMMER STRIKE line is bound to it. -/
def State.hasMachine (s : State) (bell : Nat) : Bool := s.hasLine .hammerStrike bell

/-- R58: the state of a machine outside a stroke. -/
def restState (c : BellConfig) : StrokeState :=
  if !c.inService then .outOfService else if c.hammerInService then .idle else .fault

/-! ## Reports to the requester (section 4.2) -/

/-- R101: a skipped count of a performance stops at 65535. -/
def addSkip (n : Nat) : Nat := min Config.counterMax (n + 1)

/-- R101, R108: a CLIPPED or LOCKED report adds 1 to the requester's skipped count, while the requester still exists. A
toll that has ended is not counted for, whatever toll its channel has taken since (R109, log entry 31). -/
def State.countSkip (s : State) (r : Requester) : State :=
  match r with
  | .performance n =>
    match s.chime.performance with
    | none => s
    | some p =>
      if p.entry.arrival = n then { s with chime.performance := some { p with skipped := addSkip p.skipped } } else s
  | .toll channel run =>
    match s.toll channel with
    | none => s
    | some t => if t.run = run then s.setToll channel (some { t with skipped := t.skipped + 1 }) else s

/-! ## From request to blow (R59, R60) -/

/-- R60: the strike line may rise: the gate is not HOLDING (R69), the bell is AT REST and its hammer is in service. -/
def State.mayStrike (s : State) (bell : Nat) : Bool :=
  decide (s.hammers.gate = .closed) && decide ((s.bell bell).swing = .atRest) && (s.bell bell).config.hammerInService

/-- R60, R61, R62: the raise of a REQUESTED stroke. -/
def State.raiseLine (s : State) (bell : Nat) (k : Stroke) : State :=
  if s.mayStrike bell then
    let k' : Stroke := { k with raised := true, risenAt := s.nowMs, lineActive := true }
    s.setStroke bell (if k.feedback = .none then .striking k' else .requested k')
  else (s.setStroke bell .idle).countSkip k.requester

/-- The raise moment has come: the sounding instant less the captured lead (section 4.1). -/
def Stroke.raiseDue (k : Stroke) (now : Nat) : Bool := k.sounding ≤ now + k.lead

/-- R60: the raise moment of a REQUESTED stroke has come; while the gate is HOLDING no raise moment raises a line (R69). -/
def State.reachRaise (s : State) (bell : Nat) : State :=
  match s.stroke bell with
  | .requested k =>
    if !k.raised && k.raiseDue s.nowMs && decide (s.hammers.gate = .closed) then s.raiseLine bell k else s
  | _ => s

/-- R59: what a stroke captures from the bell record. -/
def captureStroke (c : BellConfig) (sounding velocity : Nat) (r : Requester) : Stroke :=
  { sounding := sounding, velocity := velocity, requester := r, lead := c.lead, width := pulseWidth c velocity,
    feedback := c.feedback, repeatInterval := c.repeatInterval, raised := false, risenAt := 0, lineActive := false }

/-- R59, R69: a strike request is accepted only by an IDLE machine while the gate is CLOSED. -/
def State.accepts (s : State) (bell : Nat) : Bool :=
  decide (s.hammers.gate = .closed) && s.hasMachine bell && decide (s.stroke bell = .idle)

/-- R59: a strike request, ACCEPTED or CLIPPED. -/
def State.strikeRequest (s : State) (bell sounding velocity : Nat) (r : Requester) : State :=
  if s.accepts bell then
    let k := captureStroke (s.bell bell).config sounding velocity r
    let s' := s.setStroke bell (.requested k)
    if k.raiseDue s.nowMs then s'.raiseLine bell k else s'
  else s.countSkip r

/-! ## The blow under way (R61 to R65) -/

/-- R64: a stroke ends and its machine enters RECOVERING, the strike line released. -/
def State.endStroke (s : State) (bell : Nat) (k : Stroke) : State :=
  s.setStroke bell (.recovering { k with lineActive := false } (s.nowMs + k.repeatInterval))

/-- R66: a hammer fault. -/
def State.declareHammerFault (s : State) (bell : Nat) (f : HammerFault) : State :=
  let b := s.bell bell
  let s := s.setStroke bell .fault
  let s := s.setBell bell { b with config := { b.config with hammerInService := false }, hammerFault := some f }
  (s.askWrite (.hammerFault bell f)).raise .hammerFault

/-- R61, R62: the pulse width has passed, with the strike line still active. -/
def State.endPulse (s : State) (bell : Nat) : State :=
  match s.stroke bell with
  | .striking k =>
    if k.lineActive && decide (k.risenAt + k.width ≤ s.nowMs) then
      if k.feedback = .none then s.endStroke bell k else s.setStroke bell (.striking { k with lineActive := false })
    else s
  | .requested k =>
    if k.lineActive && decide (k.risenAt + k.width ≤ s.nowMs) then s.setStroke bell (.requested { k with lineActive := false })
    else s
  | _ => s

/-- R62: 50 ms have passed since the line rose, with no answer. -/
def State.missAnswer (s : State) (bell : Nat) : State :=
  match s.stroke bell with
  | .requested k =>
    if k.raised && decide (k.risenAt + Config.answerTime ≤ s.nowMs) then s.declareHammerFault bell .noAnswer else s
  | _ => s

/-- R63: BUSY is still active 400 ms after the line rose. -/
def State.stickHammer (s : State) (bell : Nat) : State :=
  match s.stroke bell with
  | .striking k =>
    if decide (k.feedback = .busy) && decide (k.risenAt + Config.stuckTime ≤ s.nowMs) && s.lineActive .hammerBusy bell then
      s.declareHammerFault bell .stuck
    else s
  | _ => s

/-- R64: the recovery end is reached. -/
def State.endRecovery (s : State) (bell : Nat) : State :=
  match s.stroke bell with
  | .recovering _ endAt => if endAt ≤ s.nowMs then s.setStroke bell .idle else s
  | _ => s

/-- R62, R65: the filtered HAMMER BUSY line becomes active. -/
def State.busyRises (s : State) (bell : Nat) : State :=
  match s.stroke bell with
  | .requested k =>
    if k.raised then
      if s.nowMs ≤ k.risenAt + Config.answerTime then s.setStroke bell (.striking k) else s
    else if (s.bell bell).config.feedback = .busy then s.declareHammerFault bell .unsolicited else s
  | .idle => if (s.bell bell).config.feedback = .busy then s.declareHammerFault bell .unsolicited else s
  | .recovering _ _ => if (s.bell bell).config.feedback = .busy then s.declareHammerFault bell .unsolicited else s
  | .striking _ => s
  | .fault => s
  | .outOfService => s

/-- R62, R65: the filtered HAMMER BUSY line becomes inactive. -/
def State.busyFalls (s : State) (bell : Nat) : State :=
  match s.stroke bell with
  | .striking k => if k.feedback = .busy then s.endStroke bell k else s
  | _ => s

/-! ## AMEND of a bell record (R67) -/

/-- R67: what an AMEND that takes effect does to the stroke machine. -/
def strokeAfterAmend (old new : BellConfig) (k : StrokeState) : StrokeState :=
  if !new.inService then .outOfService
  else if !old.inService then restState new
  else if old.hammerInService = new.hammerInService then k
  else restState new

/-! ## Holding back a restart (R69, R70) -/

/-- R69: a REQUESTED stroke whose line is not raised is withdrawn as CLIPPED. -/
def State.withdrawStroke (s : State) (bell : Nat) : State :=
  match s.stroke bell with
  | .requested k => if k.raised then s else (s.setStroke bell .idle).countSkip k.requester
  | _ => s

/-- R69: a requested RESTART opens a hold, or joins the one there is. -/
def State.requestRestart (s : State) : State :=
  match s.hammers.gate with
  | .holding => s
  | .closed => eachIndex Config.bells (fun i s => s.withdrawStroke i) { s with hammers.gate := .holding }

/-- R70: no stroke machine is REQUESTED or STRIKING. -/
def State.noStrokeUnderWay (s : State) : Bool :=
  s.hammers.strokes.toList.all fun
    | .requested _ => false
    | .striking _ => false
    | _ => true

/-- R68, R58: every stroke and recovery is dropped and every machine takes its state outside a stroke. -/
def State.restStrokes (s : State) : State :=
  { s with hammers.strokes := Vector.ofFn fun i : Fin Config.bells => restState (s.bell i).config }

end Sys2Proof.Machine
end

