-- ==== Sys2Proof/Machine/Reports.lean ====
section
/-! DEFINITION. The reports the blocks give their sources: to an occasion's action (R135), to the Clock Program (R117) and to the
host as the last command outcome (R57, R111). -/

namespace Sys2Proof.Machine

/-! ## Occasion records and context actions -/

/-- The calendar changes an occasion record, which is written to record memory (section 8.1); a record left as it was is not. -/
def State.putOccasion (s : State) (slot : Nat) (o : Occasion) : State :=
  if (s.occasionSlot slot).record = some o then s
  else (s.setOccasionSlot slot { s.occasionSlot slot with record := some o }).store (.occasion slot)

/-- Sets the phase of one action of a context. -/
def State.setPhase (s : State) (context place : Nat) (phase : ActionPhase) : State :=
  match s.context context with
  | none => s
  | some c =>
    match c.actions[place]? with
    | none => s
    | some a => s.setContext context (some { c with actions := c.actions.set place { a with phase := phase } })

/-- R135: an outcome entry that becomes REFUSED or SKIPPED raises OCCASION OUTCOME. -/
def Outcome.isRaised (o : Outcome) : Bool := o.kind == .refused || o.kind == .skipped

/-- Sets the outcome entry of one action of a context's occasion (R132 to R135). -/
def State.setOutcome (s : State) (context place : Nat) (x : Outcome) : State :=
  match s.context context with
  | none => s
  | some c =>
    match s.findOccasion c.occasion with
    | none => s
    | some o =>
      (s.putOccasion c.occasion.slot { o with outcome := o.outcome.set place x }).raiseIf x.isRaised .occasionOutcome

/-- An outcome entry without counts (section 11.5). -/
def Outcome.plain (kind : OutcomeKind) (note : Reason := .none) : Outcome :=
  { kind := kind, note := note, skipped := 0, depth := false }

/-- R135: a final report sets the outcome entry and makes the action DONE in its context. -/
def State.finishAction (s : State) (context place : Nat) (x : Outcome) : State :=
  (s.setOutcome context place x).setPhase context place .done

/-! ## Reports of the Chime Sequencer (R94) -/

/-- R94: whether a report is final. -/
def EntryReport.isFinal : EntryReport → Bool
  | .queued => false
  | .started => false
  | .gone => true
  | .notLive => true
  | .refusedFull => true
  | .expired => true
  | .done => true
  | .stopped => true
  | .preEmptedDropped => true

/-- R135, R132: a report on an OCCASION entry. The report QUEUED carries the entry number that makes the action ACTIVE. An
occasion's entry comes with its reference, so GONE and NOT LIVE are never given to one. -/
def State.reportToAction (s : State) (context place number : Nat) (r : EntryReport) (skipped : Nat) (depth : Bool) : State :=
  match r with
  | .queued => (s.setPhase context place (.active (.entry number))).setOutcome context place (Outcome.plain .pending)
  | .started => s.setOutcome context place (Outcome.plain .started)
  | .done => s.finishAction context place { kind := .done, note := .none, skipped := skipped, depth := depth }
  | .stopped => s.finishAction context place (Outcome.plain .cancelled)
  | .refusedFull => s.finishAction context place (Outcome.plain .refused .full)
  | .expired => s.finishAction context place (Outcome.plain .skipped .expired)
  | .preEmptedDropped => s.finishAction context place (Outcome.plain .skipped .preEmpted)
  | .gone => s.finishAction context place (Outcome.plain .refused .noRecord)
  | .notLive => s.finishAction context place (Outcome.plain .refused .noRecord)

/-- R117: whether a report counts a miss. -/
def EntryReport.countsMiss (r : EntryReport) (started : Bool) : Bool :=
  match r with
  | .gone => true
  | .notLive => true
  | .refusedFull => true
  | .expired => true
  | .stopped => !started
  | .queued => false
  | .started => false
  | .done => false
  | .preEmptedDropped => false

/-- R117: whether the miss raises CLOCK MISSED. -/
def EntryReport.raisesMissed (r : EntryReport) : Bool :=
  match r with
  | .gone => true
  | .notLive => true
  | .refusedFull => true
  | .expired => true
  | .stopped => false
  | .queued => false
  | .started => false
  | .done => false
  | .preEmptedDropped => false

/-- R117: a missed counter stops at 65535. -/
def addMiss (n : Nat) : Nat := min Config.counterMax (n + 1)

/-- R113, R114, R117: one more missed mark of a source. -/
def ClockProgram.countMiss (p : ClockProgram) : ClockSource → ClockProgram
  | .quarter => { p with quartersMissed := addMiss p.quartersMissed }
  | .hour => { p with hoursMissed := addMiss p.hoursMissed }

/-- R117: a report on a QUARTER or HOUR entry. -/
def State.reportToClock (s : State) (source : ClockSource) (mark : Nat) (r : EntryReport) (started : Bool) (skipped : Nat) :
    State :=
  let p := if r.countsMiss started then s.program.countMiss source else s.program
  let p : ClockProgram :=
    if r.isFinal then { p with lastOutcome := some { source := source, mark := mark, report := r, skipped := skipped } } else p
  let s : State := { s with program := p }
  s.raiseIf r.raisesMissed .clockMissed

/-- R94: the report of an entry to its source; `skipped` and `depth` are what the report carries, 0 and no
where it carries none (log entry 42). -/
def State.reportEntry (s : State) (e : Entry) (r : EntryReport) (skipped : Nat := 0) (depth : Bool := false) : State :=
  match e.source with
  | .quarter mark => s.reportToClock .quarter mark r e.started skipped
  | .hour mark => s.reportToClock .hour mark r e.started skipped
  | .occasion _ context place => s.reportToAction context place e.number r skipped depth
  | .command =>
    if r.isFinal then
      { s with chime.lastOutcome := some { what := .entry e.number, report := r, skipped := skipped, depth := depth } }
    else s

/-- R107, R109, R111, R135: the report of a toll to its source; a toll's outcome has the depth flag no (log entry 42). -/
def State.reportToll (s : State) (channel : Nat) (t : TollRun) (r : EntryReport) : State :=
  match t.source with
  | .action _ context place => s.reportToAction context place 0 r t.skipped false
  | .command =>
    if r.isFinal then
      { s with chime.lastOutcome := some { what := .toll channel, report := r, skipped := t.skipped, depth := false } }
    else s

/-! ## Reports of the Bell Monitor -/

/-- R135: the outcome of an action whose motor run ended. -/
def MotorReport.outcome : MotorReport → Outcome
  | .done => Outcome.plain .done
  | .stopped => Outcome.plain .cancelled
  | .locked => Outcome.plain .skipped .locked
  | .up => Outcome.plain .skipped .up
  | .stalled => Outcome.plain .skipped .stalled
  | .refusedFeeder => Outcome.plain .refused .feeder

/-- R53: STARTED to one source of a run. -/
def State.reportMotorStarted (s : State) (x : MotorSource) : State :=
  match x with
  | .action context place => s.setOutcome context place (Outcome.plain .started)
  | .command => s

/-- R54, R57: a final report to one source of a run of a bell. -/
def State.reportMotor (s : State) (bell : Nat) (r : MotorReport) (x : MotorSource) : State :=
  match x with
  | .action context place => s.finishAction context place r.outcome
  | .command => s.setBell bell { s.bell bell with lastOutcome := some r }

end Sys2Proof.Machine
end

