-- ==== Sys2Proof/Machine/Bells.lean ====
section
/-! DEFINITION. The Bell Monitor's operations: locking, swing states and motor runs (sections 3.4 to 3.6). -/

namespace Sys2Proof.Machine

/-! ## Motor runs (R51 to R56) -/

/-- The sources of a run (section 3.5). -/
def MotorRun.sources : MotorRun → List MotorSource
  | .off => []
  | .pending _ _ _ sources => sources
  | .running _ _ _ sources => sources

/-- R54, R56: a run ends in a single step: the motor is OFF, its load released or its ask withdrawn, and every source receives the
report, in the order of sources (log entry 66). A motor that is OFF is left as it is. -/
def State.endRun (s : State) (bell : Nat) (r : MotorReport) : State :=
  let b := s.bell bell
  match b.motor with
  | .off => s
  | m =>
    let s := (s.setBell bell { b with motor := .off }).endClaim bell
    m.sources.foldl (fun s x => s.reportMotor bell r x) s

/-- R51: why a swing request is refused, the first reason that applies. -/
def State.swingRefusal (s : State) (bell : Nat) : Option Reason :=
  let b := s.bell bell
  if !b.config.inService then some .notInService
  else if b.config.motorRating = 0 then some .noMotor
  else if !b.config.motorInService then some .motorOutOfService
  else if b.swing = .locked then some .locked
  else if b.swing = .up then some .up
  else none

/-- R51: a length above 30 minutes is clamped. -/
def clampRun (minutes : Nat) : Nat := min 30 minutes

/-- R52: a source is added at the end of sources unless it is already there. -/
def addSource (l : List MotorSource) (x : MotorSource) : List MotorSource := if x ∈ l then l else l ++ [x]

/-- R52: an accepted swing request starts a run and asks the Feeder Account, or extends the run there is. -/
def State.acceptSwing (s : State) (bell minutes : Nat) (x : MotorSource) : State :=
  let b := s.bell bell
  let length := clampRun minutes
  match b.motor with
  | .off =>
    (s.setBell bell { b with motor := .pending length s.nowMs false [x] }).ask bell b.config.motorRating
  | .pending old since isAdmitted sources =>
    s.setBell bell { b with motor := .pending (max old length) since isAdmitted (addSource sources x) }
  | .running energised endAt satisfied sources =>
    let s' := s.setBell bell
      { b with motor := .running energised (max endAt (s.nowMs + length * 60000)) satisfied (addSource sources x) }
    if x ∈ sources then s' else s'.reportMotorStarted x

/-- R53: the contactor closes at the permission to energise. -/
def State.energise (s : State) (bell : Nat) : State :=
  let b := s.bell bell
  match b.motor with
  | .pending length _ _ sources =>
    let s := s.setBell bell { b with motor := .running s.nowMs (s.nowMs + length * 60000) false sources }
    sources.foldl (fun s x => s.reportMotorStarted x) s
  | .off => s
  | .running _ _ _ _ => s

/-- R176: permission is given to every admitted run whose awaiting frame is `k`, in the order of admission (log entry 66). -/
def State.givePermissions (s : State) (k : Nat) : State :=
  let bells := (s.feeder.admitted.filter fun r => r.awaiting == some k && !r.permitted).map (·.bell)
  let admitted := s.feeder.admitted.map fun (r : AdmittedRun) => if r.awaiting = some k then { r with permitted := true } else r
  let s : State := { s with feeder.admitted := admitted }
  bells.foldl (fun s b => s.energise b) s

/-- R53: a run still not admitted after 120 s is abandoned. -/
def State.timeOutPending (s : State) (bell : Nat) : State :=
  match (s.bell bell).motor with
  | .pending _ since false _ => if since + Config.pendingTime ≤ s.nowMs then s.endRun bell .refusedFeeder else s
  | _ => s

/-- R54: the end of a RUNNING motor's run. -/
def State.reachRunEnd (s : State) (bell : Nat) : State :=
  match (s.bell bell).motor with
  | .running _ endAt _ _ => if endAt ≤ s.nowMs then s.endRun bell .done else s
  | _ => s

/-- R55: the motor has stalled: motor in service becomes no and is written, and MOTOR FAULT is raised. -/
def State.stall (s : State) (bell : Nat) : State :=
  let s := s.endRun bell .stalled
  let b := s.bell bell
  ((s.setBell bell { b with config := { b.config with motorInService := false } }).askWrite (.motorFault bell)).raise .motorFault

/-- R55: 20 s have passed from energised with the stall watch still running. -/
def State.watchStall (s : State) (bell : Nat) : State :=
  match (s.bell bell).motor with
  | .running energised _ false _ => if energised + Config.stallTime ≤ s.nowMs then s.stall bell else s
  | _ => s

/-- R55: a swing pulse satisfies a running stall watch. -/
def MotorRun.satisfy : MotorRun → MotorRun
  | .running energised endAt _ sources => .running energised endAt true sources
  | m => m

/-! ## LOCKED (R46) -/

/-- R46: a BELL KEY line bound to the bell is active. -/
def State.keyActive (s : State) (bell : Nat) : Bool := s.lineActive .bellKey bell

/-- R46: the ringing switch is active. -/
def State.ringingActive (s : State) : Bool :=
  s.lines.toList.any fun l => l.record.function == .ringingSwitch && l.filtered

/-- R46: the ringing switch locks the bell. -/
def State.ringingLocks (s : State) (bell : Nat) : Bool := s.ringingActive && (s.bell bell).config.group == .ring

/-- R46: one of the locking conditions holds. -/
def State.lockHeld (s : State) (bell : Nat) : Bool :=
  (s.bell bell).config.hostLock || s.keyActive bell || s.ringingLocks bell

/-- R45, R46, R50: the swing state of a bell that is not LOCKED and whose swing machine starts afresh. -/
def freshSwing (c : BellConfig) : SwingState :=
  if c.inService && c.sensorMode == .none then .atRest else .unknown

/-- R46: the bell enters LOCKED. -/
def State.enterLocked (s : State) (bell : Nat) : State :=
  (s.setBell bell { s.bell bell with swing := .locked, quietUntil := none }).endRun bell .locked

/-- R46: the bell leaves LOCKED. -/
def State.leaveLocked (s : State) (bell : Nat) : State :=
  let b := s.bell bell
  match freshSwing b.config with
  | .unknown => s.setBell bell { b with swing := .unknown, entered := s.nowMs }
  | w => s.setBell bell { b with swing := w }

/-- R46: the bell enters LOCKED when a condition arises and leaves it when the last ends. -/
def State.followLock (s : State) (bell : Nat) : State :=
  if s.lockHeld bell then (if (s.bell bell).swing = .locked then s else s.enterLocked bell)
  else if (s.bell bell).swing = .locked then s.leaveLocked bell
  else s

/-- R46: every bell follows its locking conditions, in index order (log entry 66). -/
def State.followLocks (s : State) : State := eachIndex Config.bells (fun i s => s.followLock i) s

/-! ## Swing states (R47 to R50) -/

/-- R47: the gap from last pulse is recorded when it is at most 10,000 ms; a gap under 1 ms is recorded as 1 (log entry 44). -/
def measureGap (b : Bell) (now : Nat) : Option Nat :=
  match b.lastPulse with
  | none => b.halfSwing
  | some p => if now - p ≤ Config.maxHalfSwing then some (max 1 (now - p)) else b.halfSwing

/-- R47: the quiet time. -/
def quietTime (halfSwing : Option Nat) : Nat := max Config.minQuiet (3 * halfSwing.getD 0)

/-- R47: a swing pulse of a bell in service. -/
def State.swingPulse (s : State) (bell : Nat) : State :=
  let b := s.bell bell
  if b.config.inService then
    let half := measureGap b s.nowMs
    let b : Bell := { b with halfSwing := half, lastPulse := some s.nowMs, motor := b.motor.satisfy }
    if b.swing = .locked then s.setBell bell b
    else s.setBell bell { b with swing := .swinging, quietUntil := some (s.nowMs + quietTime half) }
  else s

/-- R48: the quiet timer of a SWINGING bell expires; R56: entering UP ends its motor run. -/
def State.expireQuiet (s : State) (bell : Nat) : State :=
  let b := s.bell bell
  match b.quietUntil with
  | none => s
  | some q =>
    if b.swing = .swinging ∧ q ≤ s.nowMs then
      if s.hasLine .restSense bell && !s.lineActive .restSense bell then
        (s.setBell bell { b with swing := .up, quietUntil := none }).endRun bell .up
      else s.setBell bell { b with swing := .settling, quietUntil := none }
    else s

/-- R49: the rest contact of a bell in service closes. -/
def State.restCloses (s : State) (bell : Nat) : State :=
  let b := s.bell bell
  if b.config.inService then
    s.setBell bell { b with restClosedSince := some s.nowMs, swing := if b.swing = .up then .settling else b.swing }
  else s

/-- R49: the rest contact of a bell in service opens. -/
def State.restOpens (s : State) (bell : Nat) : State :=
  let b := s.bell bell
  if b.config.inService then
    s.setBell bell { b with restClosedSince := none, swing := if b.swing = .atRest then .settling else b.swing }
  else s

/-- R49, R50: a moment lies at least the settle time before the moment `second` of a SECOND event. -/
def settled (since settle second : Nat) : Bool := since + settle * 1000 ≤ second

/-- R49, R50: the settle test of a SETTLING or UNKNOWN bell in service with a sensor, at the SECOND event of moment `second`. An
absent last pulse meets the first condition (log entry 17). -/
def State.settleTest (s : State) (bell second : Nat) : Bool :=
  let b := s.bell bell
  let start := match b.swing with
    | .settling => b.lastPulse.all fun p => settled p b.config.settle second
    | .unknown => settled b.entered b.config.settle second
    | _ => false
  let rest := !s.hasLine .restSense bell || b.restClosedSince.any fun r => settled r b.config.settle second
  b.config.inService && b.config.sensorMode != .none && start && rest

/-- R49, R50: the bell reaches AT REST when the settle test passes at a SECOND event, at its moment (log entry 7). -/
def State.settleBell (s : State) (bell : Nat) : State :=
  if s.atSecond ∧ s.settleTest bell s.nowMs then s.setBell bell { s.bell bell with swing := .atRest } else s

/-- The rest contact of a bell shows closed (R49). -/
def State.restClosed (s : State) (bell : Nat) : Bool := s.lineActive .restSense bell

/-! ## AMEND of a bell (R44, R45, R67) and resets (R50, R56) -/

/-- R45: the swing machine of a bell that enters service starts afresh, with rest closed since taken from its line. DESIGN CHOICE:
entered is set for every such bell, one AT REST (sensor mode NONE) or LOCKED at once too, where R45 names only one that enters
UNKNOWN (log entry 57). -/
def State.startSwing (s : State) (bell : Nat) : State :=
  let b := s.bell bell
  s.setBell bell
    { b with swing := freshSwing b.config, entered := s.nowMs, quietUntil := none,
             restClosedSince := if s.restClosed bell then some s.nowMs else none }

/-- R45: a bell leaves service: UNKNOWN unless LOCKED, nothing measured, its run ended; entered is kept (log entry 57). -/
def State.stopSwing (s : State) (bell : Nat) : State :=
  let b := s.bell bell
  let swing := if b.swing = .locked then SwingState.locked else .unknown
  (s.setBell bell { b with swing := swing, halfSwing := none, lastPulse := none, quietUntil := none }).endRun bell .stopped

/-- R44, R45, R46, R67: a bell AMEND takes effect. -/
def State.applyBell (s : State) (bell : Nat) (new : BellConfig) : State :=
  let b := s.bell bell
  let old := b.config
  let s := s.setBell bell { b with config := new }
  let s := s.setStroke bell (strokeAfterAmend old new (s.stroke bell))
  let s :=
    if new.inService && !old.inService then s.startSwing bell
    else if !new.inService && old.inService then s.stopSwing bell
    else if new.inService && !new.motorInService then s.endRun bell .stopped
    else s
  s.followLock bell

/-- R66, R183: the write of a hammer fault ends: the record has the hammer out of service, whatever an AMEND asked for before it
brought meanwhile. -/
def State.keepHammerFault (s : State) (bell : Nat) (f : HammerFault) : State :=
  let b := s.bell bell
  if b.config.hammerInService then
    (s.setBell bell { b with hammerFault := some f }).applyBell bell { b.config with hammerInService := false }
  else s

/-- R55, R183: the write of a stalled motor ends, likewise. -/
def State.keepMotorFault (s : State) (bell : Nat) : State :=
  let c := (s.bell bell).config
  if c.motorInService then s.applyBell bell { c with motorInService := false } else s

/-- R50, R56, R57: the values of one bell at each reset kind. -/
def State.resetBell (s : State) (bell : Nat) : State :=
  let b := s.bell bell
  s.setBell bell
    { b with swing := if s.lockHeld bell then .locked else freshSwing b.config, halfSwing := none, lastPulse := none,
             restClosedSince := if s.restClosed bell then some s.nowMs else none, entered := s.nowMs, quietUntil := none,
             motor := .off, lastOutcome := none }

/-- R50: every bell takes its values at a reset. -/
def State.resetBells (s : State) : State := eachIndex Config.bells (fun i s => s.resetBell i) s

/-- R56: at RESERVE ENTRY every run is discarded without a report. -/
def State.discardRuns (s : State) : State :=
  let bells := s.bells.map fun (b : Bell) => { b with motor := .off }
  { s with bells := bells }

end Sys2Proof.Machine
end

