-- ==== Sys2Proof/Machine/Chime.lean ====
section
/-! DEFINITION. The Chime Sequencer's operations: arrivals, the queue, the performance, its walk, and the two toll channels
(chapter 6). -/

namespace Sys2Proof.Machine

/-! ## Numbers and references (R89) -/

/-- R89: the number is held by a queued entry or by the performance. -/
def ChimeSequencer.holds (c : ChimeSequencer) (n : Nat) : Bool :=
  c.queue.any (fun e => e.number == n) || c.performance.any (fun p => p.entry.number == n)

/-- R89: the entry number after `n`, 65535 being followed by 1. -/
def followingNumber (n : Nat) : Nat := if 65535 ≤ n then 1 else n + 1

/-- R89: passes over numbers held; at most 9 are. -/
def ChimeSequencer.passOver (c : ChimeSequencer) : Nat → Nat → Nat
  | 0, n => n
  | fuel + 1, n => if c.holds n then c.passOver fuel (followingNumber n) else n

/-- R89: the number the next arrival is given. -/
def ChimeSequencer.nextNumber (c : ChimeSequencer) : Nat := c.passOver 9 (followingNumber c.lastEntryNumber)

/-- The tune an entry's content names, none for HOUR STRIKE. -/
def Content.tune? : Content → Option Handle
  | .tune h => some h
  | .hourStrike _ _ _ _ => none

/-- R82: the reference an entry holds, if any, is dropped. -/
def State.dropEntryRef (s : State) (e : Entry) : State :=
  match e.content.tune? with
  | some h => s.dropRef h
  | none => s

/-- R89: the tune to which the sequencer itself takes a reference as an entry arrives. -/
def Entry.taken (e : Entry) : Option Handle :=
  match e.source with
  | .occasion _ _ _ => none
  | .quarter _ => e.content.tune?
  | .hour _ => e.content.tune?
  | .command => e.content.tune?

/-! ## Queue order (R90) -/

/-- R90: one entry stands ahead of another. -/
def Entry.outranks (a b : Entry) : Bool := b.priority < a.priority || (a.priority == b.priority && a.arrival < b.arrival)

/-- R90: an entry is placed at its place in queue order. -/
def insertEntry (q : List Entry) (e : Entry) : List Entry :=
  q.takeWhile (fun x => x.outranks e) ++ e :: q.dropWhile (fun x => x.outranks e)

/-- R93: the loser, the latest arrival of the lowest priority present. -/
def loser : List Entry → Option Entry
  | [] => none
  | e :: rest =>
    match loser rest with
    | none => some e
    | some x => if e.outranks x then some x else some e

/-! ## Dequeue (R91, R95) -/

/-- R91: an expiry has passed when the current standard instant is later than it. -/
def Entry.expired (e : Entry) (now : Nat) : Bool := e.expiry.any fun x => x < now

/-- R95: outer repeats left at the start of an entry. -/
def startPasses (repeats : Nat) : Passes := if repeats = 0 then .untilStopped else .left (repeats - 1)

/-- R95: where an entry without a resume point begins; an HOUR STRIKE has no cursor, held as zeros. -/
def Content.firstCursor : Content → Cursor
  | .tune h => { tune := h, step := 1 }
  | .hourStrike _ _ _ _ => { tune := ⟨0, 0⟩, step := 0 }

/-- R95, R103: the performance an entry forms at the dequeue instant `now`. -/
def formPerformance (e : Entry) (now : Nat) : Performance :=
  let start := now + Config.leadWindow + e.leadIn * Config.tick
  let p : Performance :=
    { entry := { e with started := true }, ending := none, stopPending := false, preemptPending := false, dequeued := now,
      start := start, nextSounding := start, cursor := e.content.firstCursor, stack := [], passes := startPasses e.repeats,
      ticks := 0, passTested := true, hourTaken := 0, blows := [], skipped := 0, depth := false, resume := none }
  match e.resume with
  | none => p
  | some r =>
    { p with cursor := r.cursor, stack := r.stack, passes := r.passes, skipped := r.skipped, depth := r.depth,
             passTested := false }

/-- R91: the head becomes the performance; STARTED is given when it had not started before. -/
def State.beginPerformance (s : State) (e : Entry) : State :=
  let s : State := { s with chime.performance := some (formPerformance e s.nowMs) }
  if e.started then s else s.reportEntry e .started

/-- R91: expired heads are dropped until one has not expired or the queue is empty. -/
def dequeueFrom : List Entry → State → State
  | [], s => { s with chime.queue := [] }
  | e :: rest, s =>
    if e.expired s.time.standard then dequeueFrom rest ((s.reportEntry e .expired).dropEntryRef e)
    else State.beginPerformance { s with chime.queue := rest } e

/-- R91: the head is dequeued when no performance exists. -/
def State.dequeue (s : State) : State :=
  match s.chime.performance with
  | some _ => s
  | none => dequeueFrom s.chime.queue s

/-! ## Arrivals (R89, R92, R93, R104) -/

/-- R104: an arrival that is placed while a performance that yields is PLAYING at a lower priority. -/
def State.testPreemption (s : State) (e : Entry) : State :=
  match s.chime.performance with
  | none => s
  | some p =>
    if p.ending = none ∧ p.entry.priority < e.priority ∧ p.entry.yields then
      { s with chime.performance := some { p with preemptPending := true } }
    else s

/-- R92: an arrival is placed, QUEUED is reported, and it is dequeued at once or tested for pre-emption. -/
def State.placeArrival (s : State) (e : Entry) : State :=
  let s : State := { s with chime.queue := insertEntry s.chime.queue e }
  let s := s.reportEntry e .queued
  match s.chime.performance with
  | none => s.dequeue
  | some _ => s.testPreemption e

/-- Removes the entry of a number from the queue. -/
def State.unqueue (s : State) (n : Nat) : State :=
  { s with chime.queue := s.chime.queue.filter fun e => e.number != n }

/-- R93: a displaced entry leaves the queue with REFUSED FULL and its reference is dropped. -/
def State.displaceEntry (s : State) (e : Entry) : State := ((s.unqueue e.number).reportEntry e .refusedFull).dropEntryRef e

/-- R92, R93: the arrival is placed, or settled against the loser of a full queue; false when it is refused. -/
def State.settleArrival (s : State) (e : Entry) : State × Bool :=
  if s.chime.queue.length < Config.queueCapacity then (s.placeArrival e, true)
  else
    match loser s.chime.queue with
    | none => (s.placeArrival e, true)
    | some x =>
      if e.outranks x then ((s.displaceEntry x).placeArrival e, true)
      else ((s.reportEntry e .refusedFull).dropEntryRef e, false)

/-- What becomes of an arrival (R89, R92, R93). -/
inductive Arrival where
  | placed (number : Nat)
  | refused (report : EntryReport)
deriving DecidableEq, Repr

/-- R89: an arrival is numbered. -/
def State.numberArrival (s : State) (e : Entry) : Entry :=
  { e with number := s.chime.nextNumber, arrival := s.chime.lastArrival + 1 }

/-- R89: both counters take the numbers given. -/
def State.countArrival (s : State) : State :=
  { s with chime.lastEntryNumber := s.chime.nextNumber, chime.lastArrival := s.chime.lastArrival + 1 }

/-- R92, R93 for an arrival that holds its reference. -/
def State.admitArrival (s : State) (e : Entry) : State × Arrival :=
  match s.settleArrival e with
  | (s', true) => (s', .placed e.number)
  | (s', false) => (s', .refused .refusedFull)

/-- R89: an entry is offered to the sequencer. -/
def State.arrive (s : State) (offered : Entry) : State × Arrival :=
  let e := s.numberArrival offered
  let s := s.countArrival
  match e.taken with
  | none => s.admitArrival e
  | some h =>
    match s.takeRefusal h with
    | some r => (s.reportEntry e r, .refused r)
    | none => (s.takeRef h).admitArrival e

/-- An entry as it is offered: number and arrival sequence are given at its arrival. -/
def offer (source : EntrySource) (content : Content) (transposition : Int) (repeats priority : Nat) (yields : Bool)
    (expiry : Option Nat) (leadIn : Nat) : Entry :=
  { number := 0, source := source, content := content, transposition := transposition, repeats := repeats,
    priority := priority, yields := yields, expiry := expiry, leadIn := leadIn, arrival := 0, resume := none,
    started := false }

/-! ## The walk (R96 to R101, R103) -/

/-- R101: blows are kept in request-moment order; of two with one request moment the one scheduled first stands first (log
entry 64). -/
def insertBlow (l : List ScheduledBlow) (b : ScheduledBlow) : List ScheduledBlow :=
  l.takeWhile (fun x => x.requestAt ≤ b.requestAt) ++ b :: l.dropWhile (fun x => x.requestAt ≤ b.requestAt)

/-- R101: a blow is scheduled, its request moment taken from the bell's lead as read now. -/
def State.scheduledBlow (s : State) (bell sounding velocity : Nat) : ScheduledBlow :=
  { bell := bell, sounding := sounding, velocity := velocity, requestAt := sounding - (s.bell bell).config.lead }

/-- R97 steps 3 and 4 for one degree: the bells already named by the note, and the performance. -/
def State.takeDegree (s : State) (velocity : Nat) (x : List Nat × Performance) (degree : Nat) : List Nat × Performance :=
  let p := x.2
  match s.tunes.lookUp p.entry.transposition degree with
  | .bell b =>
    if b ∈ x.1 then (x.1, { p with skipped := addSkip p.skipped })
    else (b :: x.1, { p with blows := insertBlow p.blows (s.scheduledBlow b p.nextSounding velocity) })
  | .outOfRange => (x.1, { p with skipped := addSkip p.skipped })
  | .unmapped => (x.1, { p with skipped := addSkip p.skipped })

/-- R97: the blows of a NOTE. -/
def State.takeNote (s : State) (p : Performance) (degrees : List Nat) (velocity : Nat) : Performance :=
  (degrees.foldl (s.takeDegree velocity) ([], p)).2

/-- R97: a timed step has been taken up. -/
def Performance.advance (p : Performance) (duration : Nat) : Performance :=
  { p with nextSounding := p.nextSounding + duration * Config.tick, ticks := p.ticks + duration,
           cursor := { p.cursor with step := p.cursor.step + 1 } }

/-- R96: the performance enters FINISHING. -/
def Performance.finish (p : Performance) (e : Ending) : Performance := { p with ending := some e }

/-- R98: the step after the one at the cursor. -/
def Cursor.next (c : Cursor) : Cursor := { c with step := c.step + 1 }

/-- R98: the state of the callee, none when step 1 reads GONE. -/
def StepRead.state? : StepRead → Option TuneState
  | .gone => none
  | .atEnd state => some state
  | .step state _ => some state

/-- R98: a CALL step is skipped or taken. -/
def State.takeCall (s : State) (p : Performance) (callee : Handle) (repeats : Nat) : Performance :=
  if (s.readStep callee 1).state? = some .live then
    if p.stack.length < Config.callDepth then
      { p with stack := { tune := p.cursor.tune, returnStep := p.cursor.step + 1, repeatsLeft := repeats - 1 } :: p.stack,
               cursor := { tune := callee, step := 1 } }
    else { p with depth := true, cursor := p.cursor.next }
  else { p with skipped := addSkip p.skipped, cursor := p.cursor.next }

/-- R99: the top frame is popped and the cursor moves to the caller. -/
def Performance.popFrame (p : Performance) (f : CallFrame) (rest : List CallFrame) : Performance :=
  { p with stack := rest, cursor := { tune := f.tune, step := f.returnStep } }

/-- R99: END inside a callee: another of its repeats, or the return to its caller. -/
def Performance.endCallee (p : Performance) (f : CallFrame) (rest : List CallFrame) : Performance :=
  if 0 < f.repeatsLeft then
    { p with stack := { f with repeatsLeft := f.repeatsLeft - 1 } :: rest, cursor := { p.cursor with step := 1 } }
  else p.popFrame f rest

/-- R100: outer repeats left at the start of another pass, none when no pass is left. -/
def Passes.again : Passes → Option Passes
  | .untilStopped => some .untilStopped
  | .left 0 => none
  | .left (n + 1) => some (.left n)

/-- R100: the end of an outer pass: the next pass, or no further step. -/
def Performance.endPass (p : Performance) : Option Performance :=
  if p.passTested && p.ticks == 0 then none
  else
    match p.passes.again with
    | none => none
    | some left =>
      some { p with passes := left, cursor := { tune := (p.entry.content.tune?).getD p.cursor.tune, step := 1 }, ticks := 0,
                    passTested := true }

/-- R97 to R100: the walk, until a timed step has been taken up or there is no further step. GONE with no frame held cannot be
read (R97), and would end the walk. -/
def walk : Nat → State → Performance → Performance
  | 0, _, p => p.finish .done
  | fuel + 1, s, p =>
    match s.readStep p.cursor.tune p.cursor.step with
    | .step _ (.rest duration) => p.advance duration
    | .step _ (.note degrees velocity duration) => (s.takeNote p degrees velocity).advance duration
    | .step _ (.call callee repeats) => walk fuel s (s.takeCall p callee repeats)
    | .atEnd _ =>
      match p.stack with
      | f :: rest => walk fuel s (p.endCallee f rest)
      | [] =>
        match p.endPass with
        | some p' => walk fuel s p'
        | none => p.finish .done
    | .gone =>
      match p.stack with
      | f :: rest => walk fuel s (p.popFrame f rest)
      | [] => p.finish .done

/-- R103: the next blow of an hour strike, or no further step. -/
def State.walkHour (s : State) (p : Performance) (bell blows interval velocity : Nat) : Performance :=
  if p.hourTaken < blows then
    { p with blows := insertBlow p.blows (s.scheduledBlow bell p.nextSounding velocity), hourTaken := p.hourTaken + 1,
             nextSounding := p.nextSounding + interval * Config.tick }
  else p.finish .done

/-- R96 step 3. -/
def State.walkOn (s : State) (p : Performance) : Performance :=
  match p.entry.content with
  | .tune _ => walk Config.walkFuel s p
  | .hourStrike bell blows interval velocity => s.walkHour p bell blows interval velocity

/-- R104: the resume point of a performance. -/
def Performance.resumePoint (p : Performance) : ResumePoint :=
  { cursor := p.cursor, stack := p.stack, passes := p.passes, skipped := p.skipped, depth := p.depth }

/-- R104: the head of the queue still has a higher priority than the performance. -/
def State.headOutranks (s : State) (p : Performance) : Bool :=
  s.chime.queue.head?.any fun e => p.entry.priority < e.priority

/-- R96: the performance at a step boundary. -/
def State.settleBoundary (s : State) (p : Performance) : Performance :=
  if p.stopPending then p.finish .stopped
  else if p.preemptPending then
    if s.headOutranks p then { p.finish .preEmpted with resume := some p.resumePoint }
    else s.walkOn { p with preemptPending := false }
  else s.walkOn p

/-- R96: a step boundary whose moment has come, of a PLAYING performance. -/
def State.reachBoundary (s : State) : State :=
  match s.chime.performance with
  | none => s
  | some p =>
    if p.ending = none ∧ p.nextSounding ≤ s.nowMs + Config.leadWindow then
      { s with chime.performance := some (s.settleBoundary p) }
    else s

/-! ## Blows and the end moment (R101, R102, R105) -/

/-- R107: a toll channel claims the bell. -/
def State.claimed (s : State) (bell : Nat) : Bool := s.chime.tolls.toList.any fun t => t.any fun x => x.bell == bell

/-- R101: the request moment of the next scheduled blow, of two with one request moment the one scheduled first (log entry 64). -/
def State.requestBlow (s : State) : State :=
  match s.chime.performance with
  | none => s
  | some p =>
    match p.blows with
    | [] => s
    | b :: rest =>
      if b.requestAt ≤ s.nowMs then
        if s.claimed b.bell then
          { s with chime.performance := some { p with blows := rest, skipped := addSkip p.skipped } }
        else
          let s : State := { s with chime.performance := some { p with blows := rest } }
          s.strikeRequest b.bell b.sounding b.velocity (.performance p.entry.arrival)
      else s

/-- R105: the entry as it is re-queued. -/
def Performance.requeued (p : Performance) : Entry := { p.entry with resume := p.resume, expiry := none, leadIn := 0 }

/-- R105: what PRE-EMPTED DROPPED and STOPPED carry for an entry: the counts of its resume point. -/
def Entry.carried (e : Entry) : Nat × Bool :=
  match e.resume with
  | some r => (r.skipped, r.depth)
  | none => (0, false)

/-- R105: a pre-empted entry is re-queued, or refused by a full queue. -/
def State.requeue (s : State) (e : Entry) : State :=
  let place (s : State) : State := { s with chime.queue := insertEntry s.chime.queue e }
  if s.chime.queue.length < Config.queueCapacity then place s
  else
    match loser s.chime.queue with
    | none => place s
    | some x =>
      if e.outranks x then place (s.displaceEntry x)
      else (s.reportEntry e .preEmptedDropped e.carried.1 e.carried.2).dropEntryRef e

/-- R102: the performance ends according to its ending, and the head of the queue is dequeued. -/
def State.endPerformance (s : State) (p : Performance) (e : Ending) : State :=
  let s : State := { s with chime.performance := none }
  let s :=
    match e with
    | .done => (s.reportEntry p.entry .done p.skipped p.depth).dropEntryRef p.entry
    | .stopped => (s.reportEntry p.entry .stopped p.skipped p.depth).dropEntryRef p.entry
    | .preEmpted => s.requeue p.requeued
  s.dequeue

/-- R96, R102: the end moment of a FINISHING performance; every blow has been requested by then (log entry 39). -/
def State.reachEnd (s : State) : State :=
  match s.chime.performance with
  | none => s
  | some p =>
    match p.ending with
    | none => s
    | some e => if p.nextSounding ≤ s.nowMs ∧ p.blows = [] then s.endPerformance p e else s

/-! ## STOP (R106) and SILENCE's removals (R118) -/

/-- R106: a queued entry is removed. -/
def State.removeEntry (s : State) (e : Entry) : State :=
  ((s.unqueue e.number).reportEntry e .stopped e.carried.1 e.carried.2).dropEntryRef e

/-- R106: the performance as a STOP leaves it. -/
def Performance.stop (p : Performance) : Performance :=
  match p.ending with
  | none => { p with stopPending := true }
  | some .preEmpted => { p with ending := some .stopped }
  | some .done => p
  | some .stopped => p

/-- R106: STOP of an entry number; false when no entry has it. -/
def State.stopEntry (s : State) (n : Nat) : State × Bool :=
  match s.chime.queue.find? (fun e => e.number == n) with
  | some e => (s.removeEntry e, true)
  | none =>
    match s.chime.performance with
    | none => (s, false)
    | some p =>
      if p.entry.number = n then ({ s with chime.performance := some p.stop }, true) else (s, false)

/-- Whether an entry is a QUARTER or an HOUR entry. -/
def Entry.isClock (e : Entry) : Bool :=
  match e.source with
  | .quarter _ => true
  | .hour _ => true
  | .occasion _ _ _ => false
  | .command => false

/-- R118 step 2: every queued QUARTER and HOUR entry is removed as by a STOP, in queue order, head first (log entry 62). -/
def State.removeClockEntries (s : State) : State :=
  (s.chime.queue.filter Entry.isClock).foldl (fun s e => s.removeEntry e) s

/-! ## Tolls (R107 to R109) -/

/-- R107: the IDLE channel of lower number. -/
def State.idleChannel (s : State) : Option Nat := (List.range Config.tolls).find? fun i => (s.toll i).isNone

/-- R107: why a toll is refused with BUSY, else the channel it takes. -/
def State.tollChannel (s : State) (bell : Nat) : Except Reason Nat :=
  if s.claimed bell then .error .bellClaimed
  else
    match s.idleChannel with
    | some c => .ok c
    | none => .error .noChannel

/-- R107: a toll begins, with its number `run` (log entry 31). -/
def newToll (run now bell interval blows velocity : Nat) (source : TollSource) : TollRun :=
  { run := run, bell := bell, interval := interval, blowsLeft := blows, velocity := velocity, source := source, start := now,
    nextBlow := 1, scheduled := none, skipped := 0 }

/-- One more toll has been taken (log entry 31). -/
def State.countToll (s : State) : State := { s with chime.tollsTaken := s.chime.tollsTaken + 1 }

/-- R107: an accepted toll takes its channel and its source receives STARTED. -/
def State.acceptToll (s : State) (channel bell interval blows velocity : Nat) (source : TollSource) : State :=
  let t := newToll (s.chime.tollsTaken + 1) s.nowMs bell interval blows velocity source
  (s.setToll channel (some t)).countToll.reportToll channel t .started

/-- R108: the take-up moment of the next blow. -/
def TollRun.takeUpAt (t : TollRun) : Nat := t.start + (t.nextBlow - 1) * (t.interval * 1000)

/-- R108: the next blow is taken up. The blow number counts on by 1, after the last blow also, to one more than the blows (log
entry 65). -/
def State.takeUpToll (s : State) (channel : Nat) : State :=
  match s.toll channel with
  | none => s
  | some t =>
    if 0 < t.blowsLeft ∧ t.scheduled = none ∧ t.takeUpAt ≤ s.nowMs then
      let b := s.scheduledBlow t.bell (t.takeUpAt + Config.leadWindow) t.velocity
      s.setToll channel (some { t with blowsLeft := t.blowsLeft - 1, nextBlow := t.nextBlow + 1, scheduled := some b })
    else s

/-- R108: the request moment of the scheduled blow. -/
def State.requestToll (s : State) (channel : Nat) : State :=
  match s.toll channel with
  | none => s
  | some t =>
    match t.scheduled with
    | none => s
    | some b =>
      if b.requestAt ≤ s.nowMs then
        (s.setToll channel (some { t with scheduled := none })).strikeRequest b.bell b.sounding b.velocity
          (.toll channel t.run)
      else s

/-- R109: the moment a toll ends, one interval after its last blow. -/
def TollRun.endAt (t : TollRun) : Nat :=
  t.start + Config.leadWindow + (t.nextBlow - 1 + t.blowsLeft) * (t.interval * 1000)

/-- R109: a toll ends with a report: its channel is IDLE, the claim released and a blow not yet requested dropped; the channel keeps
the rest of what it held (section 6.5, log entry 46). -/
def State.endToll (s : State) (channel : Nat) (t : TollRun) (r : EntryReport) : State :=
  ((s.setToll channel none).setLastToll channel { t with scheduled := none }).reportToll channel t r

/-- R109: a toll's end is reached. -/
def State.reachTollEnd (s : State) (channel : Nat) : State :=
  match s.toll channel with
  | none => s
  | some t =>
    if t.blowsLeft = 0 ∧ t.scheduled = none ∧ t.endAt ≤ s.nowMs then s.endToll channel t .done else s

/-- R109: a toll is stopped at once; an IDLE channel is left as it is. -/
def State.stopToll (s : State) (channel : Nat) : State :=
  match s.toll channel with
  | none => s
  | some t => s.endToll channel t .stopped

/-! ## Resets (R110) -/

/-- R110: the queue, the performance and the tolls are discarded without reports. -/
def State.discardChime (s : State) : State :=
  { s with chime.queue := [], chime.performance := none, chime.tolls := Vector.replicate Config.tolls none }

/-- R110: the values of each reset kind. -/
def State.resetChime (s : State) : State :=
  { s with chime := { queue := [], performance := none, tolls := Vector.replicate Config.tolls none,
                      lastTolls := Vector.replicate Config.tolls TollRun.blank, lastEntryNumber := 0, lastArrival := 0,
                      tollsTaken := 0, lastOutcome := none } }

end Sys2Proof.Machine
end

