-- ==== Sys2Proof/Machine/Program.lean ====
section
/-! DEFINITION. The Clock Program's operations: marks, silences and landings (chapter 7). -/

namespace Sys2Proof.Machine

/-! ## Silence (R115, R116, R118) -/

/-- R115: a local time of day, in seconds, lies inside night silence. -/
def insideNight (c : ClockConfig) (timeOfDay : Nat) : Bool :=
  match c.nightStart, c.nightEnd with
  | some a, some b =>
    if a.seconds < b.seconds then a.seconds ≤ timeOfDay && timeOfDay < b.seconds
    else a.seconds ≤ timeOfDay || timeOfDay < b.seconds
  | _, _ => false

/-- R116: a mark at a standard instant lies before silenced-until. -/
def ClockProgram.silencedAt (p : ClockProgram) (mark : Nat) : Bool := p.silencedUntil.any fun x => mark < x

/-- R115, R116: a mark is silenced for QUARTER entries. -/
def ClockProgram.quarterSilenced (p : ClockProgram) (mark local_ : Nat) : Bool :=
  p.silencedAt mark || insideNight p.config (local_ % Config.daySeconds)

/-- R115, R116: a mark is silenced for HOUR entries. -/
def ClockProgram.hourSilenced (p : ClockProgram) (mark local_ : Nat) : Bool :=
  p.silencedAt mark || (p.config.nightMode == .all && insideNight p.config (local_ % Config.daySeconds))

/-- R118: a SILENCE action; silenced-until is the sum also past the range of R4 (log entry 70). -/
def State.silence (s : State) (minutes : Nat) : State :=
  let till := s.time.standard + minutes * 60
  let s : State := { s with program.silencedUntil := some (max (s.program.silencedUntil.getD 0) till) }
  s.removeClockEntries

/-! ## Marks (R113, R114) -/

/-- R113: the mark's tune, by the local quarter. -/
def tuneAt (c : ClockConfig) (local_ : Nat) : Option Handle :=
  match local_ % 3600 / Config.quarterSeconds with
  | 1 => c.first
  | 2 => c.second
  | 3 => c.third
  | _ => c.fourth

/-- R113: the QUARTER entry of a mark; its expiry is the sum also past the range of R4 (log entry 70). -/
def quarterEntry (c : ClockConfig) (tune : Handle) (mark local_ : Nat) : Entry :=
  offer (.quarter local_) (.tune tune) 0 1 c.quarterPriority false (some (mark + c.expiry)) 0

/-- R114: the blows of the hour. -/
def hourBlows (local_ : Nat) : Nat :=
  let h := local_ % Config.daySeconds / 3600 % 12
  if h = 0 then 12 else h

/-- R114: the HOUR entry of a mark; its expiry is the sum also past the range of R4 (log entry 70). -/
def hourEntry (c : ClockConfig) (mark local_ : Nat) : Entry :=
  offer (.hour local_) (.hourStrike c.hourBell (hourBlows local_) c.blowInterval c.hourVelocity) 0 1 c.hourPriority false
    (some (mark + c.expiry)) c.strikeGap

/-- Counts a silenced mark as missed (R113, R114). -/
def State.missMark (s : State) (source : ClockSource) : State := { s with program := s.program.countMiss source }

/-- R113: the QUARTER part of a mark. -/
def State.quarterPart (s : State) (mark local_ : Nat) : State :=
  let c := s.program.config
  match tuneAt c local_ with
  | none => s
  | some h =>
    if !c.quartersEnabled then s
    else if s.program.quarterSilenced mark local_ then s.missMark .quarter
    else (s.arrive (quarterEntry c h mark local_)).1

/-- R114: the HOUR part of a mark at :00. -/
def State.hourPart (s : State) (mark local_ : Nat) : State :=
  let c := s.program.config
  if local_ % 3600 ≠ 0 ∨ !c.hourEnabled then s
  else if s.program.hourSilenced mark local_ then s.missMark .hour
  else (s.arrive (hourEntry c mark local_)).1

/-- Section 7.2: a mark is handled: R113, then R114, and last mark becomes its standard instant. -/
def State.handleMark (s : State) (mark local_ : Nat) : State :=
  let s := (s.quarterPart mark local_).hourPart mark local_
  { s with program.lastMark := some mark }

/-- R119, R120: a mark that is not last mark and lies no more than the clock expiry back is handled. -/
def State.handleLateMark (s : State) (mark local_ : Nat) : State :=
  if s.time.standard ≤ mark + s.program.config.expiry ∧ s.program.lastMark ≠ some mark then s.handleMark mark local_ else s

/-- R119: the landing mark of a jump, the latest mark at or before the local instant landed on. The offset is a whole number of
quarters, so local and standard time share the place within the quarter. -/
def State.landingMark (s : State) : State :=
  let back := s.localNow % Config.quarterSeconds
  if back ≤ s.time.standard then s.handleLateMark (s.time.standard - back) (s.localNow - back) else s

/-- R120: the mark owed by a loss of supply that began at the instant `entry`. -/
def State.owedMark (s : State) (entry : Nat) : State :=
  let mark := s.time.standard - s.time.standard % Config.quarterSeconds
  if s.time.valid ∧ entry < mark then s.handleLateMark mark (s.localOf mark) else s

/-! ## Resets (R121) -/

/-- R121: the values of each reset kind; last mark is kept except at COLD START. -/
def ClockProgram.afterReset (p : ClockProgram) (cold : Bool) : ClockProgram :=
  { p with silencedUntil := none, quartersMissed := 0, hoursMissed := 0, lastOutcome := none,
           lastMark := if cold then none else p.lastMark }

/-! ## What the host sees (R122) -/

/-- R122: the current local time lies inside night silence. -/
def State.nightNow (s : State) : Bool := insideNight s.program.config (s.localNow % Config.daySeconds)

/-- R122: a handle names a LIVE tune at this moment. -/
def State.namesLive (s : State) (h : Handle) : Bool := (s.findTune h).any fun t => t.state == .live

end Sys2Proof.Machine
end

