-- ==== Sys2Proof/Machine/Calendar.lean ====
section
/-! DEFINITION. The Occasion Calendar's operations: occasion dates and dues, firing, actions, contexts, jumps and dusk
(chapter 8). -/

namespace Sys2Proof.Machine

/-! ## Occasion dates and dues (R125, R126) -/

/-- R125: the date of a day number matches the recurrence. -/
def recurs (r : Recurrence) (day : Nat) : Bool :=
  let d := dateOfDay day
  match r with
  | .once x => d == x
  | .daily => true
  | .weekly w => w.getLsbD (weekdayIndex day)
  | .monthlyNth week weekday months => months.getLsbD (d.month - 1) && d.day == nthWeekday d.year d.month week weekday
  | .annual month dayOfMonth => d.month == month && d.day == dayOfMonth

/-- R125: the date of a day number is an occasion date. -/
def isOccasionDate (c : OccasionConfig) (day : Nat) : Bool :=
  c.firstDate.all (fun x => decide (dayNumber x ≤ day)) && c.lastDate.all (fun x => decide ((day : Int) ≤ dayNumber x))
    && recurs c.recurrence day

/-- R126: the entry of the Dusk Table for a date. -/
def duskWeek (day : Nat) : Nat := (dayOfYear (dateOfDay day) - 1) / 7

/-- R126: the table dusk of a date, as a standard instant. -/
def State.tableDuskOf (s : State) (day : Nat) : Nat :=
  day * Config.daySeconds + (s.calendar.duskTable.getD (duskWeek day) 0) * 60

/-- R126: the dusk of a date, the confirmed instant while one is held for it. -/
def State.duskOf (s : State) (day : Nat) : Nat :=
  match s.calendar.confirmed with
  | some x => if x.day = day then x.instant else s.tableDuskOf day
  | none => s.tableDuskOf day

/-- R126: the due instant of an occasion date; a DUSK due of its last date may lie past the range of R4 (log entry 70). -/
def State.dueInstant (s : State) (a : Anchor) (day : Nat) : Int :=
  match a with
  | .clock h m sec =>
    let rule := s.time.settings.rule
    match readLocal rule (day * Config.daySeconds + (h * 3600 + m * 60 + sec) : Nat) with
    | some t => t
    | none => summerStart rule (dateOfDay day).year
  | .dusk offset => (s.duskOf day : Int) + offset * 60

/-- R127: the due of an occasion date when it lies later than `bound`. -/
def State.dueAfter (s : State) (c : OccasionConfig) (bound day : Nat) : Option Due :=
  if isOccasionDate c day then
    let t := s.dueInstant c.anchor day
    if (bound : Int) < t then some { instant := t.toNat, day := day } else none
  else none

/-- The earlier of two dues. -/
def earlier (a b : Option Due) : Option Due :=
  match a, b with
  | none, y => y
  | x, none => x
  | some x, some y => if y.instant < x.instant then some y else some x

/-- R127: searches `fuel` days from `day` on. The due of the day after the first one found may be the earlier of the two, when a
confirmed dusk stands for it. -/
def State.searchDue (s : State) (c : OccasionConfig) (bound : Nat) : Nat → Nat → Option Due
  | 0, _ => none
  | fuel + 1, day =>
    match s.dueAfter c bound day with
    | some x => if fuel = 0 then some x else earlier (some x) (s.dueAfter c bound (day + 1))
    | none => s.searchDue c bound fuel (day + 1)

/-- The first day a search has to look at: the window's, or ONCE's, and no day more than two before the bound's. -/
def searchFrom (c : OccasionConfig) (bound : Nat) : Nat :=
  let once := match c.recurrence with
    | .once d => (dayNumber d).toNat
    | _ => 0
  max (bound / Config.daySeconds - 2) (max once (c.firstDate.elim 0 fun d => (dayNumber d).toNat))

/-- R125: the day after the last one a search looks at, within 2199-12-31. -/
def searchTo (c : OccasionConfig) : Nat :=
  let once := match c.recurrence with
    | .once d => (dayNumber d).toNat + 1
    | _ => Config.rangeDays
  min Config.rangeDays (min once (c.lastDate.elim Config.rangeDays fun d => (dayNumber d).toNat + 1))

/-- R127: the next due, later than now and later than last fired. -/
def State.computeDue (s : State) (c : OccasionConfig) (lastFired : Option Nat) : Option Due :=
  let bound := max s.time.standard (lastFired.getD 0)
  let day := searchFrom c bound
  s.searchDue c bound (searchTo c - day) day

/-- R127: the next due, none while the time is invalid. -/
def State.nextDue (s : State) (c : OccasionConfig) (lastFired : Option Nat) : Option Due :=
  if s.time.valid then s.computeDue c lastFired else none

/-- R127: an occasion whose next due is recomputed, no longer waiting: ARMED without one becomes SPENT while the time is valid,
and FIRING keeps its state. -/
def State.withNextDue (s : State) (o : Occasion) : Occasion :=
  let due := s.nextDue o.config o.lastFired
  { o with due := due, waiting := false,
           state := if o.state = .armed ∧ due = none ∧ s.time.valid then .spent else o.state }

/-! ## The due list (R128, R129) -/

/-- R128: due-list order of two slots with their next dues. -/
def dueBefore (a b : Nat × Occasion) : Bool :=
  match a.2.due, b.2.due with
  | some x, some y =>
    x.instant < y.instant
      || (x.instant == y.instant
          && (b.2.config.priority < a.2.config.priority || (a.2.config.priority == b.2.config.priority && a.1 < b.1)))
  | some _, none => true
  | none, _ => false

/-- Places a slot in due-list order. -/
def insertDue (x : Nat × Occasion) : List (Nat × Occasion) → List (Nat × Occasion)
  | [] => [x]
  | y :: rest => if dueBefore x y then x :: y :: rest else y :: insertDue x rest

/-- The occupied slots whose occasion passes a test, in due-list order. -/
def State.occasionsWhere (s : State) (test : Occasion → Bool) : List (Nat × Occasion) :=
  (List.range Config.occasions).foldl
    (fun l i =>
      match (s.occasionSlot i).record with
      | some o => if test o then insertDue (i, o) l else l
      | none => l) []

/-- R128: the due list, as slots in order. -/
def State.dueList (s : State) : List (Nat × Occasion) := s.occasionsWhere fun o => o.due.isSome

/-- R129: the current standard instant is at or later than the next due. -/
def Occasion.isReached (o : Occasion) (now : Nat) : Bool := o.due.any fun d => d.instant ≤ now

/-- R129: the current standard instant is later than next due plus grace, a sum also past the range of R4 (log entry 70). -/
def Occasion.gracePassed (o : Occasion) (now : Nat) : Bool := o.due.any fun d => d.instant + o.config.grace * 60 < now

/-- R129: the slots reached, in due-list order. -/
def State.reachedSlots (s : State) : List Nat :=
  (s.occasionsWhere fun o => o.isReached s.time.standard).map (·.1)

/-- R129: the lowest-numbered free context. -/
def State.freeContext (s : State) : Option Nat := (List.range Config.contexts).find? fun i => (s.context i).isNone

/-! ## Actions (R132 to R134) -/

/-- R132: the entry a PLAY action offers; its expiry is the sum also past the range of R4 (log entry 70). -/
def playEntry (o : Occasion) (c : Context) (context place : Nat) (a : ContextAction) (tune : Handle) (transposition : Int)
    (repeats : Nat) (yields : Bool) : Entry :=
  offer (.occasion c.occasion context place) (.tune tune) transposition repeats o.config.priority yields
    (some (a.start + o.config.grace * 60)) 0

/-- R132: a PLAY action starts. -/
def State.startPlay (s : State) (holds : Bool) (context place : Nat) (tune : Handle) (e : Entry) : State :=
  if holds && s.namesLive tune then (s.arrive e).1
  else
    let s := if holds then s.dropRef tune else s
    s.finishAction context place (Outcome.plain .refused .noRecord)

/-- R133: a TOLL action starts. -/
def State.startToll (s : State) (occasion : Handle) (context place bell interval blows velocity : Nat) : State :=
  match s.tollChannel bell with
  | .error r => s.finishAction context place (Outcome.plain .refused r)
  | .ok channel =>
    (s.setPhase context place (.active (.toll channel))).acceptToll channel bell interval blows velocity
      (.action occasion context place)

/-- R133: a SWING action starts. -/
def State.startSwingAction (s : State) (context place bell minutes : Nat) : State :=
  match s.swingRefusal bell with
  | some r => s.finishAction context place (Outcome.plain .refused r)
  | none => (s.setPhase context place (.active (.bell bell))).acceptSwing bell minutes (.action context place)

/-- R134: the scene of an action can be used. -/
def State.sceneLive (s : State) (h : Handle) : Bool := (s.findScene h).any fun x => x.state == .live

/-- R134, R162: a SCENE UP action. DESIGN CHOICE: an end instant past 2199-12-31 23:59:59 is kept as the sum, beyond the range of R4
(log entry 70). -/
def State.sceneUp (s : State) (occasion : Handle) (context place : Nat) (scene : Handle) (hold : Nat) : State :=
  if s.sceneLive scene then
    match s.raiseScene scene with
    | (s', .raised) =>
      let (s', made) := s'.makeStanding scene (s.time.standard + hold * 60) (.occasion occasion)
      s'.finishAction context place (Outcome.plain .done (if made then .none else .notStanding))
    | (s', .full) => s'.finishAction context place (Outcome.plain .refused .full)
    | (s', .noRecord) => s'.finishAction context place (Outcome.plain .refused .noRecord)
    | (s', .notLive) => s'.finishAction context place (Outcome.plain .refused .noRecord)
  else s.finishAction context place (Outcome.plain .refused .noRecord)

/-- R134: a SCENE DOWN action. -/
def State.sceneDown (s : State) (context place : Nat) (scene : Handle) : State :=
  if s.sceneLive scene then (s.lowerAndRemove scene).finishAction context place (Outcome.plain .done)
  else s.finishAction context place (Outcome.plain .refused .noRecord)

/-- R132 to R134: a WAITING action starts in its owning block or is refused. -/
def State.startAction (s : State) (c : Context) (o : Occasion) (context place : Nat) (a : ContextAction) (holds : Bool) :
    State :=
  match a.kind with
  | .play tune transposition repeats yields =>
    s.startPlay holds context place tune (playEntry o c context place a tune transposition repeats yields)
  | .toll bell interval blows velocity => s.startToll c.occasion context place bell interval blows velocity
  | .swing bell minutes => s.startSwingAction context place bell minutes
  | .sceneUp scene hold => s.sceneUp c.occasion context place scene hold
  | .sceneDown scene => s.sceneDown context place scene
  | .silence minutes => (s.silence minutes).finishAction context place (Outcome.plain .done)

/-- R132: the action at a place starts when it is WAITING and its start instant has come. -/
def State.startIfDue (s : State) (context place : Nat) : State :=
  match s.context context with
  | none => s
  | some c =>
    match c.actions[place]?, s.findOccasion c.occasion with
    | some a, some o =>
      match a.phase with
      | .waiting holds => if a.start ≤ s.time.standard then s.startAction c o context place a holds else s
      | .active _ => s
      | .done => s
    | _, _ => s

/-- R132: actions of one context start in action-number order. -/
def State.startDueActions (s : State) (context : Nat) : State := eachIndex 4 (fun place s => s.startIfDue context place) s

/-- The places of a context whose WAITING actions are due. -/
def Context.duePlaces (c : Context) (now : Nat) : List Nat :=
  (List.range c.actions.length).filter fun i =>
    match c.actions[i]? with
    | some a => (match a.phase with | .waiting _ => a.start ≤ now | .active _ => false | .done => false)
    | none => false

/-! ## Firing (R129 to R131) -/

/-- R130 step 2: takes the reference of one PLAY action; the action holds a granted one. Its start instant is the sum also past the
range of R4 (log entry 70). -/
def State.takeForAction (s : State) (due : Nat) (a : Action) : State × ContextAction :=
  let start := due + a.offset
  match a.kind with
  | .play tune _ _ _ =>
    match s.takeRefusal tune with
    | none => (s.takeRef tune, { kind := a.kind, start := start, phase := .waiting true })
    | some _ => (s, { kind := a.kind, start := start, phase := .waiting false })
  | _ => (s, { kind := a.kind, start := start, phase := .waiting false })

/-- R130 steps 1 and 2: the action list is copied, references taken in action order. -/
def takeActions (due : Nat) : List Action → State → State × List ContextAction
  | [], s => (s, [])
  | a :: rest, s =>
    let (s, x) := s.takeForAction due a
    let (s, xs) := takeActions due rest s
    (s, x :: xs)

/-- R130: an occasion fires into a free context; actions already due start at once. -/
def State.fire (s : State) (slot context : Nat) (o : Occasion) (due : Nat) : State :=
  let h : Handle := { slot := slot, gen := (s.occasionSlot slot).gen }
  let (s, actions) := takeActions due o.config.actions s
  let s := s.setContext context (some { occasion := h, due := due, actions := actions })
  let fired : Occasion :=
    { o with lastFired := some due, outcome := o.config.actions.map fun _ => Outcome.plain .pending, state := .firing,
             context := some context }
  let s := s.putOccasion slot (s.withNextDue fired)
  s.startDueActions context

/-- R129: a MISSED firing. -/
def State.missOccasion (s : State) (slot : Nat) (o : Occasion) : State :=
  let o : Occasion := { o with missed := min 255 (o.missed + 1) }
  (s.putOccasion slot (s.withNextDue o)).raise .occasionMissed

/-- R129: the occasion waits for a context, its next due unchanged; waiting is working state. -/
def State.setWaiting (s : State) (slot : Nat) (o : Occasion) : State :=
  s.setOccasionSlot slot { s.occasionSlot slot with record := some { o with waiting := true } }

/-- R129, R131: the due of an occasion is reached. -/
def State.reach (s : State) (slot : Nat) : State :=
  match (s.occasionSlot slot).record with
  | none => s
  | some o =>
    match o.due with
    | none => s
    | some d =>
      if o.state = .firing then s.missOccasion slot o
      else if o.state = .armed then
        if o.gracePassed s.time.standard then s.missOccasion slot o
        else
          match s.freeContext with
          | some context => s.fire slot context o d.instant
          | none => s.setWaiting slot o
      else s

/-- R129: the due of the first occasion in due-list order that is not already waiting (log entry 35). -/
def State.reachFirst (s : State) : State :=
  match s.occasionsWhere fun o => o.isReached s.time.standard && !o.waiting with
  | [] => s
  | x :: _ => s.reach x.1

/-- R129: the first waiting occasion whose grace has passed is MISSED. -/
def State.expireGrace (s : State) : State :=
  match s.occasionsWhere fun o => o.waiting && o.gracePassed s.time.standard with
  | [] => s
  | x :: _ => s.missOccasion x.1 x.2

/-- R132: the first due action of a context starts. -/
def State.startFirstDue (s : State) (context : Nat) : State :=
  match s.context context with
  | none => s
  | some c =>
    match c.duePlaces s.time.standard with
    | [] => s
    | place :: _ => s.startIfDue context place

/-! ## Freeing a context (R136) -/

/-- R136: an occasion is freed: its slot becomes free and keeps its generation. -/
def State.freeOccasion (s : State) (slot : Nat) : State :=
  (s.setOccasionSlot slot { s.occasionSlot slot with record := none }).store (.occasion slot)

/-- R136: the occasion leaves its context. -/
def State.leaveContext (s : State) (h : Handle) : State :=
  match s.findOccasion h with
  | none => s
  | some o =>
    match o.state with
    | .retiring => s.freeOccasion h.slot
    | .firing => s.putOccasion h.slot { o with context := none, state := if o.due.isSome then .armed else .spent }
    | .armed => s.putOccasion h.slot { o with context := none }
    | .suspended => s.putOccasion h.slot { o with context := none }
    | .spent => s.putOccasion h.slot { o with context := none }

/-- Every action of the context is DONE (R136). -/
def Context.isDone (c : Context) : Bool := c.actions.all fun a => a.phase == .done

/-- The lowest-numbered context all of whose actions are DONE. -/
def State.doneContext (s : State) : Option Nat :=
  (List.range Config.contexts).find? fun i => (s.context i).any Context.isDone

/-- R136: the context is freed. -/
def State.releaseContext (s : State) (context : Nat) : State :=
  match s.context context with
  | none => s
  | some c => (s.setContext context none).leaveContext c.occasion

/-- R129: the first occasion waiting for a context, in due-list order. -/
def State.firstWaiting (s : State) : Option (Nat × Occasion) := (s.occasionsWhere fun o => o.waiting && o.due.isSome).head?

/-- R129: the waiting occasions are offered a free context; one whose grace has passed is MISSED, the context free or not. -/
def State.offerContext (s : State) (context : Nat) : State :=
  match s.firstWaiting with
  | none => s
  | some (slot, o) =>
    if o.gracePassed s.time.standard then s.missOccasion slot o
    else
      match o.due with
      | some d => s.fire slot context o d.instant
      | none => s

/-- R136, R129: frees contexts whose actions are all DONE and offers them to waiting occasions, until neither can be done
(log entry 10). -/
def settleLoop : Nat → State → State
  | 0, s => s
  | fuel + 1, s =>
    match s.doneContext with
    | some i => settleLoop fuel (s.releaseContext i)
    | none =>
      match s.freeContext, s.firstWaiting with
      | some i, some _ => settleLoop fuel (s.offerContext i)
      | _, _ => s

/-- R136: settles the contexts at the end of a command: at most 256 occasions wait, and each may fire and free its context. -/
def State.settleContexts (s : State) : State := settleLoop 1024 s

/-! ## Jumps (R140, R145) -/

/-- R140 step 4: WAITING actions whose start instants have come are started. -/
def State.startAllDue (s : State) : State := eachIndex Config.contexts (fun i s => s.startDueActions i) s

/-- R140 steps 2 and 3 for one slot: an occasion not reached, with a next due, is recomputed, and a SPENT one when `spent`. -/
def State.recomputeSlot (s : State) (spent : Bool) (reached : List Nat) (slot : Nat) : State :=
  match (s.occasionSlot slot).record with
  | none => s
  | some o =>
    if o.due.isSome && !reached.contains slot then s.putOccasion slot (s.withNextDue o)
    else if spent && o.state == .spent then
      match s.nextDue o.config o.lastFired with
      | some d => s.putOccasion slot { o with state := .armed, due := some d }
      | none => s
    else s

/-- R142: today's local date, as a day number. -/
def State.today (s : State) : Nat := s.localNow / Config.daySeconds

/-- R142: the table dusk T of today is worked out afresh. -/
def State.workTableDusk (s : State) : State :=
  { s with calendar.tableDusk := { day := s.today, instant := s.tableDuskOf s.today } }

/-- R142: a dusk not confirmed by T passes on the table; the date is kept, for confirmation is not tried again that day (log entry
60). -/
def State.passDusk (s : State) : State :=
  let c := s.calendar
  let d := c.tableDusk
  let passes : Bool := s.time.valid && decide (d.instant < s.time.standard) && c.confirmed.all (fun x => x.day != d.day)
    && !c.duskPassed.contains d.day
  { s with calendar.duskPassed := if passes then d.day :: c.duskPassed else c.duskPassed }

/-- R140: a jump event reaches the calendar; `spent` for RULE CHANGED and TIME SET. R142: T is worked out afresh, at RULE CHANGED too,
where local time does not move (the model's choice, log entry 67), and the dusk of the day left and of the day landed on passes on the
table when its T has passed (log entry 60). -/
def State.calendarJump (s : State) (spent : Bool) : State :=
  let s := s.passDusk.workTableDusk.passDusk
  let reached := s.reachedSlots
  let s := reached.foldl (fun s slot => s.reach slot) s
  let s := eachIndex Config.occasions (fun i s => s.recomputeSlot spent reached i) s
  s.startAllDue

/-- R145: one ARMED occasion as the time becomes valid, and a FIRING one, whose due TIME LOST took away: R145 names ARMED only, R127 any
occasion (log entry 69). -/
def State.armSlot (s : State) (slot : Nat) : State :=
  match (s.occasionSlot slot).record with
  | none => s
  | some o => if o.state = .armed ∨ o.state = .firing then s.putOccasion slot (s.withNextDue o) else s

/-- R145: the TIME SET whose local instant before is absent builds the due list; R142: T is worked out, as at any other TIME SET (log
entry 67). -/
def State.calendarFirstValidity (s : State) : State :=
  (eachIndex Config.occasions (fun i s => s.armSlot i) s.workTableDusk.passDusk).startAllDue

/-- R127 at TIME LOST: an occasion holds no next due and waits no longer. -/
def State.loseDue (s : State) (slot : Nat) : State :=
  match (s.occasionSlot slot).record with
  | none => s
  | some o => if o.state = .armed ∨ o.state = .firing then s.putOccasion slot { o with due := none, waiting := false } else s

/-- R127: TIME LOST empties the due list. T is left as it was (the model's choice, log entry 67). -/
def State.calendarTimeLost (s : State) : State := eachIndex Config.occasions (fun i s => s.loseDue i) s

/-! ## Dusk (R141 to R144) -/

/-- R141: the ambient line named in the dusk settings, when its function is AMBIENT. -/
def State.ambientLine (s : State) : Option Nat :=
  match s.calendar.dusk.line with
  | none => none
  | some l => if (s.line l).record.function = .ambient then some l else none

/-- R141: the mean of a window of 8 samples. -/
def duskMean (window : List Nat) : Option Nat := if window.length = 8 then some (window.sum / 8) else none

/-- R143: the moment since which the mean has equalled a value. -/
def runSince (mean : Option Nat) (value now : Nat) (since : Option Nat) : Option Nat :=
  if mean = some value then some (since.getD now) else none

/-- R142: the first SECOND of the present run of means below the threshold. -/
def belowRun (mean : Option Nat) (threshold second : Nat) (since : Option Nat) : Option Nat :=
  match mean with
  | none => none
  | some m => if m < threshold then some (since.getD second) else none

/-- R141 to R143: the ambient line is sampled at a SECOND. -/
def State.sampleAmbient (s : State) : State :=
  match s.ambientLine with
  | none => s
  | some i =>
    let l := s.line i
    let reading := min 1023 l.analog
    let s := s.setLine i { l with lastReading := some reading }
    let window := (s.calendar.window ++ [reading]).drop (s.calendar.window.length - 7)
    let mean := duskMean window
    let calendar : Calendar :=
      { s.calendar with
        window := window
        belowSince := belowRun mean s.calendar.dusk.threshold s.time.standard s.calendar.belowSince
        zeroSince := runSince mean 0 s.nowMs s.calendar.zeroSince
        fullSince := runSince mean 1023 s.nowMs s.calendar.fullSince }
    { s with calendar := calendar }

/-- R141: the window and the run times of R142 and R143 are emptied. -/
def State.emptyWindow (s : State) : State :=
  { s with calendar.window := [], calendar.belowSince := none, calendar.zeroSince := none, calendar.fullSince := none }

/-- R142: dusk is confirmed at the SECOND of the current standard instant, at its moment (log entry 7). -/
def State.duskConfirms (s : State) : Bool :=
  let c := s.calendar
  let x := s.time.standard
  decide s.atSecond && s.time.valid && !c.dusk.sensorFault && c.confirmed.all (fun d => d.day < s.today)
    && !c.duskPassed.contains s.today
    && c.belowSince.any (fun b => b + c.dusk.confirm * 60 ≤ x)
    && c.tableDusk.instant ≤ x + 3600 && x ≤ c.tableDusk.instant

/-- R142: where a DUSK occasion of today moves to, when that is earlier than its next due and later than last fired (R130, log entry
59). -/
def Occasion.movedDue (o : Occasion) (today now : Nat) : Option Due :=
  match o.config.anchor, o.due with
  | .dusk offset, some d =>
    let t := max ((now : Int) + offset * 60) now
    let fires := t < (d.instant : Int) ∧ o.lastFired.all fun x => decide ((x : Int) < t)
    if d.day = today ∧ fires then some { d with instant := t.toNat } else none
  | _, _ => none

/-- R142: one occasion's next due is moved. -/
def State.moveDusk (s : State) (slot : Nat) : State :=
  match (s.occasionSlot slot).record with
  | none => s
  | some o =>
    match o.movedDue s.today s.time.standard with
    | some d => s.putOccasion slot { o with due := some d }
    | none => s

/-- The slots whose next due a confirmed dusk moves. -/
def State.movedSlots (s : State) : List Nat :=
  (s.occasionsWhere fun o => (o.movedDue s.today s.time.standard).isSome).map (·.1)

/-- R142: dusk is confirmed; a due moved to the current instant is reached at once. -/
def State.confirmDusk (s : State) : State :=
  let moved := s.movedSlots
  let s : State := { s with calendar.confirmed := some { day := s.today, instant := s.time.standard } }
  let s := moved.foldl (fun s slot => s.moveDusk slot) s
  (s.reachedSlots.filter fun slot => moved.contains slot).foldl (fun s slot => s.reach slot) s

/-- R143: a mean of 0 or of 1023 has lasted 10 minutes at a SECOND event, at its moment (log entry 7). -/
def State.sensorFails (s : State) : Bool :=
  let lasted (since : Option Nat) : Bool := since.any fun m => m + Config.sensorFaultTime ≤ s.nowMs
  decide s.atSecond && !s.calendar.dusk.sensorFault && (lasted s.calendar.zeroSince || lasted s.calendar.fullSince)

/-- R143: the sensor is faulted. -/
def State.faultSensor (s : State) : State :=
  let s : State := { s with calendar.dusk.sensorFault := true }
  (s.askWrite .sensorFault).raise .sensorFault

/-- R144: the next due of every DUSK occasion with one is recomputed. -/
def State.recomputeDusk (s : State) (slot : Nat) : State :=
  match (s.occasionSlot slot).record with
  | none => s
  | some o =>
    match o.config.anchor, o.due with
    | .dusk _, some _ => s.putOccasion slot (s.withNextDue o)
    | _, _ => s

def State.recomputeDuskAll (s : State) : State := eachIndex Config.occasions (fun i s => s.recomputeDusk i) s

/-! ## Retiring an occasion (R138, R139) -/

/-- R138: a WAITING action becomes DONE and CANCELLED, and a reference it holds is dropped. -/
def State.cancelWaiting (s : State) (context place : Nat) : State :=
  match s.context context with
  | none => s
  | some c =>
    match c.actions[place]? with
    | none => s
    | some a =>
      match a.phase with
      | .waiting holds =>
        let s := match a.kind with
          | .play tune _ _ _ => if holds then s.dropRef tune else s
          | _ => s
        s.finishAction context place (Outcome.plain .cancelled)
      | .active _ => s
      | .done => s

/-- R139: the work of an ACTIVE action is ended in the block that holds it. -/
def State.endActive (s : State) (context place : Nat) : State :=
  match s.context context with
  | none => s
  | some c =>
    match c.actions[place]? with
    | none => s
    | some a =>
      match a.phase with
      | .active (.entry n) => (s.stopEntry n).1
      | .active (.toll channel) => s.stopToll channel
      | .active (.bell bell) => s.endRun bell .stopped
      | .waiting _ => s
      | .done => s

/-- R138: an occasion that holds a context becomes RETIRING and leaves the due list. -/
def State.beginRetiring (s : State) (slot context : Nat) (o : Occasion) : State :=
  let s := s.putOccasion slot { o with state := .retiring, due := none, waiting := false }
  eachIndex 4 (fun place s => s.cancelWaiting context place) s

/-! ## Resets (R145, R146) -/

/-- R145 step 1: an outcome entry still PENDING or STARTED becomes SKIPPED, INTERRUPTED. -/
def Outcome.interrupt (x : Outcome) : Outcome :=
  if x.kind = .pending ∨ x.kind = .started then Outcome.plain .skipped .interrupted else x

/-- R145, R146: one occasion at a reset, its context cleared. Only an occasion that held a context has entries to interrupt. At COLD
START a FIRING occasion becomes ARMED, at the other resets ARMED or, without a next due, SPENT; dues are kept only when `keepDue`
(log entry 28). -/
def Occasion.afterReset (o : Occasion) (cold keepDue : Bool) : Occasion :=
  let outcome := if o.context.isSome then o.outcome.map Outcome.interrupt else o.outcome
  let due := if keepDue then o.due else none
  let o : Occasion := { o with outcome := outcome, context := none, waiting := false }
  match o.state with
  | .firing => { o with state := if cold || o.due.isSome then .armed else .spent, due := due }
  | .armed => { o with due := due }
  | .suspended => o
  | .spent => o
  | .retiring => o

/-- R145, R146: one slot at a reset; a RETIRING occasion is freed. -/
def State.resetOccasion (s : State) (cold keepDue : Bool) (slot : Nat) : State :=
  match (s.occasionSlot slot).record with
  | none => s
  | some o => if o.state = .retiring then s.freeOccasion slot else s.putOccasion slot (o.afterReset cold keepDue)

/-- R141, R142, R145, R146: the calendar's values at a reset. Held dues are kept only while the time is valid (log entry 28). -/
def State.resetCalendar (s : State) (cold : Bool) : State :=
  let keep := !cold && s.time.valid
  let s := eachIndex Config.occasions (fun i s => s.resetOccasion cold keep i) s
  let s : State :=
    { s with calendar.contexts := Vector.replicate Config.contexts none, calendar.confirmed := none,
             calendar.duskPassed := [] }
  s.emptyWindow.workTableDusk.passDusk

/-- R146: dues at or before the current instant are reached, in due-list order. -/
def State.reachHeld (s : State) : State := s.reachedSlots.foldl (fun s slot => s.reach slot) s

end Sys2Proof.Machine
end

