-- ==== Sys2Proof/Machine/Dials.lean ====
section
/-! DEFINITION. The Dial Drive's operations: target and distance, reconciliation, impulses and the rest rule (chapter 2). -/

namespace Sys2Proof.Machine

/-! ## Target and distance (R22) -/

/-- R22: the half-minute step a local instant calls for. -/
def dialTarget (local_ : Nat) : Nat :=
  (local_ % Config.daySeconds / 3600 % 12 * 60 + local_ % 3600 / 60) * 2 + (if 30 ≤ local_ % 60 then 1 else 0)

/-- R22: the steps from a position forward to a target. -/
def distance (target position : Nat) : Nat := (target + 1440 - position) % 1440

/-- R22: the distance of a dial at the local instant shown. -/
def State.dialDistance (s : State) (i : Nat) : Nat := distance (dialTarget s.localNow) (s.dial i).position

/-! ## Impulses (R27 to R31) -/

/-- The polarity opposite to one (R29). -/
def Polarity.flip : Polarity → Polarity
  | .positive => .negative
  | .negative => .positive

/-- R27: the rest rule lets an impulse start. -/
def Dial.rested (d : Dial) (now : Nat) : Bool := d.lastStart.all fun m => m + d.spacing ≤ now

/-- The dial is in a state that takes impulses (section 2.1). -/
def Dial.isDriven (d : Dial) : Bool := d.state == .run || d.state == .catchUp

/-- R28, R29: an impulse starts with the next polarity; a DIAL SENSE line that already shows current counts. -/
def State.startImpulse (s : State) (i : Nat) : State :=
  let d := s.dial i
  let impulse : Impulse := { polarity := d.nextPolarity, began := s.nowMs, sensed := s.lineActive .dialSense i }
  s.setDial i { d with impulse := some impulse, lastStart := some s.nowMs }

/-- R26, R27, R35: an impulse is called for and nothing holds it back: MAINS, the gate CLOSED, no impulse in progress, no
reconciliation owed, RUN or CATCH-UP with a distance of at least 1, and the rest rule. -/
def State.impulseReady (s : State) (i : Nat) : Bool :=
  let d := s.dial i
  decide s.inMains && decide (s.hammers.gate = .closed) && d.impulse.isNone && !d.owed && d.isDriven
    && (!s.time.valid || decide (1 ≤ s.dialDistance i)) && d.rested s.nowMs

/-- R26 to R28: starts the impulse that is ready; with the time invalid the dial enters WAIT TIME instead. -/
def State.tryImpulse (s : State) (i : Nat) : State :=
  if s.impulseReady i then
    if s.time.valid then s.startImpulse i else s.setDial i { s.dial i with state := .waitTime }
  else s

/-! ## Reconciliation (R23, R24) -/

/-- R23: the state a distance gives. -/
def stateForDistance (d window : Nat) : DialState := if d = 0 then .run else if d ≤ window then .catchUp else .hold

/-- R23: a dial that is neither OFF nor in FAULT takes its state from its distance, and starts an impulse in CATCH-UP. -/
def State.reconcile (s : State) (i : Nat) : State :=
  let d := s.dial i
  if d.state = .off ∨ d.state = .fault then s
  else if !s.time.valid then s.setDial i { d with state := .waitTime }
  else
    let s' := s.setDial i { d with state := stateForDistance (s.dialDistance i) d.window }
    if (s'.dial i).state = .catchUp then s'.tryImpulse i else s'

/-- R24: a reconciliation is owed while an impulse is in progress, else it is made at once. -/
def State.reconcileOrOwe (s : State) (i : Nat) : State :=
  let d := s.dial i
  match d.impulse with
  | some _ => s.setDial i { d with owed := true }
  | none => s.reconcile i

/-- R24: an event reconciles every dial. -/
def State.reconcileDials (s : State) : State := eachIndex Config.dials (fun i s => s.reconcileOrOwe i) s

/-- R24: an owed reconciliation is made when no impulse is in progress (log entry 19). -/
def State.settleOwed (s : State) (i : Nat) : State :=
  let d := s.dial i
  if d.owed && d.impulse.isNone then (s.setDial i { d with owed := false }).reconcile i else s

/-! ## Half-minutes (R25) -/

/-- R25: a HALF-MINUTE at one dial. A RUN dial behind enters CATCH-UP also while its impulse is in progress (log entry 54). -/
def State.halfMinute (s : State) (i : Nat) : State :=
  let d := s.dial i
  match d.state with
  | .off => s
  | .waitTime => s
  | .fault => s
  | .run =>
    if s.dialDistance i = 0 then s
    else if s.dialDistance i = 1 then s.tryImpulse i
    else (s.setDial i { d with state := .catchUp }).tryImpulse i
  | .catchUp => s.tryImpulse i
  | .hold => if s.dialDistance i = 0 then s.setDial i { d with state := .run } else s

def State.halfMinutes (s : State) : State := eachIndex Config.dials (fun i s => s.halfMinute i) s

/-! ## The end of an impulse (R29, R30) -/

/-- R29: the impulse in progress is delivered when it runs its full width, with current shown if there is a sense line. -/
def State.isDelivered (s : State) (i : Nat) (p : Impulse) : Bool := !s.hasLine .dialSense i || p.sensed

/-- R26: a dial in CATCH-UP that has come to its target enters RUN; otherwise the cadence goes on. -/
def State.afterDelivery (s : State) (i : Nat) : State :=
  let d := s.dial i
  if d.owed then s
  else if d.state = .catchUp then
    if s.time.valid ∧ s.dialDistance i = 0 then s.setDial i { d with state := .run } else s.tryImpulse i
  else s

/-- R29: a delivered impulse moves the position, flips the polarity and is written. -/
def State.deliverImpulse (s : State) (i : Nat) : State :=
  let d := s.dial i
  let s := s.setDial i
    { d with position := (d.position + 1) % 1440, nextPolarity := d.nextPolarity.flip, impulse := none }
  (s.store (.dialSettle i)).afterDelivery i

/-- R28, R29: the impulse width has passed. -/
def State.endImpulse (s : State) (i : Nat) : State :=
  let d := s.dial i
  match d.impulse with
  | none => s
  | some p => if d.impulseWidth + p.began ≤ s.nowMs ∧ s.isDelivered i p then s.deliverImpulse i else s

/-- R30: 50 ms have passed without current: FAULT, NO CURRENT, and DIAL FAULT. -/
def State.missCurrent (s : State) (i : Nat) : State :=
  let d := s.dial i
  match d.impulse with
  | none => s
  | some p =>
    if s.hasLine .dialSense i && !p.sensed && decide (p.began + Config.senseTime ≤ s.nowMs) then
      let s := s.setDial i { d with impulse := none, state := .fault, fault := some .noCurrent, owed := false }
      (s.store (.dial i)).raise .dialFault
    else s

/-- R29: the DIAL SENSE line shows current, within 50 ms of the drive line going active. -/
def State.senseCurrent (s : State) (i : Nat) : State :=
  let d := s.dial i
  match d.impulse with
  | none => s
  | some p =>
    if s.nowMs ≤ p.began + Config.senseTime then s.setDial i { d with impulse := some { p with sensed := true } } else s

/-! ## AMEND and SET DIAL (R20, R21, R32) -/

/-- R21: a dial AMEND takes effect. An impulse then in progress on a dial that goes OFF ends undelivered (log entry 18). -/
def State.applyDial (s : State) (i : Nat) (a : DialAmend) : State :=
  let d := s.dial i
  let new : Dial :=
    { d with label := a.label, service := a.service, impulseWidth := a.impulseWidth,
             spacing := clampSpacing a.impulseWidth a.spacing, window := a.window }
  if !a.service then s.setDial i { new with state := .off, fault := none, impulse := none, owed := false }
  else if !d.service then (s.setDial i { new with state := .waitTime }).reconcileOrOwe i
  else (s.setDial i new).reconcileOrOwe i

/-- R32: SET DIAL writes the position, clears doubt and fault, and reconciles a dial in service. -/
def State.applySetDial (s : State) (i position : Nat) : State :=
  let d := s.dial i
  let new : Dial := { d with position := position, doubt := false, fault := none }
  let s :=
    if !d.service then s.setDial i new
    else if d.state = .fault then (s.setDial i { new with state := .waitTime }).reconcileOrOwe i
    else (s.setDial i new).reconcileOrOwe i
  s.store (.dial i)

/-! ## Supply loss and resets (R31, R33 to R35) -/

/-- R31: RESERVE ENTRY cuts an impulse in progress, which puts the dial in doubt, and drops what waits. -/
def State.cutImpulse (s : State) (i : Nat) : State :=
  let d := s.dial i
  match d.impulse with
  | none => s.setDial i { d with owed := false }
  | some _ =>
    ((s.setDial i { d with impulse := none, doubt := true, owed := false }).store (.dial i)).raise .dialDoubt

def State.cutImpulses (s : State) : State := eachIndex Config.dials (fun i s => s.cutImpulse i) s

/-- R33, R34, R35: the state of a dial right after a reset, before it is reconciled. -/
def Dial.afterReset (d : Dial) (keepStart : Bool) : Dial :=
  { d with state := if !d.service then .off else if d.fault.isSome then .fault else .waitTime, impulse := none, owed := false,
           lastStart := if keepStart then d.lastStart else none }

/-- R33, R34, R35: every dial's values at a reset; the last impulse start is kept only through RESTART. -/
def State.resetDials (s : State) (keepStart : Bool) : State :=
  let dials := s.dials.map fun (d : Dial) => d.afterReset keepStart
  { s with dials := dials }

end Sys2Proof.Machine
end

