-- ==== Sys2Proof/Machine/Lines.lean ====
section
/-! DEFINITION. The Field Line Table's operations: pins, filters, edges and outputs (sections 3.1 and 3.2). -/

namespace Sys2Proof.Machine

/-- R40: the state a pin level shows, read through the polarity. -/
def Line.shown (l : Line) : Bool := l.pinHigh == l.record.activeHigh

/-- R40: the act of the owner block on a filtered edge of one of its lines. -/
def State.onEdge (s : State) (r : LineRecord) (active : Bool) : State :=
  match r.function, r.bound with
  | .hammerBusy, some bell => if active then s.busyRises bell else s.busyFalls bell
  | .swingSense, some bell => if active then s.swingPulse bell else s
  | .restSense, some bell => if active then s.restCloses bell else s.restOpens bell
  | .dialSense, some dial => if active then s.senseCurrent dial else s
  | .ringingSwitch, _ => s.followLocks
  | .bellKey, some bell => s.followLock bell
  | _, _ => s

/-- R40: a change is taken into the filtered state, and its owner acts on the edge. -/
def State.takeEdge (s : State) (i : Nat) : State :=
  let l := s.line i
  let s := s.setLine i { l with filtered := l.shown, changing := none }
  (s.onEdge l.record l.shown).settleContexts

/-- R40, R42: the pin of a line takes a level, taken into the filtered state at once with filter 0; in RESERVE inputs are not
read. -/
def State.changePin (s : State) (i : Nat) (high : Bool) (reading : Nat) : State :=
  let l := s.line i
  let l' : Line := { l with pinHigh := high, analog := reading }
  let s' := s.setLine i l'
  if s.inMains ∧ isInput l.record.function then
    if l'.shown = l.filtered then s.setLine i { l' with changing := none }
    else if l.record.filter = 0 then s'.takeEdge i
    else if high = l.pinHigh then s'
    else s.setLine i { l' with changing := some s.nowMs }
  else s'

/-- R40: the new level of an input has held for its filter time. -/
def State.filterReady (s : State) (i : Nat) : Bool :=
  let l := s.line i
  decide s.inMains && isInput l.record.function && l.shown != l.filtered
    && l.changing.any fun m => m + l.record.filter ≤ s.nowMs

/-- R40: at a reset the filtered state of every input is taken from its pin; R43: the last reading becomes absent. -/
def Line.afterReset (l : Line) : Line :=
  { l with filtered := if isInput l.record.function then l.shown else l.filtered, changing := none, lastReading := none }

def State.resetLines (s : State) : State :=
  let lines := s.lines.map fun (l : Line) => l.afterReset
  { s with lines := lines }

/-- R38, R46, R141: a line AMEND takes effect. -/
def State.applyLine (s : State) (i : Nat) (r : LineRecord) : State :=
  let before := s.ambientLine
  let l := s.line i
  let l' : Line := { l with record := r, changing := none }
  let l'' : Line := { l' with filtered := if isInput r.function then l'.shown else l'.filtered }
  let s := (s.setLine i l'').followLocks
  let s := if s.ambientLine = before then s else s.emptyWindow
  s.settleContexts

/-- Section 2.4: the dial drives its line of a polarity. -/
def State.drivesDial (s : State) (i : Nat) (p : Polarity) : Bool := (s.dial i).impulse.any fun x => x.polarity == p

/-- Section 4.1: the strike line of a stroke machine is active. -/
def StrokeState.lineIsActive : StrokeState → Bool
  | .requested k => k.lineActive
  | .striking k => k.lineActive
  | .idle => false
  | .recovering _ _ => false
  | .fault => false
  | .outOfService => false

/-- R54: the contactor of a bell's motor is closed. -/
def MotorRun.isRunning : MotorRun → Bool
  | .running _ _ _ _ => true
  | .off => false
  | .pending _ _ _ _ => false

/-- R149, R161: the lamp output of a channel at the present count of its frame. -/
def State.lampActive (s : State) (i : Nat) : Bool :=
  (s.channel i).config.inService && lampOn (s.channel i).levels.delivered (s.clock % Config.countsPerFrame * 8)

/-- R41: an output line is active; every output is released in RESERVE. -/
def State.outputActive (s : State) (i : Nat) : Bool :=
  let r := (s.line i).record
  decide s.inMains &&
    (match r.function, r.bound with
     | .hammerStrike, some bell => (s.stroke bell).lineIsActive
     | .motor, some bell => (s.bell bell).motor.isRunning
     | .dialPositive, some dial => s.drivesDial dial .positive
     | .dialNegative, some dial => s.drivesDial dial .negative
     | .lamp, some channel => s.lampActive channel
     | _, _ => false)

/-- R41: the level a line's pin is driven to: active or, released, the inactive level of its polarity for a line of output
function; none where the part does not drive the pin. -/
def State.pinLevel (s : State) (i : Nat) : Option Bool :=
  let r := (s.line i).record
  if isOutput r.function then some (s.outputActive i == r.activeHigh) else none

end Sys2Proof.Machine
end

