-- ==== Sys2Proof/Machine/Time.lean ====
section
/-! DEFINITION. The Time Base's operations: counting seconds, alignment, announcements, SET TIME and the time settings
(chapter 1). -/

namespace Sys2Proof.Machine

/-! ## Announcements (R12, R13, R8, R9, R11) -/

/-- R12, R141: SECOND, at which a dusk not confirmed by T passes on the table (R142). The settle test, the dues and the standing
entries it brings are commands of their own (log entry 7). -/
def State.announceSecond (s : State) : State :=
  let s : State := { s with time.lastSecond := some s.clock }
  s.sampleAmbient.passDusk

/-- R12: the time-of-day events of the local instant of a counted second, in order. The mark is handled before any SILENCE action that
starts at the same second, which is a command of its own after this one (log entry 61). -/
def State.announceTimeOfDay (s : State) : State :=
  let t := s.localNow
  let s := if t % 30 = 0 then s.halfMinutes else s
  let s := if t % Config.quarterSeconds = 0 then (s.handleMark s.time.standard t).settleContexts else s
  if t % Config.daySeconds = 0 then s.workTableDusk else s

/-- R8: SUMMER START or SUMMER END, taken by the dials, the Clock Program and the calendar. -/
def State.announceSummer (s : State) : State :=
  ((s.reconcileDials.landingMark).calendarJump false).settleContexts

/-- R11, R9: TIME SET; `first` is whether the local instant before is absent. -/
def State.announceTimeSet (s : State) (first : Bool) : State :=
  let s := s.reconcileDials.landingMark
  let s := if first then s.calendarFirstValidity else s.calendarJump true
  s.endStandingEntries.settleContexts

/-- R9: RULE CHANGED, taken by the calendar. -/
def State.announceRuleChanged (s : State) : State := (s.calendarJump true).settleContexts

/-- R4: TIME LOST, taken by the dials and the calendar. -/
def State.announceTimeLost (s : State) : State := s.reconcileDials.calendarTimeLost

/-! ## Counting seconds (R1, R2, R4, R8) -/

/-- R1: the length of a second, by its trim cycle number. -/
def lengthOf (cycle : Nat) (trim : Int) : Nat :=
  if cycle = 31 then ((Config.countsPerSecond : Int) - trim).toNat else Config.countsPerSecond

/-- R1, R2: a second of a trim cycle number begins; one numbered 31 takes the stored trim into use (log entry 27). -/
def TimeBase.beginSecond (t : TimeBase) (cycle : Nat) : TimeBase :=
  { t with prescaler := 0, trimCycle := cycle, secondLength := lengthOf cycle t.settings.trim,
           trimInUse := if cycle = 31 then t.settings.trim else t.trimInUse }

/-- R1: the prescaler returns to 0, the trim cycle number advances and the next second begins. -/
def TimeBase.nextSecond (t : TimeBase) : TimeBase := t.beginSecond ((t.trimCycle + 1) % 32)

/-- R1, R4, R7: the standard time advances by one second, and summer in force follows. -/
def TimeBase.advance (t : TimeBase) : TimeBase :=
  let standard := if t.standard + 1 < Config.rangeEnd then t.standard + 1 else 0
  { t.nextSecond with standard := standard, summer := summerAt t.settings.rule standard,
                      valid := t.valid && t.standard + 1 < Config.rangeEnd }

/-- R4: this is the last second of the calendar range. -/
def TimeBase.atRangeEnd (t : TimeBase) : Bool := Config.rangeEnd ≤ t.standard + 1

/-- R1, R4, R8, R12, R15: a second is counted, with its events while the power state is MAINS. -/
def State.countSecond (s : State) : State :=
  let before := s.time
  let s : State := { s with time := before.advance }
  let s := s.raiseIf before.atRangeEnd .timeInvalid
  if s.time.power = .reserve then s
  else
    let s := s.announceSecond
    if before.atRangeEnd then s.announceTimeLost
    else if !s.time.valid then s
    else if before.summer = s.time.summer then s.announceTimeOfDay
    else s.announceSummer

/-- R1: the prescaler has reached the length of the second. -/
def State.endSecond (s : State) : State := if s.time.secondLength ≤ s.time.prescaler then s.countSecond else s

/-! ## Mark alignment (R3) -/

/-- R3: a rising edge on SMARK while the mark input is enabled and no SET TIME waits; one taken but not yet routed does not wait (log
entry 53). -/
def State.alignToMark (s : State) : State :=
  let p := s.time.prescaler
  let l := s.time.secondLength
  if s.time.settings.markEnable ∧ s.time.setTimeWait = none then
    if p ≤ Config.alignWindow then { s with time.prescaler := 0, time.lastAlignment := some (p : Int) }
    else if l - Config.alignWindow ≤ p then
      State.countSecond { s with time.lastAlignment := some (-((l : Int) - p)) }
    else s
  else s

/-! ## SET TIME (R10, R11) -/

/-- R10: the standard instant a SET TIME names, none when it is refused. -/
def setTimeInstant (rule : SummerRule) (basis : TimeBasis) (t : DateTime) : Option Nat :=
  if dateTimeOk t then
    let reading := match basis with
      | .standardTime => some t.instant
      | .localTime => readLocal rule t.instant
    match reading with
    | some x => if inRange x then some x.toNat else none
    | none => none
  else none

/-- R11: a SET TIME takes effect: the time is set, summer recomputed, the time becomes valid, and TIME SET is announced. The tests of
a SECOND of the same moment are over (log entry 7). -/
def State.takeSetTime (s : State) (instant : Nat) : State :=
  let first := !s.time.valid
  let t := s.time
  let time : TimeBase :=
    { t.beginSecond t.trimCycle with
        standard := instant, summer := summerAt t.settings.rule instant, valid := true, setTimeWait := none, lastSecond := none }
  let s : State := { s with time := time }
  s.announceTimeSet first

/-! ## The time settings (R2, R6, R9) -/

/-- R2, R6: the record as it is stored. -/
def storedSettings (x : TimeSettings) : TimeSettings := { x with trim := clampTrim x.trim }

/-- R6, R9, R119: new time settings take effect: TIME SET is announced when local time moves, by a change of summer in force or of
its offset, and RULE CHANGED when the rule changed and local time stands (log entry 55). -/
def State.applyTimeSettings (s : State) (x : TimeSettings) : State :=
  let before := s.time
  let summer := summerAt x.rule before.standard
  let s : State := { s with time.settings := x, time.summer := summer }
  if !before.valid ∨ x.rule = before.settings.rule then s
  else if summer = before.summer ∧ x.rule.shift summer = before.settings.rule.shift before.summer then s.announceRuleChanged
  else s.announceTimeSet false

end Sys2Proof.Machine
end

