-- ==== Sys2Proof/Machine/Resets.lean ====
section
/-! DEFINITION. Supply loss and the three reset kinds: RESERVE ENTRY, COLD START, SUPPLY RETURN and RESTART, each block's values
together (R15 to R18, R31, R33 to R35, R50, R56, R58, R68, R70, R71, R87, R110, R121, R145, R146, R166, R167, R177, R188). -/

namespace Sys2Proof.Machine

/-- R188: the link at RESERVE ENTRY: the request in progress is abandoned and the waiting response discarded. No frame is taken in
RESERVE (R179), and no response is made for a write still to end. -/
def State.dropLink (s : State) : State :=
  let writes := s.memory.writes.map fun (w : Write) => { w with response := none }
  { s with link.inProgress := none, link.waiting := none, link.frame := none, memory.writes := writes }

/-- R187, R188: the link at the reset of a RESTART or at a return: nothing is in progress or waiting, nor a SET TIME for its mark. A
frame under way keeps its own response (log entry 30). -/
def State.resetLink (s : State) : State :=
  let writes := s.memory.writes.map fun (w : Write) => { w with response := none }
  { s with link.inProgress := none, link.waiting := none, memory.writes := writes, time.setTimeWait := none }

/-- R15, R31, R56, R68, R70, R110, R166, R177, R188: RESERVE ENTRY. -/
def State.enterReserve (s : State) : State :=
  let s : State :=
    { s with time.power := .reserve, time.reserveEntry := s.time.standard, time.setTimeWait := none, time.msense := false,
             time.qualification := none }
  let s := s.cutImpulses.restStrokes
  let s : State := { s with hammers.gate := .closed }
  let s := s.discardChime.discardRuns
  let s : State := { s with feeder := { s.feeder with asks := [], admitted := [] } }
  s.darken.dropLink

/-- The values every block but the Time Base takes at a reset, before any block acts on them (log entry 9). -/
def State.takeResetValues (s : State) (cold keepStart : Bool) : State :=
  let s := s.resetLines
  let s := (s.resetDials keepStart).resetBells
  let s := s.restStrokes
  let s : State := { s with hammers.gate := .closed }
  let s := s.resetTunes.resetChime
  let s : State := { s with program := s.program.afterReset cold }
  let s := s.resetCalendar cold
  let s := s.resetMixer
  let s : State := { s with feeder := s.feeder.afterReset }
  s.resetLink

/-- R17, R33, R145, R167, R188: COLD START. Only TIME INVALID is left set, and fresh. -/
def State.coldStart (s : State) : State :=
  let s : State := { s with time.power := .mains, time.qualification := none, time.coldStartPending := false }
  let s := (s.takeResetValues true false).clearStanding
  let only := Condition.timeInvalid.only
  { s with link.flags := only, link.fresh := only, link.lastReport := 0#12 }

/-- R35, R167: what the blocks do once their RESTART or SUPPLY RETURN values are set: the dials are reconciled, held dues are
reached, and the standing scenes are raised again. -/
def State.resume (s : State) (kept : List StandingEntry) : State :=
  ((s.reachHeld).reRaiseStanding kept).settleContexts

/-- R16, R34, R120, R146, R167, R188: SUPPLY RETURN. -/
def State.supplyReturn (s : State) : State :=
  let s : State := { s with time.power := .mains, time.qualification := none }
  let s := (s.takeResetValues false false).settleStanding
  let s := s.raise .supplyReturned
  let kept := s.mixer.standing
  (s.reconcileDials.owedMark s.time.reserveEntry).resume kept

/-- R71: the reset of a RESTART. -/
def State.restartReset (s : State) : State :=
  let s := (s.takeResetValues false true).settleStanding
  let kept := s.mixer.standing
  s.reconcileDials.resume kept

/-- R17: the counting domain powers up with its contents lost; a loss that comes straight from MAINS is also a RESERVE ENTRY (log
entry 21). Record memory keeps the writes it was asked for (log entry 49). -/
def State.powerUpCold (s : State) : State :=
  let s := if s.inMains then s.enterReserve else s
  let t := s.time
  let time : TimeBase :=
    { t with prescaler := 0, secondLength := Config.countsPerSecond, trimInUse := t.settings.trim, trimCycle := 0, standard := 0,
             summer := summerAt t.settings.rule 0, valid := false, lastAlignment := none, power := .reserve,
             setTimeWait := none, qualification := none, coldStartPending := true, reserveEntry := 0 }
  let s : State := { s with time := time }
  s.raise .timeInvalid

/-! ## The power state (R15, R16) -/

/-- R15: MSENSE goes inactive in MAINS. -/
def State.loseMains (s : State) : State := if s.inMains then s.enterReserve else s

/-- R16: MSENSE goes active in RESERVE. -/
def State.beginQualification (s : State) : State :=
  if s.time.power = .reserve ∧ s.time.qualification = none then
    { s with time.msense := true, time.qualification := some s.clock }
  else s

/-- R16: MSENSE goes inactive before the 2 s have run. -/
def State.cancelQualification (s : State) : State :=
  match s.time.qualification with
  | none => s
  | some q =>
    if s.clock < q + Config.twoSeconds then { s with time.msense := false, time.qualification := none } else s

/-- R16, R17: MSENSE has stayed active for 2 s. -/
def State.completeQualification (s : State) : State :=
  match s.time.qualification with
  | none => s
  | some q =>
    if q + Config.twoSeconds ≤ s.clock then (if s.time.coldStartPending then s.coldStart else s.supplyReturn) else s

/-! ## RSTN and the restart gate (R18, R69, R70) -/

/-- R11, R69: RSTN becomes asserted; in MAINS it abandons a SET TIME that waits, and requests a RESTART. A SET TIME not yet routed does
not wait (log entry 53). -/
def State.assertRstn (s : State) : State :=
  let s : State := { s with hammers.rstn := true }
  if s.inMains then
    let s : State :=
      if s.time.setTimeWait.isSome then { s with time.setTimeWait := none, link.inProgress := none } else s
    s.requestRestart
  else s

/-- R70: RSTN becomes inactive. -/
def State.releaseRstn (s : State) : State := { s with hammers.rstn := false }

/-- R70: no dial has an impulse in progress, including the write that settles a delivered one. -/
def State.noImpulseUnderWay (s : State) : Bool :=
  s.dials.toList.all (fun d => d.impulse.isNone)
    && s.memory.writes.all fun w => match w.effect with
      | .stored (.dialSettle _) => false
      | _ => true

/-- R70: the gate opens, with RSTN inactive, whichever request opened the hold (log entry 50). -/
def State.gateOpens (s : State) : Bool :=
  decide s.inMains && decide (s.hammers.gate = .holding) && !s.hammers.rstn && s.noStrokeUnderWay && s.noImpulseUnderWay

/-- R70, R71: the reset takes place when the gate opens. -/
def State.restartIfOpen (s : State) : State := if s.gateOpens then s.restartReset else s

end Sys2Proof.Machine
end

