-- ==== Sys2Proof/Machine/Bytes.lean ====
section
/-! DEFINITION. How fields are laid out as bytes on the link, most significant byte first (R184, section 11.5). -/

namespace Sys2Proof.Machine

/-- One byte. -/
def u8 (n : Nat) : List Byte := [BitVec.ofNat 8 n]

/-- `k` bytes, most significant first (R184). -/
def bytesOf : Nat → Nat → List Byte
  | 0, _ => []
  | k + 1, n => bytesOf k (n / 256) ++ [BitVec.ofNat 8 n]

def u16 (n : Nat) : List Byte := bytesOf 2 n
def u24 (n : Nat) : List Byte := bytesOf 3 n
def u32 (n : Nat) : List Byte := bytesOf 4 n

/-- A signed field of `k` bytes in two's complement (R184). -/
def signed (k : Nat) (x : Int) : List Byte := bytesOf k (x % (256 ^ k : Nat)).toNat

/-- A yes/no field (R184). -/
def yesNo (b : Bool) : List Byte := u8 (if b then 1 else 0)

/-- An optional field: a presence byte, then the field's bytes when it is present (R184). -/
def optional {α : Type} (f : α → List Byte) : Option α → List Byte
  | none => u8 0
  | some x => u8 1 ++ f x

/-- A list in an answer: a count byte, then the items in order (log entry 23). -/
def listed {α : Type} (f : α → List Byte) (l : List α) : List Byte := u8 l.length ++ l.flatMap f

/-- A label: 16 bytes, unused places 0 (R184). -/
def labelBytes (l : Label) : List Byte := l.take 16 ++ List.replicate (16 - l.length) 0

/-- A date: year in two bytes, month, day (section 11.5). -/
def dateBytes (d : Date) : List Byte := u16 d.year ++ u8 d.month ++ u8 d.day

/-- An instant: year in two bytes, month, day, hour, minute, second (R184). -/
def instantBytes (t : Nat) : List Byte :=
  let x := dateTimeOf t
  dateBytes x.date ++ u8 x.hour ++ u8 x.minute ++ u8 x.second

def handleBytes (h : Handle) : List Byte := u8 h.slot ++ u8 h.gen

def hourMinuteBytes (t : HourMinute) : List Byte := u8 t.hour ++ u8 t.minute

/-- The condition flags (section 11.5): bit 0 is the least significant bit of byte 1; bits 12 to 15 read 0. -/
def flagBytes (f : FlagSet) : List Byte := u16 f.toNat

/-- A moment of elapsed time, as signed milliseconds from now, held at the ends of what four bytes carry (R72, log entry 23). -/
def fromNow (s : State) (moment : Nat) : List Byte :=
  signed 4 (max (-2147483648) (min 2147483647 ((moment : Int) - s.nowMs)))

/-! ## Codes (R184, section 11.5) -/

def dialStateCode : DialState → Nat
  | .off => 0
  | .waitTime => 1
  | .run => 2
  | .catchUp => 3
  | .hold => 4
  | .fault => 5

def polarityCode : Polarity → Nat
  | .positive => 0
  | .negative => 1

def functionCode : LineFunction → Nat
  | .unused => 0
  | .hammerStrike => 1
  | .hammerBusy => 2
  | .swingSense => 3
  | .restSense => 4
  | .motor => 5
  | .dialPositive => 6
  | .dialNegative => 7
  | .dialSense => 8
  | .lamp => 9
  | .ambient => 10
  | .ringingSwitch => 11
  | .bellKey => 12

def groupCode : BellGroup → Nat
  | .ring => 0
  | .chime => 1
  | .service => 2

def sensorCode : SensorMode → Nat
  | .none => 0
  | .swingOnly => 1
  | .swingAndRest => 2

def feedbackCode : Feedback → Nat
  | .busy => 0
  | .none => 1

def swingCode : SwingState → Nat
  | .unknown => 0
  | .atRest => 1
  | .swinging => 2
  | .settling => 3
  | .up => 4
  | .locked => 5

def strokeCode : StrokeState → Nat
  | .idle => 0
  | .requested _ => 1
  | .striking _ => 2
  | .recovering _ _ => 3
  | .fault => 4
  | .outOfService => 5

def hammerFaultCode : HammerFault → Nat
  | .noAnswer => 0
  | .stuck => 1
  | .unsolicited => 2

def motorCode : MotorRun → Nat
  | .off => 0
  | .pending _ _ _ _ => 1
  | .running _ _ _ _ => 2

def motorReportCode : MotorReport → Nat
  | .done => 0
  | .stopped => 1
  | .locked => 2
  | .up => 3
  | .stalled => 4
  | .refusedFeeder => 5

/-- The requesters of section 4.1, the performance and then toll channels 0 and 1 (log entry 56). -/
def requesterCode : Requester → Nat
  | .performance _ => 0
  | .toll channel _ => channel + 1

def tuneStateCode : TuneState → Nat
  | .draft => 0
  | .live => 1
  | .retiring => 2

def nightModeCode : NightMode → Nat
  | .all => 0
  | .quarters => 1

def occasionStateCode : OccasionState → Nat
  | .armed => 0
  | .firing => 1
  | .suspended => 2
  | .spent => 3
  | .retiring => 4

def sceneStateCode : SceneState → Nat
  | .live => 0
  | .retiring => 1

def modeCode : LayerMode → Nat
  | .top => 0
  | .max => 1

def outcomeCode : OutcomeKind → Nat
  | .pending => 0
  | .started => 1
  | .done => 2
  | .cancelled => 3
  | .refused => 4
  | .skipped => 5

/-- The reasons and notes (section 11.5). -/
def reasonCode : Reason → Nat
  | .none => 0
  | .noRecord => 1
  | .full => 2
  | .bellClaimed => 3
  | .noChannel => 4
  | .notInService => 5
  | .noMotor => 6
  | .motorOutOfService => 7
  | .locked => 8
  | .up => 9
  | .feeder => 10
  | .expired => 11
  | .preEmpted => 12
  | .stalled => 13
  | .interrupted => 14
  | .notStanding => 15

/-- The reports of R94, by their place in its table, in the last clock outcome too, where R117 lists them otherwise (log entry 56). -/
def entryReportCode : EntryReport → Nat
  | .queued => 0
  | .gone => 1
  | .notLive => 2
  | .refusedFull => 3
  | .expired => 4
  | .started => 5
  | .done => 6
  | .stopped => 7
  | .preEmptedDropped => 8

def endingCode : Ending → Nat
  | .done => 0
  | .stopped => 1
  | .preEmpted => 2

/-- Status codes of the output header (section 11.5). -/
def statusCode : Status → Nat
  | .idle => 0
  | .done => 1
  | .busy => 2
  | .noRecord => 3
  | .full => 4
  | .poolFull => 5
  | .wrongState => 6
  | .badField => 7
  | .badFrame => 8

/-! ## Records (R19, R36, R43, R57, R85, R88, R122, R147, R169, R178) -/

/-- The summer rule and the time settings, in the order of section 1.3; the offset is carried in minutes. -/
def timeSettingsBytes (x : TimeSettings) : List Byte :=
  signed 2 x.trim ++ yesNo x.markEnable ++ yesNo x.rule.enabled ++ u8 x.rule.offset
    ++ u8 x.rule.startMonth ++ u8 x.rule.startWeek ++ u8 x.rule.startWeekday.index ++ hourMinuteBytes x.rule.startTime
    ++ u8 x.rule.endMonth ++ u8 x.rule.endWeek ++ u8 x.rule.endWeekday.index ++ hourMinuteBytes x.rule.endTime

/-- R36: service has the values ON, OFF in that order; widths are counts of 10 ms, spacings counts of 0.5 s (R184). -/
def dialBytes (d : Dial) : List Byte :=
  labelBytes d.label ++ u8 (if d.service then 0 else 1) ++ u16 d.position ++ u8 (polarityCode d.nextPolarity)
    ++ u8 (d.impulseWidth / 10) ++ u8 (d.spacing / 500) ++ u16 d.window ++ yesNo d.doubt
    ++ optional (fun _ => u8 0) d.fault

def lineBytes (r : LineRecord) : List Byte :=
  u8 (functionCode r.function) ++ optional u8 r.bound ++ u8 (if r.activeHigh then 0 else 1) ++ u8 r.filter

def bellBytes (c : BellConfig) : List Byte :=
  labelBytes c.label ++ u8 (groupCode c.group) ++ yesNo c.inService ++ yesNo c.hammerInService ++ yesNo c.motorInService
    ++ yesNo c.hostLock ++ u8 (sensorCode c.sensorMode) ++ u16 c.settle ++ u16 c.lead ++ u8 c.velocity0 ++ u8 c.velocity1
    ++ u8 c.velocity2 ++ u8 c.velocity3 ++ u8 (feedbackCode c.feedback) ++ u16 c.repeatInterval ++ u16 c.motorRating

/-- A tune step (section 11.5). -/
def stepBytes : Step → List Byte
  | .note degrees velocity duration =>
    u8 1 ++ u8 velocity ++ u16 duration ++ degrees.flatMap u8 ++ List.replicate (4 - degrees.length) 255
  | .rest duration => u8 2 ++ u8 0 ++ u16 duration ++ List.replicate 4 0
  | .call tune repeats => u8 3 ++ u8 repeats ++ handleBytes tune ++ List.replicate 4 0

/-- R88: label, state, step count, own ticks and reference count. -/
def tuneBytes (t : Tune) : List Byte :=
  labelBytes t.label ++ u8 (tuneStateCode t.state) ++ u16 t.steps.length ++ u24 (ownTicks t.steps) ++ u8 t.refs

def clockConfigBytes (c : ClockConfig) : List Byte :=
  yesNo c.quartersEnabled ++ [c.first, c.second, c.third, c.fourth].flatMap (optional handleBytes) ++ yesNo c.hourEnabled
    ++ u8 c.hourBell ++ u16 c.blowInterval ++ u8 c.hourVelocity ++ u16 c.strikeGap ++ u8 c.quarterPriority
    ++ u8 c.hourPriority ++ u16 c.expiry ++ optional hourMinuteBytes c.nightStart ++ optional hourMinuteBytes c.nightEnd
    ++ u8 (nightModeCode c.nightMode)

/-- Bytes 16 to 20 of an occasion record (section 11.5). -/
def recurrenceBytes : Recurrence → List Byte
  | .once d => u8 0 ++ dateBytes d
  | .daily => u8 1 ++ List.replicate 4 0
  | .weekly w => u8 2 ++ u8 w.toNat ++ List.replicate 3 0
  | .monthlyNth week weekday months => u8 3 ++ u8 week ++ u8 (weekday.index + 1) ++ u16 months.toNat
  | .annual month day => u8 4 ++ u8 month ++ u8 day ++ List.replicate 2 0

/-- Bytes 30 to 33 of an occasion record (section 11.5). -/
def anchorBytes : Anchor → List Byte
  | .clock h m sec => u8 0 ++ u8 h ++ u8 m ++ u8 sec
  | .dusk offset => u8 1 ++ signed 2 offset ++ u8 0

/-- An action block of 10 bytes (section 11.5). DESIGN CHOICE: the bytes after the fields of its kind are zeros; section 11.5 says 0
only of whole unused blocks (log entry 71). -/
def actionBytes (a : Action) : List Byte :=
  let block : Nat × List Byte := match a.kind with
    | .play tune transposition repeats yields =>
      (1, handleBytes tune ++ signed 1 transposition ++ u8 repeats ++ yesNo yields)
    | .toll bell interval blows velocity => (2, u8 bell ++ u8 interval ++ u16 blows ++ u8 velocity)
    | .swing bell minutes => (3, u8 bell ++ u8 minutes)
    | .sceneUp scene hold => (4, handleBytes scene ++ u16 hold)
    | .sceneDown scene => (5, handleBytes scene)
    | .silence minutes => (6, u8 minutes)
  u8 block.1 ++ u16 a.offset ++ block.2 ++ List.replicate (7 - block.2.length) 0

/-- Bytes 22 to 25 and 26 to 29 of an occasion record (section 11.5). DESIGN CHOICE: a window date that is absent is zeros; section
11.5 says 0 only of unused bytes 17 to 20 and unused action blocks (log entry 71). -/
def windowBytes (d : Option Date) : List Byte := d.elim (List.replicate 4 0) dateBytes

/-- The 77 bytes of configuration of an occasion record (section 11.5). -/
def occasionConfigBytes (c : OccasionConfig) : List Byte :=
  labelBytes c.label ++ recurrenceBytes c.recurrence
    ++ u8 ((if c.firstDate.isSome then 1 else 0) + (if c.lastDate.isSome then 2 else 0))
    ++ windowBytes c.firstDate ++ windowBytes c.lastDate ++ anchorBytes c.anchor
    ++ u8 c.grace ++ u8 c.priority ++ u8 c.actions.length
    ++ c.actions.flatMap actionBytes ++ List.replicate (10 * (4 - c.actions.length)) 0

/-- An outcome entry (section 11.5). -/
def outcomeBytes (x : Outcome) : List Byte :=
  u8 (outcomeCode x.kind) ++ u8 (reasonCode x.note) ++ u16 x.skipped ++ yesNo x.depth

def duskSettingsBytes (d : DuskSettings) : List Byte :=
  optional u8 d.line ++ u16 d.threshold ++ u8 d.confirm ++ yesNo d.sensorFault

def channelBytes (c : ChannelConfig) : List Byte :=
  labelBytes c.label ++ yesNo c.inService ++ u16 c.rating ++ u16 c.ceiling ++ u16 c.floor

/-- A scene payload (section 11.5). -/
def sceneConfigBytes (c : SceneConfig) : List Byte :=
  labelBytes c.label ++ u16 c.fadeIn ++ u16 c.fadeOut ++ u8 c.priority ++ u8 (modeCode c.mode)
    ++ listed (fun x => u8 x.1 ++ u16 x.2) c.levels

end Sys2Proof.Machine
end

