-- ==== Sys2Proof/Machine/Answers.lean ====
section
/-! DEFINITION. The payloads of LOOK UP, LIST NEXT and READ STATE: what each chapter's "What the host sees" lists, in its order
(log entries 23 and 56 for the form of the fields that R184 leaves open). -/

namespace Sys2Proof.Machine

/-- A local instant of a standard one (R147). -/
def State.localBytes (s : State) (t : Nat) : List Byte := instantBytes (s.localOf t)

/-! ## Time Base and dials (R19, R36) -/

/-- R19, which lists no power state among what READ STATE returns (log entry 48). -/
def State.timeBaseState (s : State) : List Byte :=
  let t := s.time
  let next := if t.valid && t.settings.rule.enabled then nextTransition t.settings.rule t.standard else none
  instantBytes t.standard ++ instantBytes s.localNow ++ yesNo t.summer ++ yesNo t.valid ++ optional instantBytes next
    ++ signed 2 t.trimInUse ++ yesNo t.settings.markEnable ++ optional (signed 2) t.lastAlignment

/-- R36; the impulse in progress with its polarity is one optional field (log entry 56). -/
def State.dialReport (s : State) (i : Nat) : List Byte :=
  let d := s.dial i
  let target := if s.time.valid then some (dialTarget s.localNow) else none
  u8 (dialStateCode d.state) ++ u16 d.position ++ u8 (polarityCode d.nextPolarity) ++ optional u16 target
    ++ optional (fun t => u16 (distance t d.position)) target
    ++ optional (fun p : Impulse => u8 (polarityCode p.polarity)) d.impulse ++ yesNo d.owed ++ yesNo d.doubt
    ++ optional (fun _ => u8 0) d.fault

/-! ## Lines and bells (R43, R57, R72) -/

/-- R43; the filtered state, the pin level and the output are yes/no bytes, 1 for active or high (log entry 56). -/
def State.lineReport (s : State) (i : Nat) : List Byte :=
  let l := s.line i
  let f := l.record.function
  u8 (functionCode f) ++ optional u8 l.record.bound
    ++ (if f = .ambient then optional u16 l.lastReading
        else if isOutput f then yesNo (s.outputActive i)
        else yesNo l.filtered ++ yesNo l.pinHigh)

/-- R72: the parts of a stroke that are present by its state, with no presence bytes, the others left out, and the milliseconds to
recovery end in two bytes (log entry 56). -/
def State.strokeDetail (s : State) (k : StrokeState) : List Byte :=
  let running (x : Stroke) : List Byte :=
    fromNow s x.sounding ++ u8 x.velocity ++ u8 (requesterCode x.requester) ++ yesNo x.raised
  match k with
  | .requested x => running x
  | .striking x => running x
  | .recovering _ endAt => u16 (endAt - s.nowMs)
  | .idle => []
  | .fault => []
  | .outOfService => []

/-- R72; `k` is the stroke state read when the READ STATE was taken. The strike line and the HAMMER BUSY line are yes/no bytes, 1 for
active (log entry 56). -/
def State.hammerReport (s : State) (i : Nat) (k : StrokeState) : List Byte :=
  let machine := if s.hasMachine i then some k else none
  optional (fun k => u8 (strokeCode k)) machine ++ optional (fun f => u8 (hammerFaultCode f)) (s.bell i).hammerFault
    ++ s.strokeDetail k ++ yesNo (s.stroke i).lineIsActive
    ++ optional yesNo (if s.hasLine .hammerBusy i then some (s.lineActive .hammerBusy i) else none)

/-- R57: the motor run record; the fields its state does not give are left out (log entry 23), and the time left and the time waited
are milliseconds in four bytes (log entry 56). -/
def State.motorReport (s : State) (b : Bell) : List Byte :=
  u8 (motorCode b.motor)
    ++ (match b.motor with
        | .off => []
        | .pending _ since isAdmitted sources => u32 (s.nowMs - since) ++ yesNo isAdmitted ++ u8 sources.length
        | .running _ endAt satisfied sources => u32 (endAt - s.nowMs) ++ yesNo satisfied ++ u8 sources.length)
    ++ optional (fun r => u8 (motorReportCode r)) b.lastOutcome

/-- R57, R72; the locking conditions are three yes/no bytes: host lock, key, ringing switch (log entry 56). -/
def State.bellReport (s : State) (i : Nat) (k : StrokeState) : List Byte :=
  let b := s.bell i
  u8 (swingCode b.swing) ++ optional u16 b.halfSwing ++ optional (fun p => u24 (min 600000 (s.nowMs - p))) b.lastPulse
    ++ yesNo (s.restClosed i) ++ yesNo b.config.hostLock ++ yesNo (s.keyActive i) ++ yesNo (s.ringingLocks i)
    ++ s.hammerReport i k ++ (if 0 < b.config.motorRating then s.motorReport b else [])

/-! ## Tune Library (R88) -/

/-- The number of records of a table that pass a test. -/
def countSlots {α : Type} {n : Nat} (slots : Vector (Slot α) n) (test : Option α → Bool) : Nat :=
  slots.toList.countP fun x => test x.record

/-- R88: READ STATE of the Tune Library. -/
def State.tuneLibraryReport (s : State) : List Byte :=
  let count (x : TuneState) : Nat := countSlots s.tunes.slots fun r => r.any fun t => t.state == x
  u16 s.tunes.freeSteps ++ u8 (countSlots s.tunes.slots Option.isNone) ++ u8 (count .draft) ++ u8 (count .live)
    ++ u8 (count .retiring)

/-- R88: LOOK UP of a tune, with up to 32 steps from the first asked for, which end the payload with no count before them (log
entry 23). -/
def tuneLookUp (t : Tune) (first : Option Nat) : List Byte :=
  tuneBytes t
    ++ (match first with
        | none => []
        | some n => ((t.steps.drop (n - 1)).take 32).flatMap stepBytes)

/-- R88, R147, R169: the lowest-numbered occupied slot above `after`, whatever its number (log entry 51), whose record passes. -/
def nextSlot {α : Type} {n : Nat} (slots : Vector (Slot α) n) (after : Option Nat) (test : α → Bool) : Option Handle :=
  ((List.range n).find? fun i => after.all (· < i) && (slots.getD i ⟨0, none⟩).record.any test).map fun i =>
    { slot := i, gen := (slots.getD i ⟨0, none⟩).gen }

/-! ## Chime Sequencer (R111) -/

/-- Section 6.1: the source of an entry, its place and then its fields (log entry 56); actions are numbered from 1 (chapter 8). -/
def sourceBytes : EntrySource → List Byte
  | .quarter _ => u8 0
  | .hour _ => u8 1
  | .occasion h context place => u8 2 ++ handleBytes h ++ u8 context ++ u8 (place + 1)
  | .command => u8 3

/-- Section 6.1: the content of an entry, its place and then its fields (log entry 56). -/
def contentBytes : Content → List Byte
  | .tune h => u8 0 ++ handleBytes h
  | .hourStrike bell blows interval velocity => u8 1 ++ u8 bell ++ u8 blows ++ u16 interval ++ u8 velocity

/-- R111: a queued entry with its fields, and whether it has a resume point. -/
def entryBytes (e : Entry) : List Byte :=
  u16 e.number ++ sourceBytes e.source ++ contentBytes e.content ++ signed 1 e.transposition ++ u8 e.repeats ++ u8 e.priority
    ++ yesNo e.yields ++ optional instantBytes e.expiry ++ u16 e.leadIn ++ u32 e.arrival ++ yesNo e.resume.isSome
    ++ yesNo e.started

/-- Outer repeats left: 255 is UNTIL STOPPED (log entry 23). -/
def passesByte : Passes → List Byte
  | .left n => u8 n
  | .untilStopped => u8 255

/-- R111: the performance; an hour strike's step cursor is held as zeros (log entry 23). -/
def performanceBytes (s : State) (p : Performance) : List Byte :=
  u16 p.entry.number ++ u8 (if p.ending.isSome then 1 else 0) ++ optional (fun e => u8 (endingCode e)) p.ending
    ++ yesNo p.stopPending ++ yesNo p.preemptPending ++ fromNow s p.start ++ fromNow s p.nextSounding
    ++ handleBytes p.cursor.tune ++ u16 p.cursor.step ++ u8 p.stack.length ++ passesByte p.passes ++ u16 p.skipped
    ++ yesNo p.depth

/-- Section 6.5: the source of a toll, its place and then its fields (log entry 56). -/
def tollSourceBytes : TollSource → List Byte
  | .action h context place => u8 0 ++ handleBytes h ++ u8 context ++ u8 (place + 1)
  | .command => u8 1

/-- R111, section 6.5: a toll channel with its fields, the claimed bell present while it is TOLLING. A scheduled blow is given by its
sounding instant and its request moment; its velocity class is the toll's (log entry 56). -/
def State.tollReport (s : State) (channel : Nat) : List Byte :=
  let run := s.toll channel
  let t := run.getD (s.lastToll channel)
  u8 (if run.isSome then 1 else 0) ++ optional u8 (run.map (·.bell)) ++ u8 t.interval ++ u16 t.blowsLeft ++ u8 t.velocity
    ++ tollSourceBytes t.source ++ fromNow s t.start ++ u16 t.nextBlow
    ++ optional (fun b : ScheduledBlow => fromNow s b.sounding ++ fromNow s b.requestAt) t.scheduled ++ u16 t.skipped

/-- R111: a last command outcome names an entry or a toll channel by a tag and two bytes (log entry 23). -/
def commandOutcomeBytes (x : CommandOutcome) : List Byte :=
  (match x.what with
   | .entry n => u8 0 ++ u16 n
   | .toll channel => u8 1 ++ u16 channel)
    ++ u8 (entryReportCode x.report) ++ u16 x.skipped ++ yesNo x.depth

/-- R111: READ STATE of the Chime Sequencer. -/
def State.chimeReport (s : State) : List Byte :=
  listed entryBytes s.chime.queue ++ optional (performanceBytes s) s.chime.performance
    ++ (List.range Config.tolls).flatMap s.tollReport ++ optional commandOutcomeBytes s.chime.lastOutcome

/-! ## Clock Program (R122) -/

/-- R122: the last clock outcome; its report is coded by its place in R94's table (log entry 56). -/
def clockOutcomeBytes (x : ClockOutcome) : List Byte :=
  u8 (match x.source with | .quarter => 0 | .hour => 1) ++ instantBytes x.mark ++ u8 (entryReportCode x.report)
    ++ u16 x.skipped

/-- R122: silenced-until is in force while it lies ahead. -/
def State.clockReport (s : State) : List Byte :=
  let p := s.program
  let c := p.config
  optional s.localBytes p.silencedUntil ++ yesNo (p.silencedAt s.time.standard) ++ yesNo s.nightNow ++ u16 p.quartersMissed
    ++ u16 p.hoursMissed ++ optional s.localBytes p.lastMark ++ optional clockOutcomeBytes p.lastOutcome
    ++ [c.first, c.second, c.third, c.fourth].flatMap (optional fun h => yesNo (s.namesLive h))

/-! ## Occasion Calendar (R147) -/

/-- Section 11.5: the four outcome entries. DESIGN CHOICE: those the occasion does not have, with fewer than four actions or before its
first firing, are zeros; section 11.5 gives them no filler (log entry 71). -/
def fourOutcomes (l : List Outcome) : List Byte := l.flatMap outcomeBytes ++ List.replicate (5 * (4 - l.length)) 0

/-- R147, section 11.5: the whole record, configuration then live part. -/
def State.occasionLookUp (s : State) (o : Occasion) : List Byte :=
  occasionConfigBytes o.config ++ u8 (occasionStateCode o.state) ++ optional (fun d : Due => s.localBytes d.instant) o.due
    ++ optional s.localBytes o.lastFired ++ fourOutcomes o.outcome ++ u8 o.missed ++ optional u8 o.context

/-- R147: what an ACTIVE action has: 0 and its entry number, 1 and its channel, or 2 and its bell (log entry 56). -/
def holderBytes : Holder → List Byte
  | .entry n => u8 0 ++ u16 n
  | .toll channel => u8 1 ++ u8 channel
  | .bell bell => u8 2 ++ u8 bell

/-- R147: the context state of an action, its place and then its fields, a start as a local instant (log entry 56). -/
def State.phaseBytes (s : State) (a : ContextAction) : List Byte :=
  match a.phase with
  | .waiting _ => u8 0 ++ s.localBytes a.start
  | .active h => u8 1 ++ holderBytes h
  | .done => u8 2

/-- R147: READ STATE of an occasion, its next due as a local instant (log entry 56). -/
def State.occasionReport (s : State) (o : Occasion) : List Byte :=
  let actions := match o.context with
    | some i => (s.context i).elim [] (·.actions)
    | none => []
  u8 (occasionStateCode o.state) ++ optional (fun d : Due => s.localBytes d.instant) o.due ++ optional u8 o.context
    ++ listed s.phaseBytes actions ++ fourOutcomes o.outcome ++ u8 o.missed

/-- The handle of the occasion in a slot. -/
def State.occasionHandle (s : State) (slot : Nat) : Handle := { slot := slot, gen := (s.occasionSlot slot).gen }

/-- R147: READ STATE of the calendar; the occasions waiting are counted in two bytes (log entry 23), and instants are
local ones (log entry 56). DESIGN CHOICE (log entry 72): an occasion that waits is sent as its handle, in due-list order, and an entry
of the due list as its handle and then its next due as an optional field. -/
def State.calendarReport (s : State) : List Byte :=
  let c := s.calendar
  let free := countSlots c.slots Option.isNone
  let used := c.contexts.toList.countP Option.isSome
  let waiting := s.occasionsWhere fun o => o.waiting
  u16 free ++ u8 used ++ u16 waiting.length ++ waiting.flatMap (fun x => handleBytes (s.occasionHandle x.1))
    ++ listed (fun x : Nat × Occasion =>
        handleBytes (s.occasionHandle x.1) ++ optional (fun d : Due => s.localBytes d.instant) x.2.due) (s.dueList.take 8)
    ++ optional u8 c.dusk.line ++ optional u16 (duskMean c.window) ++ optional s.localBytes c.belowSince
    ++ s.localBytes c.tableDusk.instant
    ++ optional (fun x : DayInstant => dateBytes (dateOfDay x.day) ++ s.localBytes x.instant) c.confirmed
    ++ yesNo c.dusk.sensorFault

/-! ## Floodlight Mixer and Feeder Account (R169, R178) -/

/-- R169: the frames left in a layer's fade. DESIGN CHOICE (log entry 73): they are counted from the latest computed frame, not from
the frame in effect, and before the fade's first computed frame they are its whole length. -/
def State.framesLeft (s : State) (l : Layer) : Nat :=
  if l.k0 = s.nextComputed then l.length else l.length - min l.length (l.age s.mixer.nextFrame)

/-- R169: READ STATE of a channel. Its LAMP line is a yes/no byte, 1 for driven (log entry 56), and is driven while the channel is in
service in MAINS, also at level 0 (log entry 58). -/
def State.channelReport (s : State) (i : Nat) : List Byte :=
  let c := s.channel i
  u16 c.levels.delivered ++ u16 c.levels.mixed ++ u16 c.levels.capped
    ++ yesNo (c.config.inService && decide s.inMains)

/-- R169: the creator of a standing entry, its place and then its handle (log entry 56). -/
def creatorBytes : Creator → List Byte
  | .occasion h => u8 0 ++ handleBytes h
  | .command => u8 1

def State.fadeBytes (s : State) (l : Layer) : List Byte := u16 l.f ++ u16 l.target ++ u16 (s.framesLeft l)

/-- R169: READ STATE of a scene, its standing entry's end as a local instant (log entry 23), its layer and its standing entry each one
optional field (log entry 56). -/
def State.sceneReport (s : State) (h : Handle) (x : Scene) : List Byte :=
  u8 (sceneStateCode x.state) ++ optional s.fadeBytes (s.mixer.layers.find? fun l => l.scene == h)
    ++ optional (fun e : StandingEntry => s.localBytes e.endAt ++ creatorBytes e.creator)
        (s.mixer.standing.find? fun e => e.scene == h)

/-- R169: READ STATE of the Floodlight Mixer; a raise sequence, which has no range, takes four bytes (log entry 56). -/
def State.mixerReport (s : State) : List Byte :=
  listed (fun l : Layer => handleBytes l.scene ++ u32 l.sequence ++ s.fadeBytes l) s.mixer.layers
    ++ listed (fun e : StandingEntry => handleBytes e.scene ++ s.localBytes e.endAt ++ creatorBytes e.creator) s.mixer.standing
    ++ u16 s.feeder.scaleInEffect ++ u8 (countSlots s.mixer.scenes Option.isNone)

def computationBytes (c : Computation) : List Byte :=
  u32 c.frame ++ u16 c.capacity ++ u16 c.load ++ u24 c.demand ++ u16 c.budget ++ u16 c.target ++ u16 c.scale

/-- R178: READ STATE of the Feeder Account; the time since an ask takes three bytes (log entry 56). -/
def State.feederReport (s : State) : List Byte :=
  let f := s.feeder
  u16 f.capacity ++ u16 f.load ++ u16 f.scaleInEffect ++ u8 (if f.shed then 1 else 0) ++ optional computationBytes f.record
    ++ listed (fun a : Ask => u8 a.bell ++ u16 a.rating ++ u24 (s.nowMs - a.since)) f.asks
    ++ listed (fun r : AdmittedRun => u8 r.bell ++ u16 r.rating ++ yesNo r.permitted) f.admitted

/-- R186: READ CONDITIONS. -/
def State.conditionsReport (s : State) : List Byte :=
  flagBytes s.link.flags ++ flagBytes s.link.enables ++ flagBytes s.link.fresh

end Sys2Proof.Machine
end

