-- ==== Sys2Proof/Machine/Writes.lean ====
section
/-! DEFINITION. What takes effect when a record memory write ends (R182, R183 and each record's own rule). -/

namespace Sys2Proof.Machine

/-! ## Each record's effect in MAINS -/

/-- R144: new dusk settings, with sensor fault cleared (R143) and the window emptied (R141). -/
def State.storeDusk (s : State) (line : Option Nat) (threshold confirm : Nat) : State :=
  State.emptyWindow
    { s with calendar.dusk := { line := line, threshold := threshold, confirm := confirm, sensorFault := false } }

/-- R144: the weeks named are set. -/
def State.storeDuskTable (s : State) (pairs : List (Nat × Nat)) : State :=
  { s with calendar.duskTable := pairs.foldl (fun t p => t.setIfInBounds p.1 p.2) s.calendar.duskTable }

/-- R149: the channel's levels for a frame already computed are 0 until the first frame computed after it enters service. -/
def State.darkComputed (s : State) (i : Nat) : State :=
  { s with mixer.computed := s.mixer.computed.map fun v => v.setIfInBounds i Levels.dark }

/-- R148, R149: a channel AMEND takes effect. -/
def State.applyChannel (s : State) (i : Nat) (c : ChannelConfig) : State :=
  let old := s.channel i
  let s := s.setChannel i { config := c, levels := if c.inService then old.levels else Levels.dark }
  if c.inService && old.config.inService then s else s.darkComputed i

/-- R164: a scene AMEND takes effect; its layer moves to its place for the new priority. -/
def State.applyScene (s : State) (h : Handle) (c : SceneConfig) : State :=
  match s.findScene h with
  | none => s
  | some x =>
    let s := s.setScene h.slot { x with config := c }
    match s.mixer.layers.find? (fun l => l.scene = h) with
    | none => s
    | some l =>
      let s : State := { s with mixer.layers := s.mixer.layers.filter fun y => y.scene != h }
      s.insertLayer l

/-- R143, R183: the write of a sensor fault ends: the record has the fault, whatever an AMEND asked for before it brought meanwhile. -/
def State.keepSensorFault (s : State) : State := { s with calendar.dusk.sensorFault := true }

/-- R170: a feeder AMEND takes effect, and the ask list is tried. -/
def State.applyFeeder (s : State) (capacity : Nat) : State :=
  State.tryAsks { s with feeder.capacity := capacity }

/-- R85. -/
def State.applyChimeMap (s : State) (pairs : List (Nat × Option Nat)) : State :=
  { s with tunes.chimeMap := setDegrees s.tunes.chimeMap pairs }

/-- R112. -/
def State.applyClockProgram (s : State) (c : ClockConfig) : State := { s with program.config := c }

/-- R186: the enables take effect. -/
def State.applyEnables (s : State) (e : FlagSet) : State := { s with link.enables := e }

/-- What a write's end does while the power state is MAINS. -/
def State.applyWrite (s : State) (e : WriteEffect) : State :=
  match e with
  | .stored _ => s
  | .timeSettings x => s.applyTimeSettings x
  | .dial i a => s.applyDial i a
  | .line i r => s.applyLine i r
  | .bell i c => (s.applyBell i c).settleContexts
  | .chimeMap pairs => s.applyChimeMap pairs
  | .clockProgram c => s.applyClockProgram c
  | .duskSettings line threshold confirm => (s.storeDusk line threshold confirm).recomputeDuskAll
  | .duskTable pairs => (s.storeDuskTable pairs).recomputeDuskAll
  | .channel i c => s.applyChannel i c
  | .scene h c => s.applyScene h c
  | .feeder capacity => s.applyFeeder capacity
  | .conditions e => s.applyEnables e
  | .hammerFault i f => (s.keepHammerFault i f).settleContexts
  | .motorFault i => (s.keepMotorFault i).settleContexts
  | .sensorFault => s.keepSensorFault

/-! ## In RESERVE (R15) -/

/-- R15: a dial record stored in RESERVE; its state is set at the return. -/
def State.storeDial (s : State) (i : Nat) (a : DialAmend) : State :=
  let d := s.dial i
  s.setDial i
    { d with label := a.label, service := a.service, impulseWidth := a.impulseWidth,
             spacing := clampSpacing a.impulseWidth a.spacing, window := a.window,
             fault := if a.service then d.fault else none }

/-- R15, R183: a hammer fault and a motor fault stored in RESERVE, over what an AMEND asked for before brought meanwhile. -/
def State.storeHammerFault (s : State) (i : Nat) (f : HammerFault) : State :=
  let b := s.bell i
  if b.config.hammerInService then
    s.setBell i { b with config := { b.config with hammerInService := false }, hammerFault := some f }
  else s

def State.storeMotorFault (s : State) (i : Nat) : State :=
  let b := s.bell i
  s.setBell i { b with config := { b.config with motorInService := false } }

/-- R15: in RESERVE a write's end stores the record and no block acts on it; summer in force follows the new rule (log entry
14). -/
def State.storeWrite (s : State) (e : WriteEffect) : State :=
  match e with
  | .stored _ => s
  | .timeSettings x => { s with time.settings := x, time.summer := summerAt x.rule s.time.standard }
  | .dial i a => s.storeDial i a
  | .line i r => s.setLine i { s.line i with record := r }
  | .bell i c => s.setBell i { s.bell i with config := c }
  | .chimeMap pairs => s.applyChimeMap pairs
  | .clockProgram c => s.applyClockProgram c
  | .duskSettings line threshold confirm => s.storeDusk line threshold confirm
  | .duskTable pairs => s.storeDuskTable pairs
  | .channel i c => s.setChannel i { config := c, levels := Levels.dark }
  | .scene h c =>
    (match s.findScene h with
     | none => s
     | some x => s.setScene h.slot { x with config := c })
  | .feeder capacity => { s with feeder.capacity := capacity }
  | .conditions e => s.applyEnables e
  | .hammerFault i f => s.storeHammerFault i f
  | .motorFault i => s.storeMotorFault i
  | .sensorFault => s.keepSensorFault

/-! ## The end of a write (R182, R183) -/

/-- R182: a request that waited for another block's write may be routed. -/
def State.releaseRequest (s : State) : State :=
  match s.link.inProgress with
  | none => s
  | some q =>
    if q.phase = .awaitingWrite then { s with link.inProgress := some { q with phase := .ready } } else s

/-- R183: the write in progress ends: its owner acts on its end, the next write begins, and a response may become waiting. -/
def State.endWrite (s : State) : State :=
  match s.memory.writes with
  | [] => s
  | w :: rest =>
    let s : State := { s with memory.writes := rest }
    let s := if s.time.power = .mains then s.applyWrite w.effect else s.storeWrite w.effect
    let s := s.releaseRequest
    match w.response with
    | none => s
    | some r => s.answer r

end Sys2Proof.Machine
end

