-- ==== Sys2Proof/Machine/Requests.lean ====
section
/-! DEFINITION. Host requests: what their owner does with each, when it is refused, and its answer (R184 and each owner's
chapter). An index or handle outside its class's range is answered BAD FIELD, a stale handle NO RECORD (R73). -/

namespace Sys2Proof.Machine

/-! ## Answering -/

/-- An accepted AMEND that takes effect when its write ends: DONE becomes waiting then (R182). -/
def State.writeThenAnswer (s : State) (e : WriteEffect) (r : Response) : State :=
  { s with memory.writes := s.memory.writes ++ [{ effect := e, response := some r }] }

/-- Puts the request in progress in another phase. -/
def State.setPhaseOfRequest (s : State) (phase : RequestPhase) : State :=
  { s with link.inProgress := s.link.inProgress.map fun q => { q with phase := phase } }

/-- The request waits in its owner (R11, R20, R32). -/
def State.deferRequest (s : State) : State := s.setPhaseOfRequest .deferred

/-- The moment the request in progress was taken (R11, R182). -/
def State.takenAt (s : State) : Nat := s.link.inProgress.elim s.clock (·.taken)

/-- What the request in progress saw when it was taken (R72, R170). -/
def State.seen (s : State) : Seen := s.link.inProgress.elim .nothing (·.seen)

/-- R72: the stroke state of the bell of a READ STATE, as it was when the READ STATE was taken. -/
def State.strokeSeen (s : State) (i : Nat) : StrokeState :=
  match s.seen with
  | .stroke k => k
  | _ => s.stroke i

/-- R170: the admitted load M at the moment the feeder AMEND was taken. -/
def State.loadSeen (s : State) : Nat :=
  match s.seen with
  | .load m => m
  | _ => s.feeder.load

def State.badField (s : State) (slot gen : Nat := 0) : State := s.answer (reply .badField slot gen)
def State.noRecord (s : State) (slot gen : Nat := 0) : State := s.answer (reply .noRecord slot gen)
def State.wrongState (s : State) (slot gen : Nat := 0) : State := s.answer (reply .wrongState slot gen)

/-! ## Time Base (R10, R11, R6, R19) -/

/-- R11: the answer to a SET TIME that took effect. -/
def State.answerSetTime (s : State) (atMark : Bool) : State :=
  s.answer (reply .done 0 0 (instantBytes s.time.standard ++ instantBytes s.localNow ++ yesNo atMark))

/-- R10, R11: the 2 s of a SET TIME that waits run from the moment its request was taken. -/
def State.workSetTime (s : State) (basis : TimeBasis) (t : DateTime) : State :=
  match setTimeInstant s.time.settings.rule basis t with
  | none => s.badField
  | some instant =>
    if s.time.settings.markEnable then
      State.deferRequest { s with time.setTimeWait := some { since := s.takenAt, instant := instant } }
    else (s.takeSetTime instant).answerSetTime false

/-- R11: a SET TIME that waits takes effect. -/
def State.finishSetTime (s : State) (atMark : Bool) : State :=
  match s.time.setTimeWait with
  | none => s
  | some w => (s.takeSetTime w.instant).answerSetTime atMark

/-- R11: a rising edge on SMARK within the 2 s of a waiting SET TIME. -/
def State.setTimeAtEdge (s : State) : State :=
  if s.time.setTimeWait.any fun w => s.clock ≤ w.since + Config.twoSeconds then s.finishSetTime true else s

/-- R11: the 2 s of a waiting SET TIME have run out. -/
def State.setTimeAtTimeout (s : State) : State :=
  if s.time.setTimeWait.any fun w => w.since + Config.twoSeconds ≤ s.clock then s.finishSetTime false else s

/-- R2, R6. -/
def State.workAmendTime (s : State) (x : TimeSettings) : State :=
  if summerRuleOk x.rule then s.writeThenAnswer (.timeSettings (storedSettings x)) (reply .done 0 0) else s.badField

/-! ## Dials (R20, R32, R36) -/

/-- R20: a checked dial AMEND is written; DONE returns the clamped spacing. -/
def State.writeDial (s : State) (i : Nat) (a : DialAmend) : State :=
  s.writeThenAnswer (.dial i a) (reply .done i 0 (u8 (clampSpacing a.impulseWidth a.spacing / 500)))

/-- R20. -/
def State.workAmendDial (s : State) (i : Nat) (a : DialAmend) : State :=
  if i < Config.dials ∧ s.dialAmendOk i a then
    if (s.dial i).impulse.isSome then s.deferRequest else s.writeDial i a
  else s.badField i

/-- R32: SET DIAL acts; DONE carries the state and, while the time is valid, the distance. -/
def State.doSetDial (s : State) (i position : Nat) : State :=
  let before := s.memory.writes.length
  let s := s.applySetDial i position
  let d := if s.time.valid then some (s.dialDistance i) else none
  s.answerAfterWrites before (reply .done i 0 (u8 (dialStateCode (s.dial i).state) ++ optional u16 d))

/-- R32. -/
def State.workSetDial (s : State) (i position : Nat) : State :=
  if i < Config.dials ∧ position ≤ 1439 then
    if (s.dial i).impulse.isSome then s.deferRequest else s.doSetDial i position
  else s.badField i

/-- R20: a dial AMEND that waited for an impulse proceeds. -/
def State.resumeAmendDial (s : State) : State :=
  match s.link.inProgress with
  | some { task := .request (.amendDial i a), phase := .deferred, .. } =>
    if (s.dial i).impulse.isNone then (s.setPhaseOfRequest .working).writeDial i a else s
  | _ => s

/-- R32: a SET DIAL that waited for an impulse proceeds. -/
def State.resumeSetDial (s : State) : State :=
  match s.link.inProgress with
  | some { task := .request (.setDial i position), phase := .deferred, .. } =>
    if (s.dial i).impulse.isNone then (s.setPhaseOfRequest .working).doSetDial i position else s
  | _ => s

/-! ## Lines and bells (R37 to R39, R44, R51, R54) -/

/-- R37, R38, R39. -/
def State.workAmendLine (s : State) (i : Nat) (r : LineRecord) : State :=
  if i < Config.lines ∧ s.lineRecordOk i r then
    if s.boundInService (s.line i).record || s.boundInService r then s.wrongState i
    else if s.motorFull i r then s.answer (reply .full i 0)
    else s.writeThenAnswer (.line i r) (reply .done i 0)
  else s.badField i

/-- R44: the fields are judged before the motor's state (log entry 33). -/
def State.workAmendBell (s : State) (i : Nat) (c : BellConfig) : State :=
  if i < Config.bells ∧ s.bellAmendOk i c then
    if (s.bell i).config.motorRating ≠ c.motorRating ∧ (s.bell i).motor ≠ .off then s.wrongState i
    else s.writeThenAnswer (.bell i c) (reply .done i 0)
  else s.badField i

/-- R51: a refusal carries its reason by its place in R51's table, from 0 (log entry 23). -/
def swingReasonCode (r : Reason) : Nat := reasonCode r - 5

/-- R51, R52. -/
def State.workSwing (s : State) (i minutes : Nat) : State :=
  if i < Config.bells ∧ 1 ≤ minutes then
    match s.swingRefusal i with
    | some r => s.answer (reply .wrongState i 0 (u8 (swingReasonCode r)))
    | none =>
      let s := s.acceptSwing i minutes .command
      s.answer (reply .done i 0 (u8 (motorCode (s.bell i).motor)))
  else s.badField i

/-- R54. -/
def State.workStopBell (s : State) (i : Nat) : State :=
  if i < Config.bells then ((s.endRun i .stopped).settleContexts).answer (reply .done i 0) else s.badField i

/-! ## Tune Library (R74 to R80, R85, R88) -/

/-- R74. A refused OPEN TUNE names no tune, and its answer carries slot and generation 0 (log entry 23). -/
def State.workOpenTune (s : State) (label : Label) : State :=
  if labelOk label then
    match lowestFree s.tunes.slots with
    | none => s.answer (reply .full 0 0)
    | some i =>
      let before := s.memory.writes.length
      let gen := nextGeneration (s.tuneSlot i).gen
      let tune : Tune := { label := label, state := .draft, steps := [], refs := 0 }
      let s := (s.setTuneSlot i { gen := gen, record := some tune }).store (.tune i)
      s.answerAfterWrites before (reply .done i gen)
  else s.badField

/-- R76: the first refusal that applies, in order. -/
def State.appendRefusal (s : State) (t : Tune) (batch : List Step) : Option Status :=
  if t.state ≠ .draft then some .wrongState
  else if !batchOk batch then some .badField
  else if Config.maxTuneSteps < t.steps.length + batch.length then some .full
  else if s.tunes.freeSteps < batch.length then some .poolFull
  else none

/-- R76: the batch is taken from the pool and linked after the tune's last step. -/
def State.linkSteps (s : State) (h : Handle) (t : Tune) (batch : List Step) : State :=
  let s := s.setTune h.slot { t with steps := t.steps ++ batch }
  State.store { s with tunes.freeSteps := s.tunes.freeSteps - batch.length } (.tune h.slot)

/-- R73: acts on the tune a handle names; out of range is BAD FIELD, stale NO RECORD. -/
def State.withTune (s : State) (h : Handle) (act : Tune → State) : State :=
  if handleInRange h Config.tunes then
    match s.findTune h with
    | none => s.noRecord h.slot h.gen
    | some t => act t
  else s.badField h.slot h.gen

/-- R76. -/
def State.workAppend (s : State) (h : Handle) (batch : List Step) : State :=
  s.withTune h fun t =>
    match s.appendRefusal t batch with
    | some x => s.answer (reply x h.slot h.gen)
    | none =>
      let before := s.memory.writes.length
      let s := s.linkSteps h t batch
      s.answerAfterWrites before
        (reply .done h.slot h.gen (u16 (t.steps.length + batch.length) ++ u16 s.tunes.freeSteps))

/-- R76: an APPEND STEPS one of whose steps is of no kind of R75, or is not whole. -/
def State.workBadSteps (s : State) (h : Handle) : State :=
  s.withTune h fun t => if t.state ≠ .draft then s.wrongState h.slot h.gen else s.badField h.slot h.gen

/-- R78. -/
def State.workCloseTune (s : State) (h : Handle) : State :=
  s.withTune h fun t =>
    if t.state ≠ .draft then s.wrongState h.slot h.gen
    else if t.steps = [] then s.badField h.slot h.gen
    else
      let before := s.memory.writes.length
      let s := (s.setTune h.slot { t with state := .live }).store (.tune h.slot)
      s.answerAfterWrites before (reply .done h.slot h.gen)

/-- R79. -/
def State.workAmendTune (s : State) (h : Handle) (label : Label) : State :=
  s.withTune h fun t =>
    if t.state = .retiring then s.wrongState h.slot h.gen
    else if labelOk label then
      let before := s.memory.writes.length
      let s := (s.setTune h.slot { t with label := label }).store (.tune h.slot)
      s.answerAfterWrites before (reply .done h.slot h.gen)
    else s.badField h.slot h.gen

/-- R80: freed is answered as 0, retiring as 1 with the reference count. -/
def State.workRetireTune (s : State) (h : Handle) : State :=
  s.withTune h fun t =>
    let before := s.memory.writes.length
    if t.state = .retiring then s.wrongState h.slot h.gen
    else if t.state = .draft ∨ t.refs = 0 then
      (s.freeTune h.slot).answerAfterWrites before (reply .done h.slot h.gen (u8 0))
    else
      let s := (s.setTune h.slot { t with state := .retiring }).store (.tune h.slot)
      s.answerAfterWrites before (reply .done h.slot h.gen (u8 1 ++ u8 t.refs))

/-- R85. -/
def State.workAmendMap (s : State) (pairs : List (Nat × Option Nat)) : State :=
  if mapPairsOk pairs then s.writeThenAnswer (.chimeMap pairs) (reply .done 0 0) else s.badField

/-! ## Chime Sequencer (R106, R107, R109, R111) -/

/-- R111: what a refused arrival is answered. -/
def arrivalStatus : EntryReport → Status
  | .gone => .noRecord
  | .notLive => .wrongState
  | .refusedFull => .full
  | .queued => .done
  | .started => .done
  | .expired => .done
  | .done => .done
  | .stopped => .done
  | .preEmptedDropped => .done

/-- R111: whether an entry number is the performance's. -/
def State.isPlaying (s : State) (n : Nat) : Bool := s.chime.performance.any fun p => p.entry.number == n

/-- R111: PLAY; DONE carries the entry number and whether it is playing (0) or queued (1). -/
def State.workPlay (s : State) (h : Handle) (transposition : Int) (repeats priority : Nat) (yields : Bool) : State :=
  if handleInRange h Config.tunes ∧ playOk transposition repeats priority then
    match s.arrive (offer .command (.tune h) transposition repeats priority yields none 0) with
    | (s', .placed n) =>
      let s' := s'.settleContexts
      s'.answer (reply .done h.slot h.gen (u16 n ++ u8 (if s'.isPlaying n then 0 else 1)))
    | (s', .refused r) => (s'.settleContexts).answer (reply (arrivalStatus r) h.slot h.gen)
  else s.badField h.slot h.gen

/-- R106: STOP of a chime entry by the number in its payload; the answer's slot is that number's low byte (log entry 25). -/
def State.workStopEntry (s : State) (n : Nat) : State :=
  match s.stopEntry n with
  | (s', true) => (s'.settleContexts).answer (reply .done (n % 256) 0)
  | (s', false) => s'.noRecord (n % 256)

/-- R107: TOLL; BUSY carries the reason, 1 BELL CLAIMED or 2 NO CHANNEL (section 11.5). -/
def State.workToll (s : State) (bell interval blows velocity : Nat) : State :=
  if tollOk bell interval blows velocity then
    match s.tollChannel bell with
    | .error r => s.answer (reply .busy 0 0 (u8 (if r = .bellClaimed then 1 else 2)))
    | .ok channel => (s.acceptToll channel bell interval blows velocity .command).answer (reply .done 0 0 (u8 channel))
  else s.badField

/-- R109: the answer carries the channel the request named (log entry 23). -/
def State.workStopToll (s : State) (channel : Nat) : State :=
  if channel < Config.tolls then ((s.stopToll channel).settleContexts).answer (reply .done channel 0) else s.badField channel

/-! ## Clock Program (R112) -/

/-- R112. -/
def State.workAmendProgram (s : State) (c : ClockConfig) : State :=
  if clockConfigOk c then s.writeThenAnswer (.clockProgram c) (reply .done 0 0) else s.badField

/-! ## Occasion Calendar (R123, R124, R137 to R139, R144) -/

/-- Acts on the occasion a handle names. -/
def State.withOccasion (s : State) (h : Handle) (act : Occasion → State) : State :=
  if handleInRange h Config.occasions then
    match s.findOccasion h with
    | none => s.noRecord h.slot h.gen
    | some o => act o
  else s.badField h.slot h.gen

/-- R123: an occasion as it is stored. -/
def newOccasion (c : OccasionConfig) : Occasion :=
  { config := c, state := .armed, due := none, lastFired := none, outcome := [], missed := 0, context := none,
    waiting := false }

/-- The next due of the occasion in a slot, as DONE carries it (R123). -/
def State.dueAnswer (s : State) (slot : Nat) : List Byte :=
  optional (fun d : Due => s.localBytes d.instant) ((s.occasionSlot slot).record.bind (·.due))

/-- R123. -/
def State.workStoreOccasion (s : State) (c : OccasionConfig) : State :=
  if occasionConfigOk c then
    match lowestFree s.calendar.slots with
    | none => s.answer (reply .full 0 0)
    | some i =>
      let before := s.memory.writes.length
      let gen := nextGeneration (s.occasionSlot i).gen
      let s := (s.setOccasionSlot i { gen := gen, record := some (s.withNextDue (newOccasion c)) }).store (.occasion i)
      s.answerAfterWrites before (reply .done i gen (s.dueAnswer i))
  else s.badField

/-- R124: the amended occasion. -/
def State.amendedOccasion (s : State) (o : Occasion) (c : OccasionConfig) : Occasion :=
  let o : Occasion := { o with config := c, waiting := false }
  match o.state with
  | .armed => s.withNextDue o
  | .firing => s.withNextDue o
  | .spent =>
    (match s.nextDue c o.lastFired with
     | some d => { o with state := .armed, due := some d }
     | none => o)
  | .suspended => o
  | .retiring => o

/-- R124. -/
def State.workAmendOccasion (s : State) (h : Handle) (c : OccasionConfig) : State :=
  s.withOccasion h fun o =>
    if o.state = .retiring then s.wrongState h.slot h.gen
    else if occasionConfigOk c then
      let before := s.memory.writes.length
      (s.putOccasion h.slot (s.amendedOccasion o c)).answerAfterWrites before (reply .done h.slot h.gen)
    else s.badField h.slot h.gen

/-- R137. -/
def State.workSuspend (s : State) (h : Handle) : State :=
  s.withOccasion h fun o =>
    if o.state = .retiring then s.wrongState h.slot h.gen
    else
      let before := s.memory.writes.length
      (s.putOccasion h.slot { o with state := .suspended, due := none, waiting := false }).answerAfterWrites before
        (reply .done h.slot h.gen)

/-- R137: the state of a resumed occasion. -/
def State.resumedState (s : State) (o : Occasion) (due : Option Due) : OccasionState :=
  if o.context.isSome then .firing else if due.isSome ∨ !s.time.valid then .armed else .spent

/-- R137. -/
def State.workResume (s : State) (h : Handle) : State :=
  s.withOccasion h fun o =>
    if o.state = .suspended then
      let before := s.memory.writes.length
      let due := s.nextDue o.config o.lastFired
      (s.putOccasion h.slot { o with state := s.resumedState o due, due := due }).answerAfterWrites before
        (reply .done h.slot h.gen)
    else s.wrongState h.slot h.gen

/-- R138, R139: DONE says whether the occasion was freed (0) or is retiring (1). -/
def State.answerRetired (s : State) (before : Nat) (h : Handle) : State :=
  let s := s.settleContexts
  s.answerAfterWrites before (reply .done h.slot h.gen (u8 (if (s.findOccasion h).isSome then 1 else 0)))

/-- R138. -/
def State.workRetireGentle (s : State) (h : Handle) : State :=
  s.withOccasion h fun o =>
    let before := s.memory.writes.length
    if o.state = .retiring then s.wrongState h.slot h.gen
    else
      match o.context with
      | none => (s.freeOccasion h.slot).answerRetired before h
      | some i => (s.beginRetiring h.slot i o).answerRetired before h

/-- R139. -/
def State.workRetireAbrupt (s : State) (h : Handle) : State :=
  s.withOccasion h fun o =>
    let before := s.memory.writes.length
    match o.context with
    | none => ((s.removeCreatedBy h).freeOccasion h.slot).answerRetired before h
    | some i =>
      let s := s.beginRetiring h.slot i o
      let s := eachIndex 4 (fun place s => s.endActive i place) s
      (s.removeCreatedBy h).answerRetired before h

/-- R144. -/
def State.workAmendDusk (s : State) (line : Option Nat) (threshold confirm : Nat) : State :=
  if duskSettingsOk line threshold confirm then s.writeThenAnswer (.duskSettings line threshold confirm) (reply .done 0 0)
  else s.badField

/-- R144. -/
def State.workAmendDuskTable (s : State) (pairs : List (Nat × Nat)) : State :=
  if duskPairsOk pairs then s.writeThenAnswer (.duskTable pairs) (reply .done 0 0) else s.badField

/-! ## Floodlight Mixer (R148, R150, R164, R165, R168) -/

/-- Acts on the scene a handle names. -/
def State.withScene (s : State) (h : Handle) (act : Scene → State) : State :=
  if handleInRange h Config.scenes then
    match s.findScene h with
    | none => s.noRecord h.slot h.gen
    | some x => act x
  else s.badField h.slot h.gen

/-- R148. -/
def State.workAmendChannel (s : State) (i : Nat) (c : ChannelConfig) : State :=
  if i < Config.channels ∧ s.channelAmendOk i c then s.writeThenAnswer (.channel i c) (reply .done i 0) else s.badField i

/-- R150. -/
def State.workStoreScene (s : State) (c : SceneConfig) : State :=
  if sceneConfigOk c then
    match lowestFree s.mixer.scenes with
    | none => s.answer (reply .full 0 0)
    | some i =>
      let before := s.memory.writes.length
      let gen := nextGeneration (s.sceneSlot i).gen
      let s := (s.setSceneSlot i { gen := gen, record := some { config := c, state := .live } }).store (.scene i)
      s.answerAfterWrites before (reply .done i gen)
  else s.badField

/-- R164. -/
def State.workAmendScene (s : State) (h : Handle) (c : SceneConfig) : State :=
  s.withScene h fun x =>
    if x.state = .retiring then s.wrongState h.slot h.gen
    else if sceneConfigOk c then s.writeThenAnswer (.scene h c) (reply .done h.slot h.gen)
    else s.badField h.slot h.gen

/-- The scene has a layer. -/
def State.hasLayer (s : State) (h : Handle) : Bool := s.mixer.layers.any fun l => l.scene == h

/-- R165: freed is answered as 0, retiring as 1. -/
def State.workRetireScene (s : State) (h : Handle) : State :=
  s.withScene h fun x =>
    let before := s.memory.writes.length
    if x.state = .retiring then s.wrongState h.slot h.gen
    else if s.hasLayer h then
      let s := (s.setScene h.slot { x with state := .retiring }).store (.scene h.slot)
      ((s.removeStanding h).lowerScene h).answerAfterWrites before (reply .done h.slot h.gen (u8 1))
    else ((s.removeStanding h).freeScene h.slot).answerAfterWrites before (reply .done h.slot h.gen (u8 0))

/-- R168: DONE to a raise carries the layer's target and factor and the note, coded by the reasons and notes of section 11.5 (log
entry 56). -/
def State.raiseAnswer (s : State) (h : Handle) (note : Reason) : Response :=
  let fade := match s.mixer.layers.find? (fun l => l.scene = h) with
    | some l => u16 l.target ++ u16 l.f
    | none => u16 0 ++ u16 0
  reply .done h.slot h.gen (fade ++ u8 (reasonCode note))

/-- R162: the standing entry of a raise with a hold, and its note. DESIGN CHOICE: an end instant past 2199-12-31 23:59:59, of which
the range of R4 has none, is kept as the sum, beyond the range (log entry 70). -/
def State.holdScene (s : State) (h : Handle) (hold : Option Nat) : State × Reason :=
  match hold with
  | none => (s, .none)
  | some m =>
    match s.makeStanding h (s.time.standard + m * 60) .command with
    | (s', true) => (s', .none)
    | (s', false) => (s', .notStanding)

/-- R168. -/
def State.workRaiseScene (s : State) (h : Handle) (hold : Option Nat) : State :=
  if holdOk hold then
    s.withScene h fun _ =>
      let before := s.memory.writes.length
      match s.raiseScene h with
      | (s', .raised) =>
        let (s', note) := s'.holdScene h hold
        s'.answerAfterWrites before (s'.raiseAnswer h note)
      | (s', .full) => s'.answerAfterWrites before (reply .full h.slot h.gen)
      | (s', .notLive) => s'.answerAfterWrites before (reply .wrongState h.slot h.gen)
      | (s', .noRecord) => s'.answerAfterWrites before (reply .noRecord h.slot h.gen)
  else s.badField h.slot h.gen

/-- R168. -/
def State.workLowerScene (s : State) (h : Handle) : State :=
  s.withScene h fun _ =>
    let before := s.memory.writes.length
    (s.lowerAndRemove h).answerAfterWrites before (reply .done h.slot h.gen)

/-! ## Feeder Account (R170) -/

/-- R170. -/
def State.workAmendFeeder (s : State) (capacity : Nat) : State :=
  if capacityOk capacity then
    if capacity < s.loadSeen then s.wrongState
    else s.writeThenAnswer (.feeder capacity) (reply .done 0 0)
  else s.badField

/-! ## Command Link (R186, R187) -/

/-- R186: READ CONDITIONS. -/
def State.workReadConditions (s : State) : State :=
  let r := reply .done 0 0 s.conditionsReport
  let s : State :=
    { s with link.lastReport := s.link.flags, link.fresh := s.link.fresh &&& ~~~s.link.flags }
  s.answer r

/-- R186: ACKNOWLEDGE. -/
def State.workAcknowledge (s : State) (named : FlagSet) : State :=
  let flags := s.link.flags &&& ~~~(acknowledged named s.link.flags s.link.fresh s.link.lastReport)
  State.answer { s with link.flags := flags } (reply .done 0 0 (flagBytes flags))

/-! ## Reading (LOOK UP, LIST NEXT, READ STATE) -/

/-- DONE with a payload. -/
def State.answerWith (s : State) (payload : List Byte) (slot gen : Nat := 0) : State :=
  s.answer (reply .done slot gen payload)

/-- An answer about a record with an index (R184). -/
def State.answerIndex (s : State) (i bound : Nat) (payload : List Byte) : State :=
  if i < bound then s.answerWith payload i else s.badField i

/-- R88, R147, R169: the handle found, or NO RECORD. The handle is the payload; the header's slot and generation are 0 (log entry
23). -/
def State.answerNext (s : State) (h : Option Handle) : State :=
  match h with
  | some x => s.answerWith (handleBytes x)
  | none => s.noRecord

/-- R88: the handle is judged before the first step number (log entry 33), and a first step number outside 1 to 512 is BAD FIELD
(log entry 63). -/
def State.workLookUpTune (s : State) (h : Handle) (first : Option Nat) : State :=
  s.withTune h fun t =>
    if first.all fun n => 1 ≤ n && n ≤ Config.maxTuneSteps then s.answerWith (tuneLookUp t first) h.slot h.gen
    else s.badField h.slot h.gen

/-! ## Every request (R184) -/

/-- R184: the owner of a request works it. -/
def State.work (s : State) : Request → State
  | .setTime basis t => s.workSetTime basis t
  | .setDial i position => s.workSetDial i position
  | .swing i minutes => s.workSwing i minutes
  | .stopBell i => s.workStopBell i
  | .openTune label => s.workOpenTune label
  | .appendSteps h steps => s.workAppend h steps
  | .closeTune h => s.workCloseTune h
  | .retireTune h _ => s.workRetireTune h
  | .play h transposition repeats priority yields => s.workPlay h transposition repeats priority yields
  | .stopChimeEntry n => s.workStopEntry n
  | .toll bell interval blows velocity => s.workToll bell interval blows velocity
  | .stopTollChannel c => s.workStopToll c
  | .storeOccasion c => s.workStoreOccasion c
  | .suspend h => s.workSuspend h
  | .resume h => s.workResume h
  | .retireGentle h => s.workRetireGentle h
  | .retireAbrupt h => s.workRetireAbrupt h
  | .raiseScene h hold => s.workRaiseScene h hold
  | .lowerScene h => s.workLowerScene h
  | .storeScene c => s.workStoreScene c
  | .retireScene h _ => s.workRetireScene h
  | .readConditions => s.workReadConditions
  | .acknowledge named => s.workAcknowledge named
  | .restart => s.requestRestart
  | .amendTimeSettings x => s.workAmendTime x
  | .amendDial i a => s.workAmendDial i a
  | .amendLine i r => s.workAmendLine i r
  | .amendBell i c => s.workAmendBell i c
  | .amendTune h label => s.workAmendTune h label
  | .amendChimeMap pairs => s.workAmendMap pairs
  | .amendClockProgram c => s.workAmendProgram c
  | .amendOccasion h c => s.workAmendOccasion h c
  | .amendDuskSettings line threshold confirm => s.workAmendDusk line threshold confirm
  | .amendDuskTable pairs => s.workAmendDuskTable pairs
  | .amendChannel i c => s.workAmendChannel i c
  | .amendScene h c => s.workAmendScene h c
  | .amendFeeder capacity => s.workAmendFeeder capacity
  | .amendConditions e => s.writeThenAnswer (.conditions e) (reply .done 0 0)
  | .listNextTune after filter =>
    s.answerNext (nextSlot s.tunes.slots after fun t => filter.all (· == t.state))
  | .listNextOccasion after filter =>
    s.answerNext (nextSlot s.calendar.slots after fun o => filter.all (· == o.state))
  | .listNextScene after filter =>
    s.answerNext (nextSlot s.mixer.scenes after fun x => filter.all (· == x.state))
  | .lookUpTimeSettings => s.answerWith (timeSettingsBytes s.time.settings)
  | .lookUpDial i => s.answerIndex i Config.dials (dialBytes (s.dial i))
  | .lookUpLine i => s.answerIndex i Config.lines (lineBytes (s.line i).record)
  | .lookUpBell i => s.answerIndex i Config.bells (bellBytes (s.bell i).config)
  | .lookUpTune h first => s.workLookUpTune h first
  | .lookUpChimeMap => s.answerWith (s.tunes.chimeMap.toList.flatMap (optional u8))
  | .lookUpClockProgram => s.answerWith (clockConfigBytes s.program.config)
  | .lookUpOccasion h => s.withOccasion h fun o => s.answerWith (s.occasionLookUp o) h.slot h.gen
  | .lookUpDuskSettings => s.answerWith (duskSettingsBytes s.calendar.dusk)
  | .lookUpDuskTable => s.answerWith (s.calendar.duskTable.toList.flatMap u16)
  | .lookUpChannel i => s.answerIndex i Config.channels (channelBytes (s.channel i).config)
  | .lookUpScene h =>
    s.withScene h fun x => s.answerWith (sceneConfigBytes x.config ++ u8 (sceneStateCode x.state)) h.slot h.gen
  | .lookUpFeeder => s.answerWith (u16 s.feeder.capacity)
  | .lookUpConditions => s.answerWith (flagBytes s.link.enables)
  | .readStateDial i => s.answerIndex i Config.dials (s.dialReport i)
  | .readStateLine i => s.answerIndex i Config.lines (s.lineReport i)
  | .readStateBell i => s.answerIndex i Config.bells (s.bellReport i (s.strokeSeen i))
  | .readStateTune h => s.withTune h fun t => s.answerWith (u8 (tuneStateCode t.state) ++ u8 t.refs) h.slot h.gen
  | .readStateClockProgram => s.answerWith s.clockReport
  | .readStateOccasion h => s.withOccasion h fun o => s.answerWith (s.occasionReport o) h.slot h.gen
  | .readStateChannel i => s.answerIndex i Config.channels (s.channelReport i)
  | .readStateScene h => s.withScene h fun x => s.answerWith (s.sceneReport h x) h.slot h.gen
  | .readStateTimeBase => s.answerWith s.timeBaseState
  | .readStateTuneLibrary => s.answerWith s.tuneLibraryReport
  | .readStateChimeSequencer => s.answerWith s.chimeReport
  | .readStateOccasionCalendar => s.answerWith s.calendarReport
  | .readStateFloodlightMixer => s.answerWith s.mixerReport
  | .readStateFeederAccount => s.answerWith s.feederReport

/-! ## Taking a request (R180 to R182) -/

/-- R182, R184: what a taken frame asks for is answered or worked by its owner. -/
def State.workTask (s : State) : Task → State
  | .request r => s.work r
  | .refused status slot gen => s.answer (reply status slot gen)
  | .badSteps h => s.workBadSteps h

/-- R72, R170: what is read as a request is taken; the rest of it is read as it is worked (log entry 52). -/
def State.seenBy (s : State) : Task → Seen
  | .request (.readStateBell i) => .stroke (s.stroke i)
  | .request (.amendFeeder _) => .load s.feeder.load
  | _ => .nothing

/-- R182: a request taken is in progress from then; it waits for a write another block has in progress, else it is routed and
worked. -/
def State.takeTask (s : State) (t : Task) : State :=
  let progress (phase : RequestPhase) : InProgress := { task := t, phase := phase, taken := s.clock, seen := s.seenBy t }
  if s.memory.writes.isEmpty then State.workTask { s with link.inProgress := some (progress .working) } t
  else { s with link.inProgress := some (progress .awaitingWrite) }

/-- R182: a request that waited for a write is routed and worked. -/
def State.routeRequest (s : State) : State :=
  match s.link.inProgress with
  | none => s
  | some q => if q.phase = .ready then (s.setPhaseOfRequest .working).workTask q.task else s

/-- A host request as a whole link frame: the frame collects the waiting response, and its request is taken when the link is
OPEN and discarded when it is CLOSED. No frame is taken in RESERVE, or while SEL is asserted already (R179 to R182, log entry
4). -/
def State.hostRequest (s : State) (r : Request) : State :=
  if s.inMains ∧ s.link.sel = false then
    let s' : State := { s with link.waiting := none }
    if s.linkOpen then s'.takeTask (.request r) else s'
  else s

end Sys2Proof.Machine
end

