-- ==== Sys2Proof/Machine/Frames.lean ====
section
/-! DEFINITION. Link frames (R179 to R181) and the frame boundary of the mixer (R151, R159, R176). -/

namespace Sys2Proof.Machine

/-! ## Link frames -/

/-- R179, R180: SEL becomes asserted, and in MAINS a frame begins: it takes the waiting response and the link state it begins with.
In RESERVE the level alone is kept. -/
def State.beginFrame (s : State) : State :=
  if s.link.sel then s
  else
    let s : State := { s with link.sel := true }
    if s.inMains then
      { s with link.frame := some { openAtBegin := s.linkOpen, response := s.link.waiting }, link.waiting := none }
    else s

/-- Section 11.5: the output header of a status. -/
def headerBytes (status : Status) (isOpen attached : Bool) (slot gen length : Nat) : List Byte :=
  u8 (statusCode status) ++ u8 ((if isOpen then 1 else 0) + (if attached then 2 else 0)) ++ u8 slot ++ u8 gen ++ u16 length

/-- R180: what the link shifts out in a frame, before the bytes that read 0. -/
def LinkFrame.output (f : LinkFrame) : List Byte :=
  match f.response with
  | some r => headerBytes r.status f.openAtBegin true r.slot r.gen r.payload.length ++ r.payload
  | none => headerBytes (if f.openAtBegin then .idle else .busy) f.openAtBegin false 0 0 0

/-- R180: the byte the link shifts out at a place of a frame; those after the payload or the header read 0. -/
def LinkFrame.byteOut (f : LinkFrame) (n : Nat) : Byte := f.output.getD n 0#8

/-- R179: the bit the link shifts out at a place of a frame, most significant bit of each byte first. -/
def LinkFrame.bitOut (f : LinkFrame) (n : Nat) : Bool := (f.byteOut (n / 8)).getLsbD (7 - n % 8)

/-- R179: the level of SDO after `n` falling edges of SCK in a frame; none while SDO is released: outside a frame and in RESERVE. -/
def State.sdo (s : State) (n : Nat) : Option Bool :=
  if s.inMains ∧ s.link.sel then s.link.frame.map fun f => f.bitOut n else none

/-- R181: the judgement of the bytes of a frame that began OPEN. -/
def State.takeContent (s : State) (x : FrameContent) : State :=
  match x with
  | .nothing => s
  | .badFrame => { s with link.waiting := some (reply .badFrame 0 0) }
  | .taken t => s.takeTask t

/-- R179, R181: SEL is released after these bits of SDI, and the whole bytes shifted in are judged. -/
def State.endFrame (s : State) (bits : List Bool) : State :=
  match s.link.frame with
  | none => { s with link.sel := false }
  | some f =>
    let s : State := { s with link.sel := false, link.frame := none }
    if s.inMains ∧ f.openAtBegin then s.takeContent (decodeFrame (shiftedBytes bits)) else s

/-! ## Frame boundaries (R151) -/

/-- R151, R159, R175: the frame whose levels take effect is reported in effect, and its scale with it. -/
def State.reportInEffect (s : State) (k : Nat) : State :=
  match s.feeder.record with
  | some c => if c.frame = k then { s with feeder.scaleInEffect := c.scale } else s
  | none => s

/-- A frame boundary has come: 512 crystal counts have passed since the boundary before it. -/
def State.frameDue (s : State) : Bool := decide s.inMains && decide (s.mixer.frameMark < s.clock / Config.countsPerFrame)

/-- R151, R159, R176: the next frame takes effect, motors are given permission, and the frame after it is computed. -/
def State.beginMixerFrame (s : State) : State :=
  let k := s.mixer.nextFrame
  let s := (s.deliverFrame.reportInEffect k).givePermissions k
  let s : State :=
    { s with mixer.nextFrame := s.nextComputed, mixer.frameMark := s.clock / Config.countsPerFrame }
  s.computeFrame s.mixer.nextFrame

/-- R151: the mixer computes frames while the power state is MAINS. -/
def State.passBoundary (s : State) : State := if s.frameDue then s.beginMixerFrame else s

end Sys2Proof.Machine
end

