-- ==== Sys2Proof/Machine/BellCommands.lean ====
section
/-! DEFINITION. The commands of the Field Line Table and the Bell Monitor (chapter 3). -/

namespace Sys2Proof.Machine

/-- PIN_LEVEL_CHANGE (R40). An input pin changes level and its filter time begins, or with filter 0 the filtered state changes
at once. -/
def execPinLevelChange (dt : Nat) (line : Nat) (high : Bool) (reading : Nat) (s : State) : Result :=
  happenAt dt line Config.lines (fun s => s.changePin line high reading) s

/-- INPUT_FILTER_EXPIRY (R40). A new pin level has held for the filter time and is taken into the filtered state as an edge. -/
def execInputFilterExpiry (dt : Nat) (line : Nat) (s : State) : Result :=
  happenAt dt line Config.lines (fun s => if s.filterReady line then s.takeEdge line else s) s

/-- QUIET_TIMER_EXPIRY (R48). The quiet timer of a SWINGING bell expires, and the bell goes to UP or SETTLING. -/
def execQuietTimerExpiry (dt : Nat) (bell : Nat) (s : State) : Result :=
  happenAt dt bell Config.bells (fun s => s.whenMains fun s => (s.expireQuiet bell).settleContexts) s

/-- SETTLE_TIME_EXPIRY (R49). At a SECOND the settle test of a SETTLING or UNKNOWN bell passes, and the bell becomes AT REST. -/
def execSettleTimeExpiry (dt : Nat) (bell : Nat) (s : State) : Result :=
  happenAt dt bell Config.bells (fun s => s.whenMains fun s => s.settleBell bell) s

/-- SWING (R51). The SWING command makes a swing request that is refused, starts a run or extends one. -/
def execSwing (dt : Nat) (bell minutes : Nat) (s : State) : Result :=
  happen dt (fun s => s.hostRequest (.swing bell minutes)) s

/-- PENDING_TIMEOUT (R53). A run not admitted 120 s after pending since is abandoned, and its sources receive REFUSED FEEDER. -/
def execPendingTimeout (dt : Nat) (bell : Nat) (s : State) : Result :=
  happenAt dt bell Config.bells (fun s => s.whenMains fun s => (s.timeOutPending bell).settleContexts) s

/-- RUN_END (R54). A running motor reaches its end, is stopped, and every source receives DONE. -/
def execRunEnd (dt : Nat) (bell : Nat) (s : State) : Result :=
  happenAt dt bell Config.bells (fun s => s.whenMains fun s => (s.reachRunEnd bell).settleContexts) s

/-- STALL_WATCH_EXPIRY (R55). 20 s pass from energising without a swing pulse, and the motor is stopped as stalled. -/
def execStallWatchExpiry (dt : Nat) (bell : Nat) (s : State) : Result :=
  happenAt dt bell Config.bells (fun s => s.whenMains fun s => (s.watchStall bell).settleContexts) s

/-- STOP_BELL (R54). STOP naming a bell ends its motor run, and its sources receive STOPPED. -/
def execStopBell (dt : Nat) (bell : Nat) (s : State) : Result :=
  happen dt (fun s => s.hostRequest (.stopBell bell)) s

/-- AMEND_LINE (R37). AMEND of a line checks function, binding, service and motor count and stores the line record. -/
def execAmendLine (dt : Nat) (line : Nat) (record : LineRecord) (s : State) : Result :=
  happen dt (fun s => s.hostRequest (.amendLine line record)) s

/-- AMEND_BELL (R44). AMEND of a bell checks and stores it and applies its effects on the swing state, motor and stroke
machine. -/
def execAmendBell (dt : Nat) (bell : Nat) (config : BellConfig) (s : State) : Result :=
  happen dt (fun s => s.hostRequest (.amendBell bell config)) s

/-- LOOK_UP_LINE (R43). LOOK UP returns a line's stored record. -/
def execLookUpLine (dt : Nat) (line : Nat) (s : State) : Result :=
  happen dt (fun s => s.hostRequest (.lookUpLine line)) s

/-- LOOK_UP_BELL (R57). LOOK UP returns a bell's stored configuration. -/
def execLookUpBell (dt : Nat) (bell : Nat) (s : State) : Result :=
  happen dt (fun s => s.hostRequest (.lookUpBell bell)) s

/-- READ_STATE_LINE (R43). READ STATE returns a line's live state. -/
def execReadStateLine (dt : Nat) (line : Nat) (s : State) : Result :=
  happen dt (fun s => s.hostRequest (.readStateLine line)) s

/-- READ_STATE_BELL (R57). READ STATE returns a bell's swing, hammer and motor state. -/
def execReadStateBell (dt : Nat) (bell : Nat) (s : State) : Result :=
  happen dt (fun s => s.hostRequest (.readStateBell bell)) s

end Sys2Proof.Machine
end

