-- ==== Sys2Proof/Machine/CalendarCommands.lean ====
section
/-! DEFINITION. The commands of the Occasion Calendar (chapter 8). -/

namespace Sys2Proof.Machine

/-- DUE_REACHED (R129). An occasion's next due is reached, and it fires, waits for a context, or is MISSED. -/
def execDueReached (dt : Nat) (s : State) : Result :=
  happen dt (fun s => s.whenMains fun s => s.reachFirst.settleContexts) s

/-- GRACE_EXPIRY (R129). A waiting occasion's grace passes at a SECOND, and the firing is MISSED. -/
def execGraceExpiry (dt : Nat) (s : State) : Result :=
  happen dt (fun s => s.whenMains fun s => s.expireGrace.settleContexts) s

/-- ACTION_START (R132). A WAITING action reaches its start instant and starts in its owning block or is refused. -/
def execActionStart (dt : Nat) (context : Nat) (s : State) : Result :=
  happenAt dt context Config.contexts (fun s => s.whenMains fun s => (s.startFirstDue context).settleContexts) s

/-- STORE_OCCASION (R123). STORE of an occasion checks and stores it in the lowest free slot, ARMED with its next due. -/
def execStoreOccasion (dt : Nat) (config : OccasionConfig) (s : State) : Result :=
  happen dt (fun s => s.hostRequest (.storeOccasion config)) s

/-- SUSPEND (R137). SUSPEND makes an occasion SUSPENDED and removes it from the due list. -/
def execSuspend (dt : Nat) (occasion : Handle) (s : State) : Result :=
  happen dt (fun s => s.hostRequest (.suspend occasion)) s

/-- RESUME (R137). RESUME recomputes a SUSPENDED occasion's next due and makes it FIRING, ARMED or SPENT. -/
def execResume (dt : Nat) (occasion : Handle) (s : State) : Result :=
  happen dt (fun s => s.hostRequest (.resume occasion)) s

/-- RETIRE_GENTLE (R138). RETIRE GENTLE frees an occasion or makes it RETIRING, cancelling its WAITING actions. -/
def execRetireGentle (dt : Nat) (occasion : Handle) (s : State) : Result :=
  happen dt (fun s => s.hostRequest (.retireGentle occasion)) s

/-- RETIRE_ABRUPT (R139). RETIRE ABRUPT retires an occasion gently and also stops its work and removes its standing entries. -/
def execRetireAbrupt (dt : Nat) (occasion : Handle) (s : State) : Result :=
  happen dt (fun s => s.hostRequest (.retireAbrupt occasion)) s

/-- DUSK_CONFIRMED (R142). A long enough dark run within T minus 60 minutes to T confirms dusk and moves today's DUSK dues
earlier. -/
def execDuskConfirmed (dt : Nat) (s : State) : Result :=
  happen dt (fun s => s.whenMains fun s => if s.duskConfirms then s.confirmDusk.settleContexts else s) s

/-- SENSOR_FAULT (R143). The mean stays at 0 or 1023 for 10 minutes, sensor fault is set and written, and SENSOR FAULT is
raised. -/
def execSensorFault (dt : Nat) (s : State) : Result :=
  happen dt (fun s => s.whenMains fun s => if s.sensorFails then s.faultSensor else s) s

/-- AMEND_OCCASION (R124). AMEND of an occasion stores new fields and recomputes its next due by state. -/
def execAmendOccasion (dt : Nat) (occasion : Handle) (config : OccasionConfig) (s : State) : Result :=
  happen dt (fun s => s.hostRequest (.amendOccasion occasion config)) s

/-- AMEND_DUSK_SETTINGS (R144). AMEND of the dusk settings stores them, clears sensor fault and recomputes DUSK dues. -/
def execAmendDuskSettings (dt : Nat) (line : Option Nat) (threshold confirm : Nat) (s : State) : Result :=
  happen dt (fun s => s.hostRequest (.amendDuskSettings line threshold confirm)) s

/-- AMEND_DUSK_TABLE (R144). AMEND of the Dusk Table stores the named weeks and recomputes DUSK dues. -/
def execAmendDuskTable (dt : Nat) (pairs : List (Nat × Nat)) (s : State) : Result :=
  happen dt (fun s => s.hostRequest (.amendDuskTable pairs)) s

/-- LIST_NEXT_OCCASION (R147). LIST NEXT for occasions returns the next occupied slot passing the filter. -/
def execListNextOccasion (dt : Nat) (after : Option Nat) (filter : Option OccasionState) (s : State) : Result :=
  happen dt (fun s => s.hostRequest (.listNextOccasion after filter)) s

/-- LOOK_UP_OCCASION (R147). LOOK UP returns an occasion's whole record. -/
def execLookUpOccasion (dt : Nat) (occasion : Handle) (s : State) : Result :=
  happen dt (fun s => s.hostRequest (.lookUpOccasion occasion)) s

/-- LOOK_UP_DUSK_SETTINGS (R147). LOOK UP returns the dusk settings. -/
def execLookUpDuskSettings (dt : Nat) (s : State) : Result :=
  happen dt (fun s => s.hostRequest .lookUpDuskSettings) s

/-- LOOK_UP_DUSK_TABLE (R147). LOOK UP returns the 53 Dusk Table entries. -/
def execLookUpDuskTable (dt : Nat) (s : State) : Result :=
  happen dt (fun s => s.hostRequest .lookUpDuskTable) s

/-- READ_STATE_OCCASION (R147). READ STATE returns an occasion's live state. -/
def execReadStateOccasion (dt : Nat) (occasion : Handle) (s : State) : Result :=
  happen dt (fun s => s.hostRequest (.readStateOccasion occasion)) s

/-- READ_STATE_OCCASION_CALENDAR (R147). READ STATE returns the calendar's slots, contexts, due list and dusk state. -/
def execReadStateOccasionCalendar (dt : Nat) (s : State) : Result :=
  happen dt (fun s => s.hostRequest .readStateOccasionCalendar) s

end Sys2Proof.Machine
end

