-- ==== Sys2Proof/Machine/ChimeCommands.lean ====
section
/-! DEFINITION. The commands of the Chime Sequencer and of the Clock Program (chapters 6 and 7). -/

namespace Sys2Proof.Machine

/-- PLAY (R111). The PLAY command offers a COMMAND entry to the Chime Sequencer. -/
def execPlay (dt : Nat) (tune : Handle) (transposition : Int) (repeats priority : Nat) (yields : Bool) (s : State) : Result :=
  happen dt (fun s => s.hostRequest (.play tune transposition repeats priority yields)) s

/-- STEP_BOUNDARY (R96). At a step boundary the performance settles a stop or pre-emption, or walks to its next timed step. -/
def execStepBoundary (dt : Nat) (s : State) : Result :=
  happen dt (fun s => s.whenMains State.reachBoundary) s

/-- BLOW_REQUEST_MOMENT (R101). At a scheduled blow's request moment the blow is skipped for a toll claim or requested from
the Hammer Drive. -/
def execBlowRequestMoment (dt : Nat) (s : State) : Result :=
  happen dt (fun s => s.whenMains State.requestBlow) s

/-- END_MOMENT (R102). A FINISHING performance ends and reports DONE or STOPPED or is re-queued, and the queue head is
dequeued. -/
def execEndMoment (dt : Nat) (s : State) : Result :=
  happen dt (fun s => s.whenMains fun s => s.reachEnd.settleContexts) s

/-- STOP_CHIME_ENTRY (R106). STOP naming a chime entry removes it from the queue or sets stop pending on its performance. -/
def execStopChimeEntry (dt : Nat) (entry : Nat) (s : State) : Result :=
  happen dt (fun s => s.hostRequest (.stopChimeEntry entry)) s

/-- TOLL (R107). A TOLL command claims a bell on the lower free toll channel or is refused BUSY. -/
def execToll (dt : Nat) (bell interval blows velocity : Nat) (s : State) : Result :=
  happen dt (fun s => s.hostRequest (.toll bell interval blows velocity)) s

/-- TOLL_TAKE_UP (R108). At a toll blow's take-up moment blows left falls and the blow is scheduled. -/
def execTollTakeUp (dt : Nat) (channel : Nat) (s : State) : Result :=
  happenAt dt channel Config.tolls (fun s => s.whenMains fun s => s.takeUpToll channel) s

/-- TOLL_REQUEST_MOMENT (R108). At a toll blow's request moment the channel makes a strike request. -/
def execTollRequestMoment (dt : Nat) (channel : Nat) (s : State) : Result :=
  happenAt dt channel Config.tolls (fun s => s.whenMains fun s => s.requestToll channel) s

/-- TOLL_END (R109). A toll channel reaches its end, releases its claim and reports DONE. -/
def execTollEnd (dt : Nat) (channel : Nat) (s : State) : Result :=
  happenAt dt channel Config.tolls (fun s => s.whenMains fun s => (s.reachTollEnd channel).settleContexts) s

/-- STOP_TOLL_CHANNEL (R109). STOP naming a toll channel ends it at once and reports STOPPED. -/
def execStopTollChannel (dt : Nat) (channel : Nat) (s : State) : Result :=
  happen dt (fun s => s.hostRequest (.stopTollChannel channel)) s

/-- READ_STATE_CHIME_SEQUENCER (R111). READ STATE returns the queue, the performance, the tolls and the last command outcome. -/
def execReadStateChimeSequencer (dt : Nat) (s : State) : Result :=
  happen dt (fun s => s.hostRequest .readStateChimeSequencer) s

/-- AMEND_CLOCK_PROGRAM (R112). AMEND of the clock program checks and stores the record. -/
def execAmendClockProgram (dt : Nat) (config : ClockConfig) (s : State) : Result :=
  happen dt (fun s => s.hostRequest (.amendClockProgram config)) s

/-- LOOK_UP_CLOCK_PROGRAM (R122). LOOK UP returns the clock program record. -/
def execLookUpClockProgram (dt : Nat) (s : State) : Result :=
  happen dt (fun s => s.hostRequest .lookUpClockProgram) s

/-- READ_STATE_CLOCK_PROGRAM (R122). READ STATE returns the Clock Program's working state. -/
def execReadStateClockProgram (dt : Nat) (s : State) : Result :=
  happen dt (fun s => s.hostRequest .readStateClockProgram) s

end Sys2Proof.Machine
end

