-- ==== Sys2Proof/Machine/DialCommands.lean ====
section
/-! DEFINITION. The commands of the Dial Drive (chapter 2). -/

namespace Sys2Proof.Machine

/-- REST_RULE_EXPIRY (R27). The catch-up spacing has passed since the last impulse start, and a held-back impulse starts. -/
def execRestRuleExpiry (dt : Nat) (dial : Nat) (s : State) : Result :=
  happenAt dt dial Config.dials (fun s => s.whenMains fun s => s.tryImpulse dial) s

/-- IMPULSE_END (R29). The impulse width passes, the impulse is delivered, and the position advances and the polarity flips. -/
def execImpulseEnd (dt : Nat) (dial : Nat) (s : State) : Result :=
  happenAt dt dial Config.dials (fun s => s.whenMains fun s => s.endImpulse dial) s

/-- NO_CURRENT (R30). 50 ms pass without sense current, the impulse fails, the dial enters FAULT and DIAL FAULT is raised. -/
def execNoCurrent (dt : Nat) (dial : Nat) (s : State) : Result :=
  happenAt dt dial Config.dials (fun s => s.whenMains fun s => s.missCurrent dial) s

/-- DEFERRED_RECONCILIATION (R24). An owed reconciliation is made once the impulse has ended and its delivery has been
settled. -/
def execDeferredReconciliation (dt : Nat) (dial : Nat) (s : State) : Result :=
  happenAt dt dial Config.dials (fun s => s.whenMains fun s => s.settleOwed dial) s

/-- DEFERRED_DIAL_AMEND (R20). A dial AMEND that waited for an impulse proceeds once the impulse has been settled. -/
def execDeferredDialAmend (dt : Nat) (s : State) : Result :=
  happen dt (fun s => s.whenMains State.resumeAmendDial) s

/-- DEFERRED_SET_DIAL (R32). A SET DIAL that waited for an impulse writes its position once the impulse has been settled. -/
def execDeferredSetDial (dt : Nat) (s : State) : Result :=
  happen dt (fun s => s.whenMains State.resumeSetDial) s

/-- SET_DIAL (R32). The SET DIAL command writes a dial's position, clears doubt and the fault reason, and reconciles the dial. -/
def execSetDial (dt : Nat) (dial position : Nat) (s : State) : Result :=
  happen dt (fun s => s.hostRequest (.setDial dial position)) s

/-- AMEND_DIAL (R20). AMEND of a dial checks and stores it, clamps the catch-up spacing and applies the service change. -/
def execAmendDial (dt : Nat) (dial : Nat) (amend : DialAmend) (s : State) : Result :=
  happen dt (fun s => s.hostRequest (.amendDial dial amend)) s

/-- LOOK_UP_DIAL (R36). LOOK UP returns a dial's stored record. -/
def execLookUpDial (dt : Nat) (dial : Nat) (s : State) : Result :=
  happen dt (fun s => s.hostRequest (.lookUpDial dial)) s

/-- READ_STATE_DIAL (R36). READ STATE returns a dial's live state. -/
def execReadStateDial (dt : Nat) (dial : Nat) (s : State) : Result :=
  happen dt (fun s => s.hostRequest (.readStateDial dial)) s

end Sys2Proof.Machine
end

