-- ==== Sys2Proof/Machine/HammerCommands.lean ====
section
/-! DEFINITION. The commands of the Hammer Drive (chapter 4). -/

namespace Sys2Proof.Machine

/-- RAISE_MOMENT (R60). At the raise moment the strike line rises if the bell is AT REST with its hammer in service, and
otherwise the blow is LOCKED. -/
def execRaiseMoment (dt : Nat) (bell : Nat) (s : State) : Result :=
  happenAt dt bell Config.bells (fun s => s.whenMains fun s => s.reachRaise bell) s

/-- PULSE_END (R61). The captured pulse width passes and the strike line is released, ending a feedback-NONE stroke. -/
def execPulseEnd (dt : Nat) (bell : Nat) (s : State) : Result :=
  happenAt dt bell Config.bells (fun s => s.whenMains fun s => s.endPulse bell) s

/-- NO_ANSWER (R62). 50 ms pass from the raise without a BUSY answer, and fault NO ANSWER is declared. -/
def execNoAnswer (dt : Nat) (bell : Nat) (s : State) : Result :=
  happenAt dt bell Config.bells (fun s => s.whenMains fun s => s.missAnswer bell) s

/-- STUCK (R63). BUSY is still active 400 ms after the raise, and fault STUCK is declared. -/
def execStuck (dt : Nat) (bell : Nat) (s : State) : Result :=
  happenAt dt bell Config.bells (fun s => s.whenMains fun s => s.stickHammer bell) s

/-- RECOVERY_END (R64). The recovery end is reached and the stroke machine enters IDLE. -/
def execRecoveryEnd (dt : Nat) (bell : Nat) (s : State) : Result :=
  happenAt dt bell Config.bells (fun s => s.whenMains fun s => s.endRecovery bell) s

/-- RSTN_ASSERTED (R69). RSTN is asserted in MAINS and requests a RESTART, opening a hold at the restart gate. -/
def execRstnAsserted (dt : Nat) (s : State) : Result :=
  happen dt State.assertRstn s

/-- RSTN_RELEASED (R70). RSTN is released, allowing a held reset to take place. -/
def execRstnReleased (dt : Nat) (s : State) : Result :=
  happen dt State.releaseRstn s

/-- RESTART_RESET (R71). The gate opens once no stroke or impulse is under way and RSTN is inactive, and every block but the
Time Base takes its RESTART values. -/
def execRestartReset (dt : Nat) (s : State) : Result :=
  happen dt State.restartIfOpen s

end Sys2Proof.Machine
end

