-- ==== Sys2Proof/Machine/LinkCommands.lean ====
section
/-! DEFINITION. The commands of the Command Link and of record memory (chapter 11). -/

namespace Sys2Proof.Machine

/-- FRAME_BEGIN (R180). SEL is asserted, and the link attaches the waiting response or an IDLE or BUSY header. -/
def execFrameBegin (dt : Nat) (s : State) : Result :=
  happen dt State.beginFrame s

/-- FRAME_END (R181). SEL is released, and the bytes shifted in are judged as no request, BAD FRAME, not taken, or a request
taken. -/
def execFrameEnd (dt : Nat) (bits : List Bool) (s : State) : Result :=
  happen dt (fun s => s.endFrame bits) s

/-- REQUEST_ROUTED (R182). A taken request that waited for another block's write is routed to its owner when that write ends. -/
def execRequestRouted (dt : Nat) (s : State) : Result :=
  happen dt (fun s => s.whenMains State.routeRequest) s

/-- RECORD_MEMORY_WRITE_END (R183). A record memory write ends, its owner acts on its end, the next waiting write begins, and
a response may become waiting. -/
def execRecordMemoryWriteEnd (dt : Nat) (s : State) : Result :=
  happen dt State.endWrite s

/-- READ_CONDITIONS (R186). READ CONDITIONS reports flags, enables and fresh marks, sets the last report set and clears the
fresh marks. -/
def execReadConditions (dt : Nat) (s : State) : Result :=
  happen dt (fun s => s.hostRequest .readConditions) s

/-- ACKNOWLEDGE (R186). ACKNOWLEDGE clears named flags that were reported and are not fresh. -/
def execAcknowledge (dt : Nat) (named : FlagSet) (s : State) : Result :=
  happen dt (fun s => s.hostRequest (.acknowledge named)) s

/-- RESTART (R187). The RESTART command requests a RESTART and stays in progress through the hold. -/
def execRestart (dt : Nat) (s : State) : Result :=
  happen dt (fun s => s.hostRequest .restart) s

/-- AMEND_CONDITIONS (R186). AMEND of class CONDITIONS stores the 12 enables. -/
def execAmendConditions (dt : Nat) (enables : FlagSet) (s : State) : Result :=
  happen dt (fun s => s.hostRequest (.amendConditions enables)) s

/-- LOOK_UP_CONDITIONS (R186). LOOK UP returns the condition enables. -/
def execLookUpConditions (dt : Nat) (s : State) : Result :=
  happen dt (fun s => s.hostRequest .lookUpConditions) s

end Sys2Proof.Machine
end

