-- ==== Sys2Proof/Machine/MixerCommands.lean ====
section
/-! DEFINITION. The commands of the Floodlight Mixer and of the Feeder Account (chapters 9 and 10). -/

namespace Sys2Proof.Machine

/-- FRAME_BOUNDARY (R151). At a frame boundary the levels of the new frame take effect on the LAMP lines and the next frame is
computed. -/
def execFrameBoundary (dt : Nat) (s : State) : Result :=
  happen dt State.passBoundary s

/-- RAISE_SCENE (R168). RAISE SCENE raises a scene, with an optional hold making a standing entry. -/
def execRaiseScene (dt : Nat) (scene : Handle) (hold : Option Nat) (s : State) : Result :=
  happen dt (fun s => s.hostRequest (.raiseScene scene hold)) s

/-- LOWER_SCENE (R168). LOWER SCENE lowers a scene and removes its standing entry. -/
def execLowerScene (dt : Nat) (scene : Handle) (s : State) : Result :=
  happen dt (fun s => s.hostRequest (.lowerScene scene)) s

/-- STANDING_ENTRY_END (R163). A standing entry's end instant is reached, the entry is removed and its scene is lowered. -/
def execStandingEntryEnd (dt : Nat) (s : State) : Result :=
  happen dt (fun s => s.whenMains State.endFirstStanding) s

/-- STORE_SCENE (R150). STORE of a scene checks it and stores it LIVE in the lowest free slot. -/
def execStoreScene (dt : Nat) (config : SceneConfig) (s : State) : Result :=
  happen dt (fun s => s.hostRequest (.storeScene config)) s

/-- RETIRE_SCENE (R165). RETIRE of a scene frees it or makes it RETIRING and lowers its layer. -/
def execRetireScene (dt : Nat) (scene : Handle) (mode : RetireMode) (s : State) : Result :=
  happen dt (fun s => s.hostRequest (.retireScene scene mode)) s

/-- AMEND_CHANNEL (R148). AMEND of a channel checks and stores it and applies its service change. -/
def execAmendChannel (dt : Nat) (channel : Nat) (config : ChannelConfig) (s : State) : Result :=
  happen dt (fun s => s.hostRequest (.amendChannel channel config)) s

/-- AMEND_SCENE (R164). AMEND of a scene stores its fields and applies them to its layer. -/
def execAmendScene (dt : Nat) (scene : Handle) (config : SceneConfig) (s : State) : Result :=
  happen dt (fun s => s.hostRequest (.amendScene scene config)) s

/-- LIST_NEXT_SCENE (R169). LIST NEXT for scenes returns the next occupied slot passing the filter. -/
def execListNextScene (dt : Nat) (after : Option Nat) (filter : Option SceneState) (s : State) : Result :=
  happen dt (fun s => s.hostRequest (.listNextScene after filter)) s

/-- LOOK_UP_CHANNEL (R169). LOOK UP returns a channel's stored record. -/
def execLookUpChannel (dt : Nat) (channel : Nat) (s : State) : Result :=
  happen dt (fun s => s.hostRequest (.lookUpChannel channel)) s

/-- LOOK_UP_SCENE (R169). LOOK UP returns a scene's stored record. -/
def execLookUpScene (dt : Nat) (scene : Handle) (s : State) : Result :=
  happen dt (fun s => s.hostRequest (.lookUpScene scene)) s

/-- READ_STATE_CHANNEL (R169). READ STATE returns a channel's levels and line state. -/
def execReadStateChannel (dt : Nat) (channel : Nat) (s : State) : Result :=
  happen dt (fun s => s.hostRequest (.readStateChannel channel)) s

/-- READ_STATE_SCENE (R169). READ STATE returns a scene's state, layer and standing entry. -/
def execReadStateScene (dt : Nat) (scene : Handle) (s : State) : Result :=
  happen dt (fun s => s.hostRequest (.readStateScene scene)) s

/-- READ_STATE_FLOODLIGHT_MIXER (R169). READ STATE returns the layers, the standing list, the scale and free scene slots. -/
def execReadStateFloodlightMixer (dt : Nat) (s : State) : Result :=
  happen dt (fun s => s.hostRequest .readStateFloodlightMixer) s

/-- AMEND_FEEDER (R170). AMEND of the feeder record checks the capacity against M and stores it. -/
def execAmendFeeder (dt : Nat) (capacity : Nat) (s : State) : Result :=
  happen dt (fun s => s.hostRequest (.amendFeeder capacity)) s

/-- LOOK_UP_FEEDER (R178). LOOK UP returns the stored capacity. -/
def execLookUpFeeder (dt : Nat) (s : State) : Result :=
  happen dt (fun s => s.hostRequest .lookUpFeeder) s

/-- READ_STATE_FEEDER_ACCOUNT (R178). READ STATE returns the capacity, load, scale, computation record, asks and admitted
runs. -/
def execReadStateFeederAccount (dt : Nat) (s : State) : Result :=
  happen dt (fun s => s.hostRequest .readStateFeederAccount) s

end Sys2Proof.Machine
end

