-- ==== Sys2Proof/Machine/TimeCommands.lean ====
section
/-! DEFINITION. The commands of the Time Base (chapter 1). -/

namespace Sys2Proof.Machine

/-- SECOND_END (R1). The prescaler reaches the length of the current second, the second is counted and the standard date and
time advance by one second. -/
def execSecondEnd (dt : Nat) (s : State) : Result :=
  happen dt State.endSecond s

/-- SMARK_EDGE (R3). A rising edge on SMARK with the mark input enabled restarts the second, ends it early, or is ignored, by
the prescaler reading. -/
def execSmarkEdge (dt : Nat) (s : State) : Result :=
  happen dt State.alignToMark s

/-- SET_TIME (R10). The SET TIME command is checked, its standard instant is found, and it either takes effect at once or
begins to wait for a mark. -/
def execSetTime (dt : Nat) (basis : TimeBasis) (at_ : DateTime) (s : State) : Result :=
  happen dt (fun s => s.hostRequest (.setTime basis at_)) s

/-- SET_TIME_AT_MARK_EDGE (R11). A waiting SET TIME takes effect at the next SMARK edge. -/
def execSetTimeAtMarkEdge (dt : Nat) (s : State) : Result :=
  happen dt (fun s => s.whenMains State.setTimeAtEdge) s

/-- SET_TIME_MARK_TIMEOUT (R11). A waiting SET TIME takes effect when 2 s pass with no mark edge. -/
def execSetTimeMarkTimeout (dt : Nat) (s : State) : Result :=
  happen dt (fun s => s.whenMains State.setTimeAtTimeout) s

/-- RESERVE_ENTRY (R15). MSENSE goes inactive in MAINS, the power state becomes RESERVE, every output is released and RESERVE
ENTRY is announced. -/
def execReserveEntry (dt : Nat) (s : State) : Result :=
  happen dt State.loseMains s

/-- MSENSE_QUALIFICATION_START (R16). MSENSE goes active in RESERVE and a 2 s qualification time starts. -/
def execMsenseQualificationStart (dt : Nat) (s : State) : Result :=
  happen dt State.beginQualification s

/-- MSENSE_QUALIFICATION_CANCEL (R16). MSENSE goes inactive before the qualification has run, and the qualification is
cancelled. -/
def execMsenseQualificationCancel (dt : Nat) (s : State) : Result :=
  happen dt State.cancelQualification s

/-- MSENSE_QUALIFICATION_EXPIRY (R16). MSENSE has stayed active for 2 s, and the power state becomes MAINS. -/
def execMsenseQualificationExpiry (dt : Nat) (s : State) : Result :=
  happen dt State.completeQualification s

/-- COUNTING_DOMAIN_POWER_UP (R17). The counting domain powers up after total loss, takes its cold-start values, raises TIME
INVALID and marks a cold start pending. -/
def execCountingDomainPowerUp (dt : Nat) (s : State) : Result :=
  happen dt State.powerUpCold s

/-- AMEND_TIME_SETTINGS (R6). AMEND of the time settings checks the summer rule, clamps the trim and stores the record. -/
def execAmendTimeSettings (dt : Nat) (settings : TimeSettings) (s : State) : Result :=
  happen dt (fun s => s.hostRequest (.amendTimeSettings settings)) s

/-- LOOK_UP_TIME_SETTINGS (R19). LOOK UP returns the stored trim, mark input enable and summer rule. -/
def execLookUpTimeSettings (dt : Nat) (s : State) : Result :=
  happen dt (fun s => s.hostRequest .lookUpTimeSettings) s

/-- READ_STATE_TIME_BASE (R19). READ STATE returns the Time Base's time and settings state. -/
def execReadStateTimeBase (dt : Nat) (s : State) : Result :=
  happen dt (fun s => s.hostRequest .readStateTimeBase) s

end Sys2Proof.Machine
end

