-- ==== Sys2Proof/Machine/TuneCommands.lean ====
section
/-! DEFINITION. The commands of the Tune Library (chapter 5). -/

namespace Sys2Proof.Machine

/-- OPEN_TUNE (R74). OPEN TUNE takes the lowest free tune slot, advances its generation and creates an empty DRAFT. -/
def execOpenTune (dt : Nat) (label : Label) (s : State) : Result :=
  happen dt (fun s => s.hostRequest (.openTune label)) s

/-- APPEND_STEPS (R76). APPEND STEPS checks a batch of steps and links it to a DRAFT tune from the pool. -/
def execAppendSteps (dt : Nat) (tune : Handle) (steps : List Step) (s : State) : Result :=
  happen dt (fun s => s.hostRequest (.appendSteps tune steps)) s

/-- CLOSE_TUNE (R78). CLOSE TUNE makes a DRAFT with at least one step LIVE. -/
def execCloseTune (dt : Nat) (tune : Handle) (s : State) : Result :=
  happen dt (fun s => s.hostRequest (.closeTune tune)) s

/-- RETIRE_TUNE (R80). RETIRE of a tune frees it, or makes it RETIRING while it is referenced. -/
def execRetireTune (dt : Nat) (tune : Handle) (mode : RetireMode) (s : State) : Result :=
  happen dt (fun s => s.hostRequest (.retireTune tune mode)) s

/-- AMEND_TUNE (R79). AMEND of a tune changes its label. -/
def execAmendTune (dt : Nat) (tune : Handle) (label : Label) (s : State) : Result :=
  happen dt (fun s => s.hostRequest (.amendTune tune label)) s

/-- AMEND_CHIME_MAP (R85). AMEND of the Chime Map sets the named degrees. -/
def execAmendChimeMap (dt : Nat) (pairs : List (Nat × Option Nat)) (s : State) : Result :=
  happen dt (fun s => s.hostRequest (.amendChimeMap pairs)) s

/-- LIST_NEXT_TUNE (R88). LIST NEXT for tunes returns the next occupied slot passing the filter. -/
def execListNextTune (dt : Nat) (after : Option Nat) (filter : Option TuneState) (s : State) : Result :=
  happen dt (fun s => s.hostRequest (.listNextTune after filter)) s

/-- LOOK_UP_TUNE (R88). LOOK UP returns a tune's fields and up to 32 steps. -/
def execLookUpTune (dt : Nat) (tune : Handle) (first : Option Nat) (s : State) : Result :=
  happen dt (fun s => s.hostRequest (.lookUpTune tune first)) s

/-- LOOK_UP_CHIME_MAP (R85). LOOK UP returns all 32 Chime Map entries. -/
def execLookUpChimeMap (dt : Nat) (s : State) : Result :=
  happen dt (fun s => s.hostRequest .lookUpChimeMap) s

/-- READ_STATE_TUNE (R88). READ STATE returns a tune's state and reference count. -/
def execReadStateTune (dt : Nat) (tune : Handle) (s : State) : Result :=
  happen dt (fun s => s.hostRequest (.readStateTune tune)) s

/-- READ_STATE_TUNE_LIBRARY (R88). READ STATE returns free steps, free slots and tune counts. -/
def execReadStateTuneLibrary (dt : Nat) (s : State) : Result :=
  happen dt (fun s => s.hostRequest .readStateTuneLibrary) s

end Sys2Proof.Machine
end

