-- ==== Sys2Proof/Machine/Dispatch.lean ====
section
/-! DEFINITION. The meaning of each command: one arm per row of spec/opcode_table.json. -/

namespace Sys2Proof.Machine

/-- The effect of a command on everything but the queue. -/
def exec (i : Instr) (s : State) : Host.Outcome State Fault Refusal :=
  match i with
  | .secondEnd dt => Sys2Proof.Machine.execSecondEnd dt s
  | .smarkEdge dt => Sys2Proof.Machine.execSmarkEdge dt s
  | .setTime dt basis at_ => Sys2Proof.Machine.execSetTime dt basis at_ s
  | .setTimeAtMarkEdge dt => Sys2Proof.Machine.execSetTimeAtMarkEdge dt s
  | .setTimeMarkTimeout dt => Sys2Proof.Machine.execSetTimeMarkTimeout dt s
  | .reserveEntry dt => Sys2Proof.Machine.execReserveEntry dt s
  | .msenseQualificationStart dt => Sys2Proof.Machine.execMsenseQualificationStart dt s
  | .msenseQualificationCancel dt => Sys2Proof.Machine.execMsenseQualificationCancel dt s
  | .msenseQualificationExpiry dt => Sys2Proof.Machine.execMsenseQualificationExpiry dt s
  | .countingDomainPowerUp dt => Sys2Proof.Machine.execCountingDomainPowerUp dt s
  | .pinLevelChange dt line high reading => Sys2Proof.Machine.execPinLevelChange dt line high reading s
  | .inputFilterExpiry dt line => Sys2Proof.Machine.execInputFilterExpiry dt line s
  | .quietTimerExpiry dt bell => Sys2Proof.Machine.execQuietTimerExpiry dt bell s
  | .settleTimeExpiry dt bell => Sys2Proof.Machine.execSettleTimeExpiry dt bell s
  | .restRuleExpiry dt dial => Sys2Proof.Machine.execRestRuleExpiry dt dial s
  | .impulseEnd dt dial => Sys2Proof.Machine.execImpulseEnd dt dial s
  | .noCurrent dt dial => Sys2Proof.Machine.execNoCurrent dt dial s
  | .deferredReconciliation dt dial => Sys2Proof.Machine.execDeferredReconciliation dt dial s
  | .deferredDialAmend dt => Sys2Proof.Machine.execDeferredDialAmend dt s
  | .deferredSetDial dt => Sys2Proof.Machine.execDeferredSetDial dt s
  | .setDial dt dial position => Sys2Proof.Machine.execSetDial dt dial position s
  | .swing dt bell minutes => Sys2Proof.Machine.execSwing dt bell minutes s
  | .pendingTimeout dt bell => Sys2Proof.Machine.execPendingTimeout dt bell s
  | .runEnd dt bell => Sys2Proof.Machine.execRunEnd dt bell s
  | .stallWatchExpiry dt bell => Sys2Proof.Machine.execStallWatchExpiry dt bell s
  | .stopBell dt bell => Sys2Proof.Machine.execStopBell dt bell s
  | .raiseMoment dt bell => Sys2Proof.Machine.execRaiseMoment dt bell s
  | .pulseEnd dt bell => Sys2Proof.Machine.execPulseEnd dt bell s
  | .noAnswer dt bell => Sys2Proof.Machine.execNoAnswer dt bell s
  | .stuck dt bell => Sys2Proof.Machine.execStuck dt bell s
  | .recoveryEnd dt bell => Sys2Proof.Machine.execRecoveryEnd dt bell s
  | .rstnAsserted dt => Sys2Proof.Machine.execRstnAsserted dt s
  | .rstnReleased dt => Sys2Proof.Machine.execRstnReleased dt s
  | .restartReset dt => Sys2Proof.Machine.execRestartReset dt s
  | .openTune dt label => Sys2Proof.Machine.execOpenTune dt label s
  | .appendSteps dt tune steps => Sys2Proof.Machine.execAppendSteps dt tune steps s
  | .closeTune dt tune => Sys2Proof.Machine.execCloseTune dt tune s
  | .retireTune dt tune mode => Sys2Proof.Machine.execRetireTune dt tune mode s
  | .play dt tune transposition repeats priority yields => Sys2Proof.Machine.execPlay dt tune transposition repeats priority yields s
  | .stepBoundary dt => Sys2Proof.Machine.execStepBoundary dt s
  | .blowRequestMoment dt => Sys2Proof.Machine.execBlowRequestMoment dt s
  | .endMoment dt => Sys2Proof.Machine.execEndMoment dt s
  | .stopChimeEntry dt entry => Sys2Proof.Machine.execStopChimeEntry dt entry s
  | .toll dt bell interval blows velocity => Sys2Proof.Machine.execToll dt bell interval blows velocity s
  | .tollTakeUp dt channel => Sys2Proof.Machine.execTollTakeUp dt channel s
  | .tollRequestMoment dt channel => Sys2Proof.Machine.execTollRequestMoment dt channel s
  | .tollEnd dt channel => Sys2Proof.Machine.execTollEnd dt channel s
  | .stopTollChannel dt channel => Sys2Proof.Machine.execStopTollChannel dt channel s
  | .dueReached dt => Sys2Proof.Machine.execDueReached dt s
  | .graceExpiry dt => Sys2Proof.Machine.execGraceExpiry dt s
  | .actionStart dt context => Sys2Proof.Machine.execActionStart dt context s
  | .storeOccasion dt config => Sys2Proof.Machine.execStoreOccasion dt config s
  | .suspend dt occasion => Sys2Proof.Machine.execSuspend dt occasion s
  | .resume dt occasion => Sys2Proof.Machine.execResume dt occasion s
  | .retireGentle dt occasion => Sys2Proof.Machine.execRetireGentle dt occasion s
  | .retireAbrupt dt occasion => Sys2Proof.Machine.execRetireAbrupt dt occasion s
  | .duskConfirmed dt => Sys2Proof.Machine.execDuskConfirmed dt s
  | .sensorFault dt => Sys2Proof.Machine.execSensorFault dt s
  | .frameBoundary dt => Sys2Proof.Machine.execFrameBoundary dt s
  | .raiseScene dt scene hold => Sys2Proof.Machine.execRaiseScene dt scene hold s
  | .lowerScene dt scene => Sys2Proof.Machine.execLowerScene dt scene s
  | .standingEntryEnd dt => Sys2Proof.Machine.execStandingEntryEnd dt s
  | .storeScene dt config => Sys2Proof.Machine.execStoreScene dt config s
  | .retireScene dt scene mode => Sys2Proof.Machine.execRetireScene dt scene mode s
  | .frameBegin dt => Sys2Proof.Machine.execFrameBegin dt s
  | .frameEnd dt bits => Sys2Proof.Machine.execFrameEnd dt bits s
  | .requestRouted dt => Sys2Proof.Machine.execRequestRouted dt s
  | .recordMemoryWriteEnd dt => Sys2Proof.Machine.execRecordMemoryWriteEnd dt s
  | .readConditions dt => Sys2Proof.Machine.execReadConditions dt s
  | .acknowledge dt named => Sys2Proof.Machine.execAcknowledge dt named s
  | .restart dt => Sys2Proof.Machine.execRestart dt s
  | .amendTimeSettings dt settings => Sys2Proof.Machine.execAmendTimeSettings dt settings s
  | .amendDial dt dial amend => Sys2Proof.Machine.execAmendDial dt dial amend s
  | .amendLine dt line record => Sys2Proof.Machine.execAmendLine dt line record s
  | .amendBell dt bell config => Sys2Proof.Machine.execAmendBell dt bell config s
  | .amendTune dt tune label => Sys2Proof.Machine.execAmendTune dt tune label s
  | .amendChimeMap dt pairs => Sys2Proof.Machine.execAmendChimeMap dt pairs s
  | .amendClockProgram dt config => Sys2Proof.Machine.execAmendClockProgram dt config s
  | .amendOccasion dt occasion config => Sys2Proof.Machine.execAmendOccasion dt occasion config s
  | .amendDuskSettings dt line threshold confirm => Sys2Proof.Machine.execAmendDuskSettings dt line threshold confirm s
  | .amendDuskTable dt pairs => Sys2Proof.Machine.execAmendDuskTable dt pairs s
  | .amendChannel dt channel config => Sys2Proof.Machine.execAmendChannel dt channel config s
  | .amendScene dt scene config => Sys2Proof.Machine.execAmendScene dt scene config s
  | .amendFeeder dt capacity => Sys2Proof.Machine.execAmendFeeder dt capacity s
  | .amendConditions dt enables => Sys2Proof.Machine.execAmendConditions dt enables s
  | .listNextTune dt after filter => Sys2Proof.Machine.execListNextTune dt after filter s
  | .listNextOccasion dt after filter => Sys2Proof.Machine.execListNextOccasion dt after filter s
  | .listNextScene dt after filter => Sys2Proof.Machine.execListNextScene dt after filter s
  | .lookUpTimeSettings dt => Sys2Proof.Machine.execLookUpTimeSettings dt s
  | .lookUpDial dt dial => Sys2Proof.Machine.execLookUpDial dt dial s
  | .lookUpLine dt line => Sys2Proof.Machine.execLookUpLine dt line s
  | .lookUpBell dt bell => Sys2Proof.Machine.execLookUpBell dt bell s
  | .lookUpTune dt tune first => Sys2Proof.Machine.execLookUpTune dt tune first s
  | .lookUpChimeMap dt => Sys2Proof.Machine.execLookUpChimeMap dt s
  | .lookUpClockProgram dt => Sys2Proof.Machine.execLookUpClockProgram dt s
  | .lookUpOccasion dt occasion => Sys2Proof.Machine.execLookUpOccasion dt occasion s
  | .lookUpDuskSettings dt => Sys2Proof.Machine.execLookUpDuskSettings dt s
  | .lookUpDuskTable dt => Sys2Proof.Machine.execLookUpDuskTable dt s
  | .lookUpChannel dt channel => Sys2Proof.Machine.execLookUpChannel dt channel s
  | .lookUpScene dt scene => Sys2Proof.Machine.execLookUpScene dt scene s
  | .lookUpFeeder dt => Sys2Proof.Machine.execLookUpFeeder dt s
  | .lookUpConditions dt => Sys2Proof.Machine.execLookUpConditions dt s
  | .readStateDial dt dial => Sys2Proof.Machine.execReadStateDial dt dial s
  | .readStateLine dt line => Sys2Proof.Machine.execReadStateLine dt line s
  | .readStateBell dt bell => Sys2Proof.Machine.execReadStateBell dt bell s
  | .readStateTune dt tune => Sys2Proof.Machine.execReadStateTune dt tune s
  | .readStateClockProgram dt => Sys2Proof.Machine.execReadStateClockProgram dt s
  | .readStateOccasion dt occasion => Sys2Proof.Machine.execReadStateOccasion dt occasion s
  | .readStateChannel dt channel => Sys2Proof.Machine.execReadStateChannel dt channel s
  | .readStateScene dt scene => Sys2Proof.Machine.execReadStateScene dt scene s
  | .readStateTimeBase dt => Sys2Proof.Machine.execReadStateTimeBase dt s
  | .readStateTuneLibrary dt => Sys2Proof.Machine.execReadStateTuneLibrary dt s
  | .readStateChimeSequencer dt => Sys2Proof.Machine.execReadStateChimeSequencer dt s
  | .readStateOccasionCalendar dt => Sys2Proof.Machine.execReadStateOccasionCalendar dt s
  | .readStateFloodlightMixer dt => Sys2Proof.Machine.execReadStateFloodlightMixer dt s
  | .readStateFeederAccount dt => Sys2Proof.Machine.execReadStateFeederAccount dt s

end Sys2Proof.Machine
end

