-- ==== Sys2Proof/Safety.lean ====
section
/-! DEFINITION. What counts as a sound state and a safe run of the TW48, in the terms the statements use. -/

namespace Sys2Proof.Machine

/-! ## Sound states -/

/-- R1, R2, R3, R4, R7: what the Time Base holds lies in the ranges of the table of chapter 1, summer in force follows the rule
from the standard time, and a waiting SET TIME or AMEND of the time settings will keep it so. -/
structure State.TimeSound (s : State) : Prop where
  prescaler : s.time.prescaler ≤ s.time.secondLength
  lengthLow : 32513 ≤ s.time.secondLength
  lengthHigh : s.time.secondLength ≤ 33023
  trimCycle : s.time.trimCycle < 32
  standard : s.time.standard < Config.rangeEnd
  summer : s.time.summer = summerAt s.time.settings.rule s.time.standard
  trim : -255 ≤ s.time.settings.trim ∧ s.time.settings.trim ≤ 255
  trimInUse : -255 ≤ s.time.trimInUse ∧ s.time.trimInUse ≤ 255
  alignment : ∀ a, s.time.lastAlignment = some a → -8192 ≤ a ∧ a ≤ 8192
  waiting : ∀ w, s.time.setTimeWait = some w → w.instant < Config.rangeEnd
  amends : ∀ w ∈ s.memory.writes, ∀ x, w.effect = .timeSettings x → -255 ≤ x.trim ∧ x.trim ≤ 255

/-- The strike line of a stroke machine is active only in REQUESTED and STRIKING; the outputs, the work under way and the link are
all at rest (R15, R31, R56, R68, R110, R166, R177, R188). -/
structure State.AtRest (s : State) : Prop where
  dials : ∀ i, (s.dial i).impulse = none
  strokes : ∀ i, (s.stroke i).lineIsActive = false
  motors : ∀ i, (s.bell i).motor = .off
  lamps : ∀ i, (s.channel i).levels.delivered = 0
  queue : s.chime.queue = []
  performance : s.chime.performance = none
  tolls : ∀ i, s.toll i = none
  layers : s.mixer.layers = []
  asks : s.feeder.asks = []
  admitted : s.feeder.admitted = []
  gate : s.hammers.gate = .closed
  inProgress : s.link.inProgress = none
  waiting : s.link.waiting = none
  frame : s.link.frame = none
  setTimeWait : s.time.setTimeWait = none
  responses : ∀ w ∈ s.memory.writes, w.response = none

/-- Section 1.7: while the power state is RESERVE everything but the counting domain and record memory is at rest. -/
def State.ReserveSound (s : State) : Prop := s.time.power = .reserve → s.AtRest

/-- The steps held by the tunes of the library (R77). -/
def TuneLibrary.heldSteps (t : TuneLibrary) : Nat := (t.slots.toList.map fun x => x.record.elim 0 fun y => y.steps.length).sum

/-- Free steps plus the steps held (R77). -/
def TuneLibrary.allSteps (t : TuneLibrary) : Nat := t.freeSteps + t.heldSteps

/-- R77: free steps plus the steps held by tunes total 2048. -/
def State.PoolSound (s : State) : Prop := s.tunes.allSteps = Config.pool

/-- R172: the admitted motor load is at most the capacity, and at most every capacity that waits to be written or comes with a
feeder AMEND taken (R170). -/
structure State.LoadSound (s : State) : Prop where
  capacity : s.feeder.load ≤ s.feeder.capacity
  amends : ∀ w ∈ s.memory.writes, ∀ c, w.effect = .feeder c → s.feeder.load ≤ c
  taken : ∀ c, s.link.takenCapacity = some c → s.feeder.load ≤ c

/-- R90, R152, R162: the queue, the layer stack and the standing list keep to their places, no scene standing twice. -/
structure State.ListsSound (s : State) : Prop where
  queue : s.chime.queue.length ≤ Config.queueCapacity
  layers : s.mixer.layers.length ≤ Config.layerCapacity
  layerScenes : (s.mixer.layers.map (·.scene)).Nodup
  standing : s.mixer.standing.length ≤ Config.standingCapacity
  standingScenes : (s.mixer.standing.map (·.scene)).Nodup

/-! ## Safe runs -/

/-- The command has an outcome that is a next state. -/
def Completes (c : Instr) (s : State) : Prop := ∃ t, exec c s = .next t

/-- A safe run: every command it takes completes. -/
def SafeFor (s : State) : List Instr → Prop
  | [] => True
  | c :: rest => ∃ t, exec c s = .next t ∧ SafeFor t rest

/-! ## Resets (sections 1.7 and 4.4) -/

/-- The values every block takes at a COLD START (`cold`), a SUPPLY RETURN or a RESTART (`keepStart`), before any block acts on them
(R33 to R35, R40, R43, R50, R56 to R58, R68, R71, R87, R110, R121, R145, R146, R149, R167, R177, R187, R188). The Time Base goes on;
what an idle toll channel reads is log entry 46, the dues kept only while the time is valid are log entry 28, the count of tolls is
log entry 31, and the dates whose dusk has passed are log entry 60. -/
structure State.ResetTaken (s t : State) (cold keepStart : Bool) : Prop where
  clock : t.clock = s.clock
  time : t.time = { s.time with setTimeWait := none }
  dials : ∀ i, i < 6 → t.dial i = { s.dial i with
    state := if (s.dial i).service = false then .off else if (s.dial i).fault = none then .waitTime else .fault
    impulse := none, owed := false, lastStart := if keepStart then (s.dial i).lastStart else none }
  lines : ∀ i, i < 64 → t.line i = { s.line i with
    filtered := if isInput (s.line i).record.function then (s.line i).shown else (s.line i).filtered
    changing := none, lastReading := none }
  bells : ∀ i, i < 40 → t.bell i = { s.bell i with
    swing := if t.lockHeld i then .locked
      else if (s.bell i).config.inService = true ∧ (s.bell i).config.sensorMode = .none then .atRest else .unknown
    halfSwing := none, lastPulse := none, restClosedSince := if t.lineActive .restSense i then some s.nowMs else none
    entered := s.nowMs, quietUntil := none, motor := .off, lastOutcome := none }
  strokes : ∀ i, i < 40 → t.stroke i = if (s.bell i).config.inService = false then .outOfService
    else if (s.bell i).config.hammerInService = true then .idle else .fault
  gate : t.hammers.gate = .closed ∧ t.hammers.rstn = s.hammers.rstn
  tunes : ∀ i, i < 64 → t.tuneSlot i = { gen := (s.tuneSlot i).gen, record := match (s.tuneSlot i).record with
    | none => none
    | some x => if x.state = .retiring then none else some { x with refs := 0 } }
  chimeMap : t.tunes.chimeMap = s.tunes.chimeMap
  chime : t.chime.queue = [] ∧ t.chime.performance = none ∧ (∀ c, t.toll c = none) ∧ t.chime.lastEntryNumber = 0 ∧
    t.chime.lastArrival = 0 ∧ t.chime.tollsTaken = 0 ∧ t.chime.lastOutcome = none
  program : t.program = { s.program with silencedUntil := none, quartersMissed := 0, hoursMissed := 0, lastOutcome := none
                                         lastMark := if cold then none else s.program.lastMark }
  occasions : ∀ i, i < 256 → t.occasionSlot i = { gen := (s.occasionSlot i).gen, record := match (s.occasionSlot i).record with
    | none => none
    | some o =>
      if o.state = .retiring then none
      else some { o with
        outcome := if o.context = none then o.outcome else o.outcome.map fun x =>
          if x.kind = .pending ∨ x.kind = .started then
            { kind := .skipped, note := .interrupted, skipped := 0, depth := false }
          else x
        context := none, waiting := false
        state := if o.state = .firing then (if cold = true ∨ o.due ≠ none then .armed else .spent) else o.state
        due := if (o.state = .firing ∨ o.state = .armed) ∧ (cold = true ∨ s.time.valid = false) then none else o.due } }
  contexts : ∀ k, t.context k = none
  calendar : t.calendar.dusk = s.calendar.dusk ∧ t.calendar.duskTable = s.calendar.duskTable ∧ t.calendar.window = [] ∧
    t.calendar.belowSince = none ∧ t.calendar.zeroSince = none ∧ t.calendar.fullSince = none ∧ t.calendar.confirmed = none
  duskPassed : t.calendar.duskPassed =
    if s.time.valid = true ∧ t.calendar.tableDusk.instant < s.time.standard then [s.localNow / 86400] else []
  tableDusk : t.calendar.tableDusk = { day := s.localNow / 86400, instant := t.tableDuskOf (s.localNow / 86400) }
  channels : ∀ i, i < 24 → t.channel i = { config := (s.channel i).config, levels := Levels.dark }
  scenes : ∀ i, i < 32 → t.sceneSlot i = { gen := (s.sceneSlot i).gen, record := match (s.sceneSlot i).record with
    | none => none
    | some x => if x.state = .retiring then none else some x }
  mixer : t.mixer.layers = [] ∧ t.mixer.standing = s.mixer.standing ∧ t.mixer.raiseSequence = 0 ∧ t.mixer.nextFrame = 0 ∧
    t.mixer.computed = none
  feeder : t.feeder = { capacity := s.feeder.capacity, asks := [], admitted := [], record := none, previousScale := 4096
                        scaleInEffect := 4096, shed := false }
  link : t.link = { s.link with inProgress := none, waiting := none }
  responses : ∀ w ∈ t.memory.writes, w.response = none

/-- R167: the standing list at a SUPPLY RETURN or a RESTART: entries whose end instant has come are removed, and the change is
written. -/
def State.standingKept (s : State) : State :=
  if ∀ y ∈ s.mixer.standing, s.time.standard < y.endAt then s
  else
    { s with mixer.standing := s.mixer.standing.filter fun y => s.time.standard < y.endAt
             memory.writes := s.memory.writes ++ [{ effect := .stored .standingList, response := none }] }

/-! ## Jumps (R140) -/

/-- R140: a jump finds no due come and no action's start instant come. -/
structure State.NothingDue (s : State) : Prop where
  dues : ∀ j o d, j < 256 → (s.occasionSlot j).record = some o → o.due = some d → s.time.standard < d.instant
  actions : ∀ k c, k < 8 → s.context k = some c → ∀ a ∈ c.actions, ∀ holds, a.phase = .waiting holds → s.time.standard < a.start

/-- R128: an occasion with its slot and next due stands ahead of another in due-list order: the earlier due first, then the higher
priority, then the lower slot. -/
def Occasion.dueAheadOf (o : Occasion) (i : Nat) (d : Due) (x : Occasion) (j : Nat) (y : Due) : Prop :=
  d.instant < y.instant ∨ (d.instant = y.instant ∧
    (x.config.priority < o.config.priority ∨ (x.config.priority = o.config.priority ∧ i < j)))

/-- R128, R129: the slots of the occasions whose dues have come, in due-list order. -/
structure State.DueOrder (s : State) (l : List Nat) : Prop where
  nodup : l.Nodup
  slots : ∀ i, i ∈ l ↔ i < 256 ∧ ∃ o d, (s.occasionSlot i).record = some o ∧ o.due = some d ∧ d.instant ≤ s.time.standard
  order : l.Pairwise fun i j => ∀ o d x y, (s.occasionSlot i).record = some o → o.due = some d → (s.occasionSlot j).record = some x →
    x.due = some y → o.dueAheadOf i d x j y

/-- R130: the occasion `o` of slot `i` has fired its due `d` into context `k`, its actions not yet started: the actions are copied
with their start instants, a reference is taken for each PLAY action whose tune is LIVE, the record is put and its write asked for, and
nothing else has changed. -/
structure State.FiredInto (s u : State) (i k : Nat) (o : Occasion) (d : Due) : Prop where
  rest : u = { s with
    calendar.slots := u.calendar.slots, calendar.contexts := u.calendar.contexts, tunes.slots := u.tunes.slots
    memory.writes := s.memory.writes ++ [{ effect := .stored (.occasion i), response := none }] }
  slot : u.occasionSlot i = { gen := (s.occasionSlot i).gen, record := some { o with
    lastFired := some d.instant, due := if s.time.valid then s.computeDue o.config (some d.instant) else none, waiting := false
    state := .firing, context := some k
    outcome := o.config.actions.map fun _ => { kind := .pending, note := .none, skipped := 0, depth := false } } }
  slots : ∀ j, j ≠ i → u.occasionSlot j = s.occasionSlot j
  context : u.context k = some
    { occasion := { slot := i, gen := (s.occasionSlot i).gen }, due := d.instant
      actions := o.config.actions.map fun a =>
        { kind := a.kind, start := d.instant + a.offset
          phase := .waiting (match a.kind with
            | .play h _ _ _ => (s.findTune h).any fun x => x.state == .live
            | _ => false) } }
  contexts : ∀ j, j ≠ k → u.context j = s.context j
  tunes : ∀ j, (s.tuneSlot j).record = none → u.tuneSlot j = s.tuneSlot j
  references : ∀ h x, s.findTune h = some x →
    let n := o.config.actions.countP fun a => match a.kind with | .play g _ _ _ => g == h | _ => false
    u.findTune h = some { x with refs := x.refs + if x.state = .live then n else 0 }

/-! ## When a request is taken (R179 to R182) -/

/-- The host can have a request taken and worked at once: the power state is MAINS, SEL is released, and the link is OPEN. -/
structure State.HostReady (s : State) : Prop where
  mains : s.time.power = .mains
  notSelected : s.link.sel = false
  noRequest : s.link.inProgress = none
  noWrite : s.memory.writes = []
  gateClosed : s.hammers.gate = .closed

/-- R182: a request is in progress with its owner, the response that was waiting collected. -/
def State.working (s : State) (r : Request) : State :=
  { s with link.waiting := none
           link.inProgress := some { task := .request r, phase := .working, taken := s.clock, seen := s.seenBy (.request r) } }

/-- R182, R183: the writes a request asked for are the only ones of record memory. -/
def State.writing (s : State) (w : List Write) : State := { s with memory.writes := w }

/-- R136, R129: no context waits to be freed, and no occasion waits for a context that is free. -/
abbrev State.Settled (s : State) : Prop := s.doneContext = none ∧ (s.freeContext = none ∨ s.firstWaiting = none)

/-- R11, R24, R119, R140, R145, R163: the time has been set to the instant `x`, summer in force following the rule, the time valid,
nothing waiting for a mark; TIME SET has been announced to the dials, the Clock Program, the calendar and the standing list; and the
SET TIME is answered DONE with the standard and local instants and whether a mark brought it about. The length of the second in
progress and the trim in use are left to log entry 27; that no test of the latest SECOND is left to be made at this moment,
`lastSecond` none, is the model's choice, log entry 7. -/
structure State.TimeSetTo (s t : State) (x : Nat) (atMark : Bool) : Prop where
  time : t.time = { s.time with standard := x, prescaler := 0, secondLength := t.time.secondLength,
                                trimInUse := t.time.trimInUse, summer := summerAt s.time.settings.rule x, valid := true,
                                setTimeWait := none, lastSecond := none }
  clock : t.clock = s.clock
  noRequest : t.link.inProgress = none
  answer : t.link.waiting
    = some (reply .done 0 0 (instantBytes x ++ instantBytes (localAt s.time.settings.rule x) ++ yesNo atMark))
  event : ∃ y : Response, t =
    let landed := State.landingMark (State.reconcileDials { s with time := t.time })
    let jumped := if s.time.valid then landed.calendarJump true else landed.calendarFirstValidity
    jumped.endStandingEntries.settleContexts.answer y

/-- R32: SET DIAL has put a dial in its place: position, doubt and fault written, the other dials left, the state of a dial in
service taken from its distance, and the record's write asked for with the answer to come at its end. -/
structure State.DialPut (s t : State) (i n : Nat) : Prop where
  position : (t.dial i).position = n
  doubt : (t.dial i).doubt = false
  fault : (t.dial i).fault = none
  others : ∀ j, j ≠ i → t.dial j = s.dial j
  unserved : (s.dial i).service = false → t.dial i = { s.dial i with position := n, doubt := false, fault := none }
  invalid : (s.dial i).service = true → (s.dial i).state ≠ .off → s.time.valid = false → (t.dial i).state = .waitTime
  run : (s.dial i).service = true → (s.dial i).state ≠ .off → s.time.valid = true →
    distance (dialTarget s.localNow) n = 0 → (t.dial i).state = .run
  catchUp : (s.dial i).service = true → (s.dial i).state ≠ .off → s.time.valid = true →
    0 < distance (dialTarget s.localNow) n → distance (dialTarget s.localNow) n ≤ (s.dial i).window →
    (t.dial i).state = .catchUp
  hold : (s.dial i).service = true → (s.dial i).state ≠ .off → s.time.valid = true →
    (s.dial i).window < distance (dialTarget s.localNow) n → (t.dial i).state = .hold
  write : ∃ p, t.memory.writes
    = s.memory.writes ++ [{ effect := .stored (.dial i), response := some (reply .done i 0 p) }]

/-- R135: the outcome entry that a motor run's final report gives an action that is one of its sources. -/
def motorOutcome (r : MotorReport) : Outcome :=
  let entry : OutcomeKind × Reason := match r with
    | .done => (.done, .none)
    | .stopped => (.cancelled, .none)
    | .locked => (.skipped, .locked)
    | .up => (.skipped, .up)
    | .stalled => (.skipped, .stalled)
    | .refusedFeeder => (.refused, .feeder)
  { kind := entry.1, note := entry.2, skipped := 0, depth := false }

/-- R171, R173: no ask and no admitted run of the bell is left, the others standing in their order, and the ask list has been tried if
a load was released or the head withdrawn. -/
def State.claimEnded (s : State) (b : Nat) : State :=
  let left : State := { s with feeder.asks := s.feeder.asks.filter fun a => a.bell != b
                               feeder.admitted := s.feeder.admitted.filter fun r => r.bell != b }
  if (∃ r ∈ s.feeder.admitted, r.bell = b) ∨ (∃ a ∈ s.feeder.asks.head?, a.bell = b) then left.tryAsks else left

/-- R135: the entry of one action in the outcome of its context's occasion, whose record is written if it changed and which raises
OCCASION OUTCOME when it reads REFUSED or SKIPPED. -/
def State.outcomeTold (s : State) (c : Context) (j : Nat) (x : Outcome) : State :=
  match s.findOccasion c.occasion with
  | none => s
  | some o =>
    let new := { o with outcome := o.outcome.set j x }
    let kept : State :=
      if new = o then s
      else (s.setOccasionSlot c.occasion.slot { gen := c.occasion.gen, record := some new }).store (.occasion c.occasion.slot)
    if x.kind = .refused ∨ x.kind = .skipped then kept.raise .occasionOutcome else kept

/-- R135: an action has had a final report: its entry in the outcome of its context's occasion is set, and the action is DONE in its
context. -/
def State.actionTold (s : State) (k j : Nat) (x : Outcome) : State :=
  match s.context k with
  | none => s
  | some c =>
    let told := s.outcomeTold c j x
    match c.actions[j]? with
    | none => told
    | some a => told.setContext k (some { c with actions := c.actions.set j { a with phase := .done } })

/-- R57, R135: a source of a bell's run has had its final report. COMMAND's is the bell's last command outcome; an action's is its
outcome entry, and the action is DONE in its context. -/
def State.sourceTold (s : State) (b : Nat) (r : MotorReport) : MotorSource → State
  | .command => s.setBell b { s.bell b with lastOutcome := some r }
  | .action k j => s.actionTold k j (motorOutcome r)

/-- R54, R56: the run of a bell has ended with a report: the motor is OFF, its claim on the feeder has ended, and every source has
had the report, in the order of sources (log entry 66). -/
def State.runEnded (s : State) (b : Nat) (sources : List MotorSource) (r : MotorReport) : State :=
  sources.foldl (fun t x => t.sourceTold b r x) ((s.setBell b { s.bell b with motor := .off }).claimEnded b)

/-- R184: the command that is a host request, as a frame brings it `dt` counts after the command before. -/
def commandOf (dt : Nat) : Request → Instr
  | .setTime basis d => .setTime dt basis d
  | .setDial i n => .setDial dt i n
  | .swing b m => .swing dt b m
  | .stopBell b => .stopBell dt b
  | .openTune l => .openTune dt l
  | .appendSteps h l => .appendSteps dt h l
  | .closeTune h => .closeTune dt h
  | .retireTune h m => .retireTune dt h m
  | .play h a b c d => .play dt h a b c d
  | .stopChimeEntry n => .stopChimeEntry dt n
  | .toll a b c d => .toll dt a b c d
  | .stopTollChannel c => .stopTollChannel dt c
  | .storeOccasion c => .storeOccasion dt c
  | .suspend h => .suspend dt h
  | .resume h => .resume dt h
  | .retireGentle h => .retireGentle dt h
  | .retireAbrupt h => .retireAbrupt dt h
  | .raiseScene h m => .raiseScene dt h m
  | .lowerScene h => .lowerScene dt h
  | .storeScene c => .storeScene dt c
  | .retireScene h m => .retireScene dt h m
  | .readConditions => .readConditions dt
  | .acknowledge f => .acknowledge dt f
  | .restart => .restart dt
  | .amendTimeSettings x => .amendTimeSettings dt x
  | .amendDial i a => .amendDial dt i a
  | .amendLine i x => .amendLine dt i x
  | .amendBell i c => .amendBell dt i c
  | .amendTune h l => .amendTune dt h l
  | .amendChimeMap p => .amendChimeMap dt p
  | .amendClockProgram c => .amendClockProgram dt c
  | .amendOccasion h c => .amendOccasion dt h c
  | .amendDuskSettings a b c => .amendDuskSettings dt a b c
  | .amendDuskTable p => .amendDuskTable dt p
  | .amendChannel i c => .amendChannel dt i c
  | .amendScene h c => .amendScene dt h c
  | .amendFeeder c => .amendFeeder dt c
  | .amendConditions f => .amendConditions dt f
  | .listNextTune a f => .listNextTune dt a f
  | .listNextOccasion a f => .listNextOccasion dt a f
  | .listNextScene a f => .listNextScene dt a f
  | .lookUpTimeSettings => .lookUpTimeSettings dt
  | .lookUpDial i => .lookUpDial dt i
  | .lookUpLine i => .lookUpLine dt i
  | .lookUpBell i => .lookUpBell dt i
  | .lookUpTune h n => .lookUpTune dt h n
  | .lookUpChimeMap => .lookUpChimeMap dt
  | .lookUpClockProgram => .lookUpClockProgram dt
  | .lookUpOccasion h => .lookUpOccasion dt h
  | .lookUpDuskSettings => .lookUpDuskSettings dt
  | .lookUpDuskTable => .lookUpDuskTable dt
  | .lookUpChannel i => .lookUpChannel dt i
  | .lookUpScene h => .lookUpScene dt h
  | .lookUpFeeder => .lookUpFeeder dt
  | .lookUpConditions => .lookUpConditions dt
  | .readStateDial i => .readStateDial dt i
  | .readStateLine i => .readStateLine dt i
  | .readStateBell i => .readStateBell dt i
  | .readStateTune h => .readStateTune dt h
  | .readStateClockProgram => .readStateClockProgram dt
  | .readStateOccasion h => .readStateOccasion dt h
  | .readStateChannel i => .readStateChannel dt i
  | .readStateScene h => .readStateScene dt h
  | .readStateTimeBase => .readStateTimeBase dt
  | .readStateTuneLibrary => .readStateTuneLibrary dt
  | .readStateChimeSequencer => .readStateChimeSequencer dt
  | .readStateOccasionCalendar => .readStateOccasionCalendar dt
  | .readStateFloodlightMixer => .readStateFloodlightMixer dt
  | .readStateFeederAccount => .readStateFeederAccount dt

end Sys2Proof.Machine
end

