-- ==== Sys2Proof/WellFormed.lean ====
section
/-! DEFINITION. The operands a command can carry: an event names a record the part has, and a request's fields fit the bytes that
carry them on the link (R184, section 11.5). A well-formed request may still be refused: the ranges of the records are its
owner's checks, in Machine/Operands.lean. -/

namespace Sys2Proof

/-! ## Checks -/

def lineIndexOk (n : Nat) : Bool := n < Config.lines
def bellIndexOk (n : Nat) : Bool := n < Config.bells
def dialIndexOk (n : Nat) : Bool := n < Config.dials
def tollIndexOk (n : Nat) : Bool := n < Config.tolls
def contextIndexOk (n : Nat) : Bool := n < Config.contexts

/-- A reading of an analog pin is 0 to 1023 (00_scope.md, pin summary). -/
def readingOk (n : Nat) : Bool := n ≤ 1023

/-- A field of one byte. -/
def byteOk (n : Nat) : Bool := n ≤ 255

/-- A field of two bytes. -/
def wordOk (n : Nat) : Bool := n ≤ 65535

/-- A signed field of one byte. -/
def signedByteOk (x : Int) : Bool := decide (-128 ≤ x ∧ x ≤ 127)

/-- A signed field of two bytes. -/
def signedWordOk (x : Int) : Bool := decide (-32768 ≤ x ∧ x ≤ 32767)

/-- A label has 16 places. -/
def labelFits (l : Label) : Bool := l.length ≤ 16

/-- A slot and a generation, one byte each. -/
def handleFits (h : Handle) : Bool := byteOk h.slot && byteOk h.gen

/-- A payload has at most 512 bytes (R181). -/
def payloadFits {α : Type} (size : Nat) (l : List α) : Bool := size * l.length ≤ 512

def dateFits (d : Date) : Bool := wordOk d.year && byteOk d.month && byteOk d.day

def dateTimeFits (t : DateTime) : Bool := dateFits t.date && byteOk t.hour && byteOk t.minute && byteOk t.second

def hourMinuteFits (t : HourMinute) : Bool := byteOk t.hour && byteOk t.minute

/-! ## Records -/

def TimeSettings.fits (x : TimeSettings) : Bool :=
  signedWordOk x.trim && byteOk x.rule.offset && byteOk x.rule.startMonth && byteOk x.rule.startWeek
    && hourMinuteFits x.rule.startTime && byteOk x.rule.endMonth && byteOk x.rule.endWeek && hourMinuteFits x.rule.endTime

/-- A pulse width is carried as a count of 10 ms and a spacing as a count of 0.5 s (R184). -/
def DialAmend.fits (a : DialAmend) : Bool :=
  labelFits a.label && a.impulseWidth % 10 == 0 && byteOk (a.impulseWidth / 10) && a.spacing % 500 == 0
    && byteOk (a.spacing / 500) && wordOk a.window

def LineRecord.fits (r : LineRecord) : Bool := r.bound.all byteOk && byteOk r.filter

def BellConfig.fits (c : BellConfig) : Bool :=
  labelFits c.label && wordOk c.settle && wordOk c.lead && byteOk c.velocity0 && byteOk c.velocity1 && byteOk c.velocity2
    && byteOk c.velocity3 && wordOk c.repeatInterval && wordOk c.motorRating

def Step.fits : Step → Bool
  | .note degrees velocity duration => degrees.length ≤ 4 && degrees.all byteOk && byteOk velocity && wordOk duration
  | .rest duration => wordOk duration
  | .call tune repeats => handleFits tune && byteOk repeats

def ClockConfig.fits (c : ClockConfig) : Bool :=
  [c.first, c.second, c.third, c.fourth].all (fun h => h.all handleFits) && byteOk c.hourBell && wordOk c.blowInterval
    && byteOk c.hourVelocity && wordOk c.strikeGap && byteOk c.quarterPriority && byteOk c.hourPriority && wordOk c.expiry
    && c.nightStart.all hourMinuteFits && c.nightEnd.all hourMinuteFits

def Recurrence.fits : Recurrence → Bool
  | .once d => dateFits d
  | .daily => true
  | .weekly _ => true
  | .monthlyNth week _ _ => byteOk week
  | .annual month day => byteOk month && byteOk day

def Anchor.fits : Anchor → Bool
  | .clock hour minute second => byteOk hour && byteOk minute && byteOk second
  | .dusk offset => signedWordOk offset

def Action.fits (a : Action) : Bool :=
  wordOk a.offset
    && (match a.kind with
        | .play tune transposition repeats _ => handleFits tune && signedByteOk transposition && byteOk repeats
        | .toll bell interval blows velocity => byteOk bell && byteOk interval && wordOk blows && byteOk velocity
        | .swing bell minutes => byteOk bell && byteOk minutes
        | .sceneUp scene hold => handleFits scene && wordOk hold
        | .sceneDown scene => handleFits scene
        | .silence minutes => byteOk minutes)

def OccasionConfig.fits (c : OccasionConfig) : Bool :=
  labelFits c.label && c.recurrence.fits && c.firstDate.all dateFits && c.lastDate.all dateFits && c.anchor.fits
    && byteOk c.grace && byteOk c.priority && c.actions.length ≤ 4 && c.actions.all Action.fits

def ChannelConfig.fits (c : ChannelConfig) : Bool :=
  labelFits c.label && wordOk c.rating && wordOk c.ceiling && wordOk c.floor

def SceneConfig.fits (c : SceneConfig) : Bool :=
  labelFits c.label && payloadFits 3 c.levels && c.levels.all (fun x => byteOk x.1 && wordOk x.2) && wordOk c.fadeIn
    && wordOk c.fadeOut && byteOk c.priority

/-! ## Commands -/

/-- The command's operands are ones it can carry. -/
def Instr.wellFormed : Instr → Bool
  | .secondEnd _ => true
  | .smarkEdge _ => true
  | .setTime _ _ t => dateTimeFits t
  | .setTimeAtMarkEdge _ => true
  | .setTimeMarkTimeout _ => true
  | .reserveEntry _ => true
  | .msenseQualificationStart _ => true
  | .msenseQualificationCancel _ => true
  | .msenseQualificationExpiry _ => true
  | .countingDomainPowerUp _ => true
  | .pinLevelChange _ line _ reading => lineIndexOk line && readingOk reading
  | .inputFilterExpiry _ line => lineIndexOk line
  | .quietTimerExpiry _ bell => bellIndexOk bell
  | .settleTimeExpiry _ bell => bellIndexOk bell
  | .restRuleExpiry _ dial => dialIndexOk dial
  | .impulseEnd _ dial => dialIndexOk dial
  | .noCurrent _ dial => dialIndexOk dial
  | .deferredReconciliation _ dial => dialIndexOk dial
  | .deferredDialAmend _ => true
  | .deferredSetDial _ => true
  | .setDial _ dial position => byteOk dial && wordOk position
  | .swing _ bell minutes => byteOk bell && byteOk minutes
  | .pendingTimeout _ bell => bellIndexOk bell
  | .runEnd _ bell => bellIndexOk bell
  | .stallWatchExpiry _ bell => bellIndexOk bell
  | .stopBell _ bell => byteOk bell
  | .raiseMoment _ bell => bellIndexOk bell
  | .pulseEnd _ bell => bellIndexOk bell
  | .noAnswer _ bell => bellIndexOk bell
  | .stuck _ bell => bellIndexOk bell
  | .recoveryEnd _ bell => bellIndexOk bell
  | .rstnAsserted _ => true
  | .rstnReleased _ => true
  | .restartReset _ => true
  | .openTune _ label => labelFits label
  | .appendSteps _ tune steps => handleFits tune && payloadFits 8 steps && steps.all Step.fits
  | .closeTune _ tune => handleFits tune
  | .retireTune _ tune _ => handleFits tune
  | .play _ tune transposition repeats priority _ =>
    handleFits tune && signedByteOk transposition && byteOk repeats && byteOk priority
  | .stepBoundary _ => true
  | .blowRequestMoment _ => true
  | .endMoment _ => true
  | .stopChimeEntry _ entry => wordOk entry
  | .toll _ bell interval blows velocity => byteOk bell && byteOk interval && wordOk blows && byteOk velocity
  | .tollTakeUp _ channel => tollIndexOk channel
  | .tollRequestMoment _ channel => tollIndexOk channel
  | .tollEnd _ channel => tollIndexOk channel
  | .stopTollChannel _ channel => byteOk channel
  | .dueReached _ => true
  | .graceExpiry _ => true
  | .actionStart _ context => contextIndexOk context
  | .storeOccasion _ config => config.fits
  | .suspend _ occasion => handleFits occasion
  | .resume _ occasion => handleFits occasion
  | .retireGentle _ occasion => handleFits occasion
  | .retireAbrupt _ occasion => handleFits occasion
  | .duskConfirmed _ => true
  | .sensorFault _ => true
  | .frameBoundary _ => true
  | .raiseScene _ scene hold => handleFits scene && hold.all wordOk
  | .lowerScene _ scene => handleFits scene
  | .standingEntryEnd _ => true
  | .storeScene _ config => config.fits
  | .retireScene _ scene _ => handleFits scene
  | .frameBegin _ => true
  | .frameEnd _ _ => true
  | .requestRouted _ => true
  | .recordMemoryWriteEnd _ => true
  | .readConditions _ => true
  | .acknowledge _ _ => true
  | .restart _ => true
  | .amendTimeSettings _ settings => settings.fits
  | .amendDial _ dial amend => byteOk dial && amend.fits
  | .amendLine _ line record => byteOk line && record.fits
  | .amendBell _ bell config => byteOk bell && config.fits
  | .amendTune _ tune label => handleFits tune && labelFits label
  | .amendChimeMap _ pairs => payloadFits 2 pairs && pairs.all fun p => byteOk p.1 && p.2.all byteOk
  | .amendClockProgram _ config => config.fits
  | .amendOccasion _ occasion config => handleFits occasion && config.fits
  | .amendDuskSettings _ line threshold confirm => line.all byteOk && wordOk threshold && byteOk confirm
  | .amendDuskTable _ pairs => payloadFits 3 pairs && pairs.all fun p => byteOk p.1 && wordOk p.2
  | .amendChannel _ channel config => byteOk channel && config.fits
  | .amendScene _ scene config => handleFits scene && config.fits
  | .amendFeeder _ capacity => wordOk capacity
  | .amendConditions _ _ => true
  | .listNextTune _ after _ => after.all byteOk
  | .listNextOccasion _ after _ => after.all byteOk
  | .listNextScene _ after _ => after.all byteOk
  | .lookUpTimeSettings _ => true
  | .lookUpDial _ dial => byteOk dial
  | .lookUpLine _ line => byteOk line
  | .lookUpBell _ bell => byteOk bell
  | .lookUpTune _ tune first => handleFits tune && first.all wordOk
  | .lookUpChimeMap _ => true
  | .lookUpClockProgram _ => true
  | .lookUpOccasion _ occasion => handleFits occasion
  | .lookUpDuskSettings _ => true
  | .lookUpDuskTable _ => true
  | .lookUpChannel _ channel => byteOk channel
  | .lookUpScene _ scene => handleFits scene
  | .lookUpFeeder _ => true
  | .lookUpConditions _ => true
  | .readStateDial _ dial => byteOk dial
  | .readStateLine _ line => byteOk line
  | .readStateBell _ bell => byteOk bell
  | .readStateTune _ tune => handleFits tune
  | .readStateClockProgram _ => true
  | .readStateOccasion _ occasion => handleFits occasion
  | .readStateChannel _ channel => byteOk channel
  | .readStateScene _ scene => handleFits scene
  | .readStateTimeBase _ => true
  | .readStateTuneLibrary _ => true
  | .readStateChimeSequencer _ => true
  | .readStateOccasionCalendar _ => true
  | .readStateFloodlightMixer _ => true
  | .readStateFeederAccount _ => true

end Sys2Proof
end

