-- ==== Sys2Proof/Certificates/Slice0/Obligations.lean ====
section
/-! DEFINITION. The statements for the provers. A statement that gives an equation `exec c s = .next t` says the whole next state:
whatever `t` does not set is as it was, but for the elapsed time that `State.elapse` counts. -/

section

open Sys2Proof Sys2Proof.Machine

/-! ## The queue and the commands -/

/-- The step takes the command at the front of the queue and executes it with the queue's rest; on an empty queue the block idles
(the model's choice, log entry 1). -/
def Obligations.StepTakesFrontCommand : Prop :=
  (∀ (c : Instr) (rest : List Instr) (s : State), step { s with pending := c :: rest } = exec c { s with pending := rest }) ∧
  (∀ s : State, s.pending = [] → step s = .next s)

/-- Every command completes, keeping the queue of commands and never turning the elapsed clock back, or is refused as the event of no
record; and an event of a line, bell, dial, toll channel or firing context beyond the 64 lines, 40 bells, 6 dials, 2 toll channels and
8 contexts of the part is refused so (the model's choice, log entry 41). -/
def Obligations.CommandsCompleteOrNameNoRecord : Prop :=
  (∀ (c : Instr) (s : State), exec c s = .refused .noSuchRecord ∨
    ∃ t, exec c s = .next t ∧ t.pending = s.pending ∧ s.clock ≤ t.clock) ∧
  (∀ (s : State) (dt i reading : Nat) (high : Bool),
    (64 ≤ i → exec (.pinLevelChange dt i high reading) s = .refused .noSuchRecord ∧
      exec (.inputFilterExpiry dt i) s = .refused .noSuchRecord) ∧
    (40 ≤ i → exec (.quietTimerExpiry dt i) s = .refused .noSuchRecord ∧
      exec (.settleTimeExpiry dt i) s = .refused .noSuchRecord ∧ exec (.pendingTimeout dt i) s = .refused .noSuchRecord ∧
      exec (.runEnd dt i) s = .refused .noSuchRecord ∧ exec (.stallWatchExpiry dt i) s = .refused .noSuchRecord ∧
      exec (.raiseMoment dt i) s = .refused .noSuchRecord ∧ exec (.pulseEnd dt i) s = .refused .noSuchRecord ∧
      exec (.noAnswer dt i) s = .refused .noSuchRecord ∧ exec (.stuck dt i) s = .refused .noSuchRecord ∧
      exec (.recoveryEnd dt i) s = .refused .noSuchRecord) ∧
    (6 ≤ i → exec (.restRuleExpiry dt i) s = .refused .noSuchRecord ∧ exec (.impulseEnd dt i) s = .refused .noSuchRecord ∧
      exec (.noCurrent dt i) s = .refused .noSuchRecord ∧ exec (.deferredReconciliation dt i) s = .refused .noSuchRecord) ∧
    (2 ≤ i → exec (.tollTakeUp dt i) s = .refused .noSuchRecord ∧ exec (.tollRequestMoment dt i) s = .refused .noSuchRecord ∧
      exec (.tollEnd dt i) s = .refused .noSuchRecord) ∧
    (8 ≤ i → exec (.actionStart dt i) s = .refused .noSuchRecord))

/-! ## Invariants of every step -/

/-- What the Time Base holds stays in its ranges, and summer in force stays what the rule says at the standard time (R1, R2, R3, R4,
R7), over every step from every state. (Where it goes beyond the rules it rests on the model's choices of log entry 3.) -/
def Obligations.TimeBaseStaysSound : Prop := ∀ s t : State, s.TimeSound → step s = .next t → t.TimeSound

/-- While the power state is RESERVE everything but the counting domain and record memory stays at rest: no command brings an
output, a stroke, an impulse, a run, a performance, a toll, a layer, a request or a frame to life there. (Where it goes beyond the
rules it rests on the model's choices of log entries 13, 14, 21 and 30.) -/
def Obligations.ReserveStaysAtRest : Prop := ∀ s t : State, s.ReserveSound → step s = .next t → t.ReserveSound

/-- R77: free steps plus the steps held by tunes always total 2048. -/
def Obligations.PoolAlwaysTotals : Prop := ∀ s t : State, s.PoolSound → step s = .next t → t.PoolSound

/-- R172: the admitted motor load never exceeds the feeder capacity, nor a capacity that waits to be written or comes with a feeder
AMEND taken (R170). -/
def Obligations.LoadNeverExceedsCapacity : Prop := ∀ s t : State, s.LoadSound → step s = .next t → t.LoadSound

/-- R90, R152, R162: the queue holds at most 8 entries, the stack at most 8 layers and the standing list at most 8 entries, and
neither the stack nor the list holds a scene twice. -/
def Obligations.ListsStayWithinCapacity : Prop := ∀ s t : State, s.ListsSound → step s = .next t → t.ListsSound

/-- The machine right after COLD START of a factory-blank part satisfies every invariant. -/
def Obligations.ResetIsSound : Prop :=
  State.reset.TimeSound ∧ State.reset.ReserveSound ∧ State.reset.PoolSound ∧ State.reset.LoadSound ∧ State.reset.ListsSound

/-- R60: no hammer stroke is begun on a bell unless, at the moment its strike line rises, the bell's swing state is AT REST and its
hammer is in service. Whatever the step, a strike line that is active after it and was not before belongs to such a bell; the
power state is MAINS and no restart is held back. -/
def Obligations.StrikeLineRisesOnlyAtRest : Prop :=
  ∀ (s t : State) (b : Nat), step s = .next t → (t.stroke b).lineIsActive = true → (s.stroke b).lineIsActive = false →
    (s.bell b).swing = .atRest ∧ (s.bell b).config.hammerInService = true ∧ s.time.power = .mains ∧ s.hammers.gate = .closed

/-! ## Time Base (chapter 1) -/

/-- R1, R4, R7, R12, R15: SECOND_END. Before the prescaler has reached the length of the second nothing but time passes. When it has,
the prescaler returns to 0, the trim cycle advances and gives the next second its length, the standard time advances by one second, at
the end of the calendar range to its beginning with the time invalid and TIME INVALID raised, and summer in force follows. In RESERVE
that is all. In MAINS the ambient line is sampled at the SECOND, a dusk not confirmed by its T passes on the table, and a second
brings besides: at a half-minute of the local instant, each dial its HALF-MINUTE; at a quarter after that the mark; at local midnight
after that the table dusk of the new day; R8, R13: where summer in force changes, none of these but SUMMER START or END, at which the
dials are reconciled, the landing mark is handled and the calendar takes the jump; at the end of the range TIME LOST, at which the
dials are reconciled and the due list is emptied; with the time invalid, nothing more. R3: SMARK_EDGE with the mark input enabled and
no SET TIME waiting. A prescaler of at most 8192 restarts the second; one within 8192 of its end ends the second as SECOND_END does;
between them, and with the mark input disabled or a SET TIME waiting, the edge does nothing. (What the dials, the marks and the
calendar do then is said in DialsStartAndReconcile, MarksOfferTheirEntries, NextDueIsTheEarliest and DuskIsConfirmedOrFaulted. That at
one SECOND, at SUMMER START or END and at TIME LOST the dials act first, then the Clock Program, then the calendar is the model's
choice, log entry 9, as is that a mark comes before a SILENCE that starts at its second, log entry 61. Where it goes beyond the rules
it rests on the model's choices of log entries 1, 2, 3, 7, 9, 10, 20, 27, 60, 61 and 67.) -/
def Obligations.SecondsAreCountedAndAligned : Prop :=
  (∀ (s : State) (dt : Nat),
    let e := s.elapse dt
    let standard := if s.time.standard + 1 < 6311433600 then s.time.standard + 1 else 0
    let cycle := (s.time.trimCycle + 1) % 32
    let after : TimeBase :=
      { s.time with prescaler := 0, trimCycle := cycle
                    secondLength := if cycle = 31 then (32768 - s.time.settings.trim).toNat else 32768
                    trimInUse := if cycle = 31 then s.time.settings.trim else s.time.trimInUse
                    standard := standard, summer := summerAt s.time.settings.rule standard
                    valid := s.time.valid && standard != 0 }
    let counted := (State.sampleAmbient { e with time := { after with lastSecond := some e.clock } }).passDusk
    let local_ := standard + s.time.settings.rule.shift after.summer
    (s.time.prescaler + dt < s.time.secondLength → exec (.secondEnd dt) s = .next e) ∧
    (s.time.secondLength ≤ s.time.prescaler + dt →
      (∃ t, exec (.secondEnd dt) s = .next t ∧ t.time = { after with lastSecond := t.time.lastSecond } ∧ t.clock = e.clock ∧
        (standard = 0 → t.link.flags.getLsbD 10 = true ∧ t.link.fresh.getLsbD 10 = true)) ∧
      (s.time.power = .reserve → standard ≠ 0 → exec (.secondEnd dt) s = .next { e with time := after }) ∧
      (s.time.power = .mains → standard ≠ 0 → s.ambientLine = none → after.summer = s.time.summer →
        (s.time.valid = false ∨ local_ % 30 ≠ 0) →
        exec (.secondEnd dt) s = .next (State.passDusk { e with time := { after with lastSecond := some e.clock } })) ∧
      (s.time.power = .mains → standard ≠ 0 →
        (s.time.valid = false → exec (.secondEnd dt) s = .next counted) ∧
        (s.time.valid = true → after.summer = s.time.summer →
          (local_ % 30 ≠ 0 → exec (.secondEnd dt) s = .next counted) ∧
          (local_ % 30 = 0 → local_ % 900 ≠ 0 → exec (.secondEnd dt) s = .next counted.halfMinutes) ∧
          (local_ % 900 = 0 → local_ % 86400 ≠ 0 →
            exec (.secondEnd dt) s = .next (counted.halfMinutes.handleMark standard local_).settleContexts) ∧
          (local_ % 86400 = 0 → ∃ u, u = (counted.halfMinutes.handleMark standard local_).settleContexts ∧
            exec (.secondEnd dt) s = .next { u with
              calendar.tableDusk := { day := local_ / 86400, instant := u.tableDuskOf (local_ / 86400) } })) ∧
        (s.time.valid = true → after.summer ≠ s.time.summer → exec (.secondEnd dt) s
          = .next (State.calendarJump counted.reconcileDials.landingMark false).settleContexts)) ∧
      (s.time.power = .mains → standard = 0 → exec (.secondEnd dt) s
        = .next (State.reconcileDials (State.sampleAmbient
            (State.raise { e with time := { after with lastSecond := some e.clock } } .timeInvalid))).calendarTimeLost))) ∧
  (∀ (s : State) (day : Nat), s.tableDuskOf day
    = day * 86400 + s.calendar.duskTable.getD ((dayOfYear (dateOfDay day) - 1) / 7) 0 * 60) ∧
  (∀ (s : State) (dt : Nat),
    let e := s.elapse dt
    let p := e.time.prescaler
    let l := s.time.secondLength
    (s.time.settings.markEnable = true → s.time.setTimeWait = none →
      (p ≤ 8192 → exec (.smarkEdge dt) s = .next { e with time.prescaler := 0, time.lastAlignment := some (p : Int) }) ∧
      (8192 < p → l ≤ p + 8192 → exec (.smarkEdge dt) s
        = exec (.secondEnd 0) { e with time.prescaler := l, time.lastAlignment := some ((p : Int) - (l : Int)) }) ∧
      (8192 < p → p + 8192 < l → exec (.smarkEdge dt) s = .next e)) ∧
    (s.time.settings.markEnable = false ∨ s.time.setTimeWait ≠ none → exec (.smarkEdge dt) s = .next e))

/-- R10, R11: SET TIME takes effect at once while the mark input is disabled, and waits while it is enabled; a waiting one takes
effect at an SMARK edge within 2 s of the moment it was taken, or when those 2 s have passed. TIME SET then reaches the dials, the
Clock Program, the calendar, as its first validity or as a jump, and the standing list, in this order, which is the model's choice,
log entry 9. That it also ends the tests of a SECOND at the same moment, so that no SECOND counts as at hand, is the model's choice,
log entry 7. A SET TIME without an instant of the range is answered BAD FIELD. (Where it goes beyond the rules it rests on the model's
choices of log entries 1, 2, 4, 7, 9, 10, 23, 24, 27, 52, 53, 60, 67 and 69.) -/
def Obligations.SetTimeTakesEffect : Prop :=
  ∀ (s : State) (dt : Nat) (basis : TimeBasis) (d : DateTime),
    let e := s.elapse dt
    let r := Request.setTime basis d
    (s.HostReady → setTimeInstant s.time.settings.rule basis d = none →
      exec (.setTime dt basis d) s = .next ((e.working r).answer (reply .badField 0 0))) ∧
    (∀ x, s.HostReady → setTimeInstant s.time.settings.rule basis d = some x →
      (s.time.settings.markEnable = false → ∃ t, exec (.setTime dt basis d) s = .next t ∧ (e.working r).TimeSetTo t x false) ∧
      (s.time.settings.markEnable = true → exec (.setTime dt basis d) s = .next
        { e.working r with link.inProgress := some { task := .request r, phase := .deferred, taken := e.clock, seen := .nothing }
                           time.setTimeWait := some { since := e.clock, instant := x } })) ∧
    (∀ w, s.time.power = .mains → s.time.setTimeWait = some w →
      (e.clock ≤ w.since + 65536 → ∃ t, exec (.setTimeAtMarkEdge dt) s = .next t ∧ e.TimeSetTo t w.instant true) ∧
      (w.since + 65536 < e.clock → exec (.setTimeAtMarkEdge dt) s = .next e) ∧
      (w.since + 65536 ≤ e.clock → ∃ t, exec (.setTimeMarkTimeout dt) s = .next t ∧ e.TimeSetTo t w.instant false) ∧
      (e.clock < w.since + 65536 → exec (.setTimeMarkTimeout dt) s = .next e))

/-- R10: the instant a SET TIME names is that of a real date and time, read as given or, with basis LOCAL, against the summer rule:
the reading that summer makes consistent, else the one that standard time makes consistent, and none of a skipped local time. -/
def Obligations.LocalReadingIsConsistent : Prop :=
  (∀ (r : SummerRule) (g t : Int), r.enabled = true → readLocal r g = some t → t + (r.shift (summerAt r t) : Nat) = g) ∧
  (∀ (r : SummerRule) (g : Int), r.enabled = true →
    (readLocal r g = none ↔ ∀ t : Int, t + (r.shift (summerAt r t) : Nat) ≠ g)) ∧
  (∀ (r : SummerRule) (t u g : Int), r.enabled = true → t + (r.shift (summerAt r t) : Nat) = g →
    u + (r.shift (summerAt r u) : Nat) = g → summerAt r t = true → summerAt r u = false → readLocal r g = some t) ∧
  (∀ (r : SummerRule) (g : Int), r.enabled = false → readLocal r g = some g) ∧
  (∀ (r : SummerRule) (basis : TimeBasis) (d : DateTime) (x : Nat), setTimeInstant r basis d = some x ↔
    (dateTimeOk d = true ∧ x < 6311433600 ∧
      (match basis with
       | .standardTime => (x : Int) = d.instant
       | .localTime => readLocal r d.instant = some (x : Int))))

/-- R4: the days from 2000-01-01, a SATURDAY, to 2199-12-31 are numbered one by one by the real dates of the Gregorian calendar,
and the weekdays follow in turn. The months have their lengths, February by the leap year. -/
def Obligations.CalendarIsGregorian : Prop :=
  (∀ n : Nat, n < 73049 → (dateOfDay n).isReal = true ∧ dayNumber (dateOfDay n) = n) ∧
  (∀ d : Date, d.isReal = true → 0 ≤ dayNumber d ∧ dayNumber d < 73049 ∧ dateOfDay (dayNumber d).toNat = d) ∧
  dateOfDay 0 = { year := 2000, month := 1, day := 1 } ∧
  weekdayIndex 0 = Weekday.saturday.index ∧
  (∀ n : Int, weekdayIndex (n + 1) = (weekdayIndex n + 1) % 7) ∧
  (∀ y : Nat, isLeap y = true ↔ 4 ∣ y ∧ (100 ∣ y → 400 ∣ y)) ∧
  (∀ y : Nat, [1, 2, 3, 4, 5, 6, 7, 8, 9, 10, 11, 12].map (daysInMonth y)
    = [31, if isLeap y then 29 else 28, 31, 30, 31, 30, 31, 31, 30, 31, 30, 31]) ∧
  (∀ d : Date, d.isReal = true ↔ 2000 ≤ d.year ∧ d.year ≤ 2199 ∧ 1 ≤ d.month ∧ d.month ≤ 12 ∧ 1 ≤ d.day ∧
    d.day ≤ daysInMonth d.year d.month) ∧
  (∀ d : DateTime, dateTimeOk d = true ↔ d.date.isReal = true ∧ d.hour ≤ 23 ∧ d.minute ≤ 59 ∧ d.second ≤ 59)

/-- R5: week 1 to 4 names the day of that weekday in 1 to 7, 8 to 14, 15 to 21 or 22 to 28 of the month, and LAST the one within the
last seven days of the month. The summer rule's dates and the dates of a MONTHLY NTH recurrence are found by this reckoning. -/
def Obligations.NthWeekdayOfMonth : Prop :=
  (∀ (y m : Nat) (w : Weekday), 2000 ≤ y → y ≤ 2199 → 1 ≤ m → m ≤ 12 →
    (∀ week, 1 ≤ week → week ≤ 4 →
      weekdayIndex (dayNumber ⟨y, m, nthWeekday y m week w⟩) = w.index ∧
      7 * week - 6 ≤ nthWeekday y m week w ∧ nthWeekday y m week w ≤ 7 * week) ∧
    weekdayIndex (dayNumber ⟨y, m, nthWeekday y m 5 w⟩) = w.index ∧
    daysInMonth y m - 7 < nthWeekday y m 5 w ∧ nthWeekday y m 5 w ≤ daysInMonth y m) ∧
  (∀ (r : SummerRule) (y : Nat),
    summerStart r y = dayNumber ⟨y, r.startMonth, nthWeekday y r.startMonth r.startWeek r.startWeekday⟩ * 86400
      + ((r.startTime.hour * 3600 + r.startTime.minute * 60 : Nat) : Int) ∧
    summerEnd r y = dayNumber ⟨y, r.endMonth, nthWeekday y r.endMonth r.endWeek r.endWeekday⟩ * 86400
      + ((r.endTime.hour * 3600 + r.endTime.minute * 60 : Nat) : Int) - ((r.offset * 60 : Nat) : Int)) ∧
  (∀ (week day : Nat) (w : Weekday) (months : BitVec 12),
    let d := dateOfDay day
    recurs (.monthlyNth week w months) day = true ↔
      months.getLsbD (d.month - 1) = true ∧ d.day = nthWeekday d.year d.month week w)

/-! ## Supply loss and the resets (sections 1.7, 4.4) -/

/-- R15, R31, R56, R68, R110, R166, R177, R188: RESERVE ENTRY leaves every output, stroke, impulse, run, performance, toll, layer,
request and frame at rest, the counting domain as it was, and a dial whose impulse is cut in doubt. In RESERVE it does nothing.
(Where it goes beyond the rules it rests on the model's choices of log entries 1, 2, 21 and 30.) -/
def Obligations.ReserveEntryReleasesEverything : Prop :=
  ∀ (s : State) (dt : Nat),
    let e := s.elapse dt
    (s.time.power = .reserve → exec (.reserveEntry dt) s = .next e) ∧
    (s.time.power = .mains → ∃ t, exec (.reserveEntry dt) s = .next t ∧ t.AtRest ∧
      t.time = { e.time with power := .reserve, reserveEntry := e.time.standard, setTimeWait := none, msense := false
                             qualification := none } ∧
      t.clock = e.clock ∧ t.attn = false ∧ t.rdy = false ∧ (∀ i, t.outputActive i = false) ∧
      (∀ i, (t.dial i).position = (s.dial i).position) ∧
      (∀ i p, (s.dial i).impulse = some p → i < 6 →
        (t.dial i).doubt = true ∧ t.link.flags.getLsbD 2 = true ∧ t.link.fresh.getLsbD 2 = true) ∧
      (∀ i, (s.dial i).impulse = none → t.dial i = { s.dial i with owed := false }))

/-- R16: MSENSE active for 2 s in RESERVE brings MAINS back; inactive before, it brings nothing. R17, R33, R145, R167, R188: a return
with a cold start pending is a COLD START, at which every block takes its cold-start values, TIME INVALID alone is left set, fresh,
and no entry stands. Else it is a SUPPLY RETURN, at which every block takes its values, SUPPLY RETURNED is raised, and then the dials
are reconciled, the mark owed is handled, the dues held are reached and the scenes that stand are raised again. Either keeps the time.
R17: after total loss the counting domain stands at 2000-01-01 00:00:00 standard, invalid, with a cold start pending and TIME INVALID
raised; the time settings, which record memory holds, are kept. That the trim in use is then the stored trim is the model's choice,
log entry 27. (Where it goes beyond the rules it rests on the model's choices of log entries 1, 2, 9, 13, 21, 22, 27, 28, 31, 46, 49
and 60.) -/
def Obligations.ReturnNeedsTwoSeconds : Prop :=
  (∀ (s : State) (dt : Nat),
    let e := s.elapse dt
    (s.time.power = .reserve → s.time.qualification = none → exec (.msenseQualificationStart dt) s
      = .next { e with time.msense := true, time.qualification := some e.clock }) ∧
    (s.time.power = .mains ∨ s.time.qualification ≠ none → exec (.msenseQualificationStart dt) s = .next e) ∧
    (∀ q, s.time.qualification = some q → e.clock < q + 65536 →
      exec (.msenseQualificationCancel dt) s = .next { e with time.msense := false, time.qualification := none } ∧
      exec (.msenseQualificationExpiry dt) s = .next e) ∧
    (∀ q, s.time.qualification = some q → q + 65536 ≤ e.clock → ∃ t, exec (.msenseQualificationExpiry dt) s = .next t ∧
      t.time = { e.time with power := .mains, qualification := none, coldStartPending := false, setTimeWait := none } ∧
      t.clock = e.clock ∧ t.hammers.gate = .closed ∧ t.link.inProgress = none ∧ t.link.waiting = none ∧
      (s.time.coldStartPending = true → t.link.flags = 0x400#12 ∧ t.link.fresh = 0x400#12 ∧ t.mixer.standing = []) ∧
      (s.time.coldStartPending = false → t.link.flags.getLsbD 11 = true ∧ t.link.fresh.getLsbD 11 = true)) ∧
    (∀ q, s.time.qualification = some q → q + 65536 ≤ e.clock → s.time.coldStartPending = true →
      ∃ u, State.ResetTaken { e with time := { e.time with power := .mains, qualification := none, coldStartPending := false } }
          u true false ∧
        exec (.msenseQualificationExpiry dt) s = .next { u with
          mixer.standing := []
          memory.writes := u.memory.writes
            ++ if s.mixer.standing = [] then [] else [{ effect := .stored .standingList, response := none }]
          link := { u.link with flags := 0x400#12, fresh := 0x400#12, lastReport := 0#12 } }) ∧
    (∀ q, s.time.qualification = some q → q + 65536 ≤ e.clock → s.time.coldStartPending = false →
      ∃ u, State.ResetTaken { e with time := { e.time with power := .mains, qualification := none } } u false false ∧
        exec (.msenseQualificationExpiry dt) s = .next (((u.standingKept.raise .supplyReturned).reconcileDials.owedMark
          s.time.reserveEntry).resume u.standingKept.mixer.standing))) ∧
  (∀ (s : State) (dt : Nat), ∃ t, exec (.countingDomainPowerUp dt) s = .next t ∧
    t.time.standard = 0 ∧ t.time.valid = false ∧ t.time.prescaler = 0 ∧ t.time.secondLength = 32768 ∧ t.time.trimCycle = 0 ∧
    t.time.trimInUse = s.time.settings.trim ∧
    t.time.lastAlignment = none ∧ t.time.summer = summerAt s.time.settings.rule 0 ∧ t.time.settings = s.time.settings ∧
    t.time.power = .reserve ∧ t.time.coldStartPending = true ∧ t.time.setTimeWait = none ∧ t.time.qualification = none ∧
    t.clock = s.clock + dt ∧ t.link.flags.getLsbD 10 = true ∧ t.link.fresh.getLsbD 10 = true ∧
    (s.ReserveSound → t.AtRest))

/-- R69, R70, R71, R187: RSTN asserted in MAINS, or RESTART, requests a RESTART: the gate holds, and every REQUESTED stroke whose line
is not raised is withdrawn. RSTN asserted abandons a SET TIME that waits. The reset takes place when RSTN is inactive and no stroke or
impulse is under way; every block then takes its RESTART values, but for the Time Base, which only drops a SET TIME that waits; the
gate is left CLOSED, no strike line active and no request in progress; and the dials are reconciled, the dues held are reached and the
scenes that stand are raised again. (Where it goes beyond the rules it rests on the model's choices of log entries 1, 2, 4, 9, 13, 19,
28, 30, 31, 46, 50 and 60.) -/
def Obligations.RestartWaitsForTheGate : Prop :=
  ∀ (s : State) (dt : Nat),
    let e := s.elapse dt
    let withdrawn (t : State) : Prop := t.hammers.gate = .holding ∧ ∀ b, b < 40 → t.stroke b
      = (match s.stroke b with
         | .requested k => if k.raised then s.stroke b else .idle
         | k => k)
    (s.time.power = .mains → s.hammers.gate = .closed → ∃ t, exec (.rstnAsserted dt) s = .next t ∧ withdrawn t ∧
      t.hammers.rstn = true ∧ t.time = { e.time with setTimeWait := none } ∧
      (s.time.setTimeWait ≠ none → t.link.inProgress = none)) ∧
    (s.time.power = .reserve → exec (.rstnAsserted dt) s = .next { e with hammers.rstn := true }) ∧
    (s.HostReady → ∃ t, exec (.restart dt) s = .next t ∧ withdrawn t ∧ t.time = e.time ∧
      t.link.inProgress = some { task := .request .restart, phase := .working, taken := e.clock, seen := .nothing }) ∧
    exec (.rstnReleased dt) s = .next { e with hammers.rstn := false } ∧
    (s.gateOpens = true → ∃ t, exec (.restartReset dt) s = .next t ∧ t.time = { e.time with setTimeWait := none } ∧
      t.clock = e.clock ∧ t.hammers.gate = .closed ∧ (∀ b, (t.stroke b).lineIsActive = false) ∧
      t.link.inProgress = none ∧ t.link.waiting = none) ∧
    (s.gateOpens = true → ∃ u, e.ResetTaken u false true ∧ exec (.restartReset dt) s
      = .next (u.standingKept.reconcileDials.resume u.standingKept.mixer.standing)) ∧
    (s.gateOpens = false → exec (.restartReset dt) s = .next e) ∧
    (s.gateOpens = true ↔ s.time.power = .mains ∧ s.hammers.gate = .holding ∧ s.hammers.rstn = false ∧
      (∀ b, b < 40 → (∀ k, s.stroke b ≠ .requested k) ∧ ∀ k, s.stroke b ≠ .striking k) ∧
      (∀ i, i < 6 → (s.dial i).impulse = none) ∧
      ∀ w ∈ s.memory.writes, ∀ i, w.effect ≠ .stored (.dialSettle i))

/-! ## Dials (chapter 2) -/

/-- R22: the target of a dial by the hour, minute and second of the local instant, and its distance, 0 to 1439, the steps its hands
must be driven forward to reach the target. Both are taken from the local instant at the moment they are needed; while the time is
invalid no dial is driven to a target. -/
def Obligations.DialTargetAndDistance : Prop :=
  (∀ (x target position : Nat), target < 1440 → position < 1440 →
    dialTarget x = ((dateTimeOf x).hour % 12 * 60 + (dateTimeOf x).minute) * 2 + (if 30 ≤ (dateTimeOf x).second then 1 else 0) ∧
    dialTarget x = x % 43200 / 30 ∧
    (distance target position : Int) = ((target : Int) - (position : Int)) % 1440 ∧
    distance target position < 1440 ∧ (position + distance target position) % 1440 = target) ∧
  (∀ (s : State) (i : Nat), s.dialDistance i
    = distance (dialTarget (s.time.standard + s.time.settings.rule.shift s.time.summer)) (s.dial i).position) ∧
  (∀ (s : State) (dt i : Nat), s.time.valid = false → (s.dial i).impulse = none →
    (∀ t, exec (.restRuleExpiry dt i) s = .next t → (t.dial i).impulse = none) ∧
    (∀ t, exec (.deferredReconciliation dt i) s = .next t → (t.dial i).impulse = none))

/-- R29, R26: IMPULSE_END. A delivered impulse moves the position one step on from 1439 to 0, flips the polarity and is written; a
dial in CATCH-UP then enters RUN at its target, or starts its next impulse when the rest rule and the gate let it. Before the width
has passed, or with no current shown on a sense line, nothing is delivered. R30: NO_CURRENT. Without current on its sense line 50 ms
after the drive line went active, an impulse fails: the dial is in FAULT, NO CURRENT, at its old position and polarity, the record
is written and DIAL FAULT is raised. (Where it goes beyond the rules it rests on the model's choices of log entries 1, 2 and 6.) -/
def Obligations.ImpulsesAreDeliveredOrFail : Prop :=
  (∀ (s : State) (dt i : Nat) (p : Impulse), i < 6 → s.time.power = .mains → (s.dial i).impulse = some p →
    let e := s.elapse dt
    let d := s.dial i
    let moved : Dial := { d with position := (d.position + 1) % 1440, impulse := none
                                 nextPolarity := if d.nextPolarity = .positive then .negative else .positive }
    let settled := (e.setDial i moved).store (.dialSettle i)
    let left := distance (dialTarget s.localNow) moved.position
    (e.nowMs < p.began + d.impulseWidth → exec (.impulseEnd dt i) s = .next e) ∧
    (s.hasLine .dialSense i = true → p.sensed = false → exec (.impulseEnd dt i) s = .next e) ∧
    (p.began + d.impulseWidth ≤ e.nowMs → (s.hasLine .dialSense i = false ∨ p.sensed = true) →
      (d.owed = true ∨ d.state ≠ .catchUp → exec (.impulseEnd dt i) s = .next settled) ∧
      (d.owed = false → d.state = .catchUp → s.time.valid = true →
        (left = 0 → exec (.impulseEnd dt i) s = .next (settled.setDial i { moved with state := .run })) ∧
        (left ≠ 0 → (s.hammers.gate = .holding ∨ ∃ m, d.lastStart = some m ∧ e.nowMs < m + d.spacing) →
          exec (.impulseEnd dt i) s = .next settled) ∧
        (left ≠ 0 → s.hammers.gate = .closed → (∀ m, d.lastStart = some m → m + d.spacing ≤ e.nowMs) →
          exec (.impulseEnd dt i) s = .next (settled.setDial i
            { moved with lastStart := some e.nowMs
                         impulse := some { polarity := moved.nextPolarity, began := e.nowMs
                                           sensed := s.lineActive .dialSense i } }))))) ∧
  (∀ (s : State) (dt i : Nat) (p : Impulse), i < 6 → s.time.power = .mains → (s.dial i).impulse = some p →
    let e := s.elapse dt
    (s.hasLine .dialSense i = true → p.sensed = false → p.began + 50 ≤ e.nowMs → exec (.noCurrent dt i) s
      = .next ((((e.setDial i { s.dial i with impulse := none, state := .fault, fault := some .noCurrent, owed := false }).store
          (.dial i))).raise .dialFault)) ∧
    (s.hasLine .dialSense i = false ∨ p.sensed = true ∨ e.nowMs < p.began + 50 → exec (.noCurrent dt i) s = .next e))

/-- R26, R27, R35: REST_RULE_EXPIRY. A held-back impulse starts with the next polarity once the catch-up spacing has passed since the
last start, in RUN or CATCH-UP with a distance of at least 1, the gate CLOSED, nothing owed and no impulse in progress; with the time
invalid the dial enters WAIT TIME (R28). Whatever fails, nothing starts. R23, R24: DEFERRED_RECONCILIATION. An owed reconciliation
gives a dial WAIT TIME while the time is invalid, else RUN, CATCH-UP or HOLD by its distance against the window, with an impulse at
once in CATCH-UP when nothing holds it back; a dial OFF or in FAULT keeps its state. Nothing is done while none is owed or an impulse
is in progress. An event that reconciles the dials does this at once to each without an impulse in progress, and leaves the
reconciliation owed at the others. R25: a HALF-MINUTE starts an impulse at a dial in RUN one step from its target, and in CATCH-UP; it
takes a dial in RUN further from its target into CATCH-UP, and one in HOLD at its target into RUN; the rest it leaves. That it takes
such a RUN dial into CATCH-UP also while its impulse is in progress, when by R28 a dial keeps its state, is the model's reading of R25
beside R28, log entry 54. (Where it goes beyond the rules it rests on the model's choices of log entries 1, 2, 6, 19 and 54.) -/
def Obligations.DialsStartAndReconcile : Prop :=
  (∀ (s : State) (dt i : Nat), i < 6 → s.time.power = .mains →
    let e := s.elapse dt
    let d := s.dial i
    ((d.state = .run ∨ d.state = .catchUp) → d.impulse = none → d.owed = false → s.hammers.gate = .closed →
      (∀ m, d.lastStart = some m → m + d.spacing ≤ e.nowMs) →
      (s.time.valid = true → s.dialDistance i ≠ 0 → exec (.restRuleExpiry dt i) s = .next (e.setDial i
        { d with lastStart := some e.nowMs
                 impulse := some { polarity := d.nextPolarity, began := e.nowMs, sensed := s.lineActive .dialSense i } })) ∧
      (s.time.valid = false → exec (.restRuleExpiry dt i) s = .next (e.setDial i { d with state := .waitTime }))) ∧
    (((d.state ≠ .run ∧ d.state ≠ .catchUp) ∨ d.impulse ≠ none ∨ d.owed = true ∨ s.hammers.gate = .holding ∨
        (s.time.valid = true ∧ s.dialDistance i = 0) ∨ ∃ m, d.lastStart = some m ∧ e.nowMs < m + d.spacing) →
      exec (.restRuleExpiry dt i) s = .next e)) ∧
  (∀ (s : State) (dt i : Nat), i < 6 → s.time.power = .mains →
    let e := s.elapse dt
    let d := s.dial i
    let paid : Dial := { d with owed := false }
    let left := s.dialDistance i
    (d.owed = false ∨ d.impulse ≠ none → exec (.deferredReconciliation dt i) s = .next e) ∧
    (d.owed = true → d.impulse = none →
      (d.state = .off ∨ d.state = .fault → exec (.deferredReconciliation dt i) s = .next (e.setDial i paid)) ∧
      (d.state ≠ .off → d.state ≠ .fault →
        (s.time.valid = false →
          exec (.deferredReconciliation dt i) s = .next (e.setDial i { paid with state := .waitTime })) ∧
        (s.time.valid = true → left = 0 →
          exec (.deferredReconciliation dt i) s = .next (e.setDial i { paid with state := .run })) ∧
        (s.time.valid = true → left ≠ 0 → d.window < left →
          exec (.deferredReconciliation dt i) s = .next (e.setDial i { paid with state := .hold })) ∧
        (s.time.valid = true → left ≠ 0 → left ≤ d.window →
          ((s.hammers.gate = .holding ∨ ∃ m, d.lastStart = some m ∧ e.nowMs < m + d.spacing) →
            exec (.deferredReconciliation dt i) s = .next (e.setDial i { paid with state := .catchUp })) ∧
          (s.hammers.gate = .closed → (∀ m, d.lastStart = some m → m + d.spacing ≤ e.nowMs) →
            exec (.deferredReconciliation dt i) s = .next (e.setDial i
              { paid with state := .catchUp, lastStart := some e.nowMs
                          impulse := some { polarity := d.nextPolarity, began := e.nowMs
                                            sensed := s.lineActive .dialSense i } })))))) ∧
  (∀ (s : State) (i : Nat), i < 6 →
    let d := s.dial i
    let left := s.dialDistance i
    let d' := s.reconcileDials.dial i
    let h' := s.halfMinutes.dial i
    let free : Prop := s.time.power = .mains ∧ s.hammers.gate = .closed ∧ d.impulse = none ∧ d.owed = false ∧
      ∀ m, d.lastStart = some m → m + d.spacing ≤ s.nowMs
    let started (x : DialState) : Dial :=
      { d with state := x, lastStart := some s.nowMs
               impulse := some { polarity := d.nextPolarity, began := s.nowMs, sensed := s.lineActive .dialSense i } }
    s.reconcileDials = { s with dials := s.reconcileDials.dials } ∧ s.halfMinutes = { s with dials := s.halfMinutes.dials } ∧
    (d.impulse ≠ none → d' = { d with owed := true }) ∧
    (d.impulse = none →
      (d.state = .off ∨ d.state = .fault → d' = d) ∧
      (d.state ≠ .off → d.state ≠ .fault →
        (s.time.valid = false → d' = { d with state := .waitTime }) ∧
        (s.time.valid = true → left = 0 → d' = { d with state := .run }) ∧
        (s.time.valid = true → left ≠ 0 → d.window < left → d' = { d with state := .hold }) ∧
        (s.time.valid = true → left ≠ 0 → left ≤ d.window →
          (free → d' = started .catchUp) ∧ (¬free → d' = { d with state := .catchUp })))) ∧
    (s.time.valid = true →
      (d.state = .run →
        (left = 0 → h' = d) ∧
        (left = 1 → (free → h' = started .run) ∧ (¬free → h' = d)) ∧
        (1 < left → (free → h' = started .catchUp) ∧ (¬free → h' = { d with state := .catchUp }))) ∧
      (d.state = .catchUp → (free → left ≠ 0 → h' = started .catchUp) ∧ (¬free ∨ left = 0 → h' = d)) ∧
      (d.state = .hold → (left = 0 → h' = { d with state := .run }) ∧ (left ≠ 0 → h' = d)) ∧
      (d.state = .off ∨ d.state = .waitTime ∨ d.state = .fault → h' = d)))

/-- R20, R32: SET DIAL and AMEND of a dial. Out of range they are answered BAD FIELD; while an impulse is in progress they wait, and
proceed after it; else SET DIAL puts the dial in its place at once, and AMEND asks for its write, whose end brings DONE with the
clamped spacing: the least multiple of 0.5 s at least the impulse width plus 250 ms, when that is more than the spacing given. An
AMEND's fields are in range when the label has at most 16 characters, the width is 100 to 2000 ms in steps of 10, the spacing 500 to
30000 ms in steps of 500, the window 1 to 1439, and a dial in service has one line of each polarity and at most one sense line. (Where
it goes beyond the rules it rests on the model's choices of log entries 1, 2, 4, 12, 19 and 23.) -/
def Obligations.DialRequestsWaitForImpulses : Prop :=
  ∀ (s : State) (dt i position : Nat) (a : DialAmend),
    let e := s.elapse dt
    let put := Request.setDial i position
    let amend := Request.amendDial i a
    let write : Write :=
      { effect := .dial i a, response := some (reply .done i 0 (u8 (clampSpacing a.impulseWidth a.spacing / 500))) }
    (s.HostReady →
      (6 ≤ i ∨ 1439 < position → exec (.setDial dt i position) s = .next ((e.working put).answer (reply .badField i 0))) ∧
      (6 ≤ i ∨ s.dialAmendOk i a = false →
        exec (.amendDial dt i a) s = .next ((e.working amend).answer (reply .badField i 0))) ∧
      (i < 6 → (s.dial i).impulse ≠ none →
        (position ≤ 1439 → exec (.setDial dt i position) s
          = .next { e.working put with link.inProgress := some { task := .request put, phase := .deferred, taken := e.clock, seen := .nothing } }) ∧
        (s.dialAmendOk i a = true → exec (.amendDial dt i a) s
          = .next { e.working amend with link.inProgress := some { task := .request amend, phase := .deferred, taken := e.clock, seen := .nothing } })) ∧
      (i < 6 → (s.dial i).impulse = none →
        (position ≤ 1439 → ∃ t, exec (.setDial dt i position) s = .next t ∧ e.DialPut t i position) ∧
        (s.dialAmendOk i a = true → exec (.amendDial dt i a) s = .next { e.working amend with memory.writes := [write] }))) ∧
    (∀ c v, s.time.power = .mains → i < 6 →
      s.link.inProgress = some { task := .request put, phase := .deferred, taken := c, seen := v } →
      ((s.dial i).impulse = none → ∃ t, exec (.deferredSetDial dt) s = .next t ∧ e.DialPut t i position) ∧
      ((s.dial i).impulse ≠ none → exec (.deferredSetDial dt) s = .next e)) ∧
    (∀ c v, s.time.power = .mains → i < 6 →
      s.link.inProgress = some { task := .request amend, phase := .deferred, taken := c, seen := v } →
      ((s.dial i).impulse = none → exec (.deferredDialAmend dt) s
        = .next { e with link.inProgress := some { task := .request amend, phase := .working, taken := c, seen := v }
                         memory.writes := s.memory.writes ++ [write] }) ∧
      ((s.dial i).impulse ≠ none → exec (.deferredDialAmend dt) s = .next e)) ∧
    (∀ width spacing : Nat, spacing % 500 = 0 →
      clampSpacing width spacing % 500 = 0 ∧ width + 250 ≤ clampSpacing width spacing ∧ spacing ≤ clampSpacing width spacing ∧
      (clampSpacing width spacing = spacing ∨ clampSpacing width spacing < width + 250 + 500)) ∧
    (s.dialAmendOk i a = true ↔ a.label.length ≤ 16 ∧ 100 ≤ a.impulseWidth ∧ a.impulseWidth ≤ 2000 ∧ a.impulseWidth % 10 = 0 ∧
      500 ≤ a.spacing ∧ a.spacing ≤ 30000 ∧ a.spacing % 500 = 0 ∧ 1 ≤ a.window ∧ a.window ≤ 1439 ∧
      (a.service = true → s.countLines .dialPositive i = 1 ∧ s.countLines .dialNegative i = 1 ∧ s.countLines .dialSense i ≤ 1))

/-! ## Field lines and bells (chapter 3) -/

/-- R40, R42: PIN_LEVEL_CHANGE and INPUT_FILTER_EXPIRY. In RESERVE, and on an output or analog line, the pin alone changes. On an
input in MAINS a level that shows the filtered state stops the filter, a new one starts it, and with filter 0 is taken at once as an
expiry of the filter takes it; an expiry before the filter time has run does nothing. An UNUSED line's edge is taken with no other
effect. (Where it goes beyond the rules it rests on the model's choices of log entries 1, 2 and 6.) -/
def Obligations.PinLevelsPassTheFilter : Prop :=
  ∀ (s : State) (dt i reading : Nat) (high : Bool), i < 64 →
    let e := s.elapse dt
    let l := s.line i
    let l' : Line := { l with pinHigh := high, analog := reading }
    (s.time.power = .reserve ∨ isInput l.record.function = false →
      exec (.pinLevelChange dt i high reading) s = .next (e.setLine i l') ∧ exec (.inputFilterExpiry dt i) s = .next e) ∧
    (s.time.power = .mains → isInput l.record.function = true →
      ((high == l.record.activeHigh) = l.filtered →
        exec (.pinLevelChange dt i high reading) s = .next (e.setLine i { l' with changing := none })) ∧
      ((high == l.record.activeHigh) ≠ l.filtered → l.record.filter ≠ 0 →
        (high ≠ l.pinHigh →
          exec (.pinLevelChange dt i high reading) s = .next (e.setLine i { l' with changing := some e.nowMs })) ∧
        (high = l.pinHigh → exec (.pinLevelChange dt i high reading) s = .next (e.setLine i l'))) ∧
      ((high == l.record.activeHigh) ≠ l.filtered → l.record.filter = 0 → exec (.pinLevelChange dt i high reading) s
        = exec (.inputFilterExpiry 0 i) (e.setLine i { l' with changing := some e.nowMs })) ∧
      (∀ m, l.changing = some m → e.nowMs < m + l.record.filter → exec (.inputFilterExpiry dt i) s = .next e) ∧
      (∀ m, l.changing = some m → m + l.record.filter ≤ e.nowMs → (l.pinHigh == l.record.activeHigh) ≠ l.filtered →
        s.Settled → l.record.function = .unused → exec (.inputFilterExpiry dt i) s
          = .next (e.setLine i { l with filtered := (l.pinHigh == l.record.activeHigh), changing := none })))

/-- R47, R49, R29: what the owner of an input does on its edge, the filter time having run. A swing pulse of a bell in service makes
it SWINGING unless LOCKED, with the quiet time three times the half-swing or 3000 ms; the rest contact's edges bring SETTLING from
UP and from AT REST; the sense line's edge within 50 ms marks the impulse as shown. (Where it goes beyond the rules it rests on the
model's choices of log entries 1, 6 and 44.) -/
def Obligations.EdgesReachTheirOwner : Prop :=
  ∀ (s : State) (dt i b : Nat), i < 64 → (s.elapse dt).filterReady i = true → s.Settled →
    (s.line i).record.bound = some b →
    let e := s.elapse dt
    let l := s.line i
    let u := e.setLine i { l with filtered := l.shown, changing := none }
    let x := s.bell b
    let half := match x.lastPulse with
      | some m => if e.nowMs ≤ m + 10000 then some (max 1 (e.nowMs - m)) else x.halfSwing
      | none => x.halfSwing
    let pulsed : Bell := { x with halfSwing := half, lastPulse := some e.nowMs, motor := x.motor.satisfy }
    (l.shown = true → l.record.function = .swingSense → b < 40 → x.config.inService = true →
      (x.swing = .locked → exec (.inputFilterExpiry dt i) s = .next (u.setBell b pulsed)) ∧
      (x.swing ≠ .locked → exec (.inputFilterExpiry dt i) s = .next (u.setBell b
        { pulsed with swing := .swinging, quietUntil := some (e.nowMs + max 3000 (3 * half.getD 0)) }))) ∧
    (l.shown = false → l.record.function = .swingSense → exec (.inputFilterExpiry dt i) s = .next u) ∧
    (l.record.function = .restSense → b < 40 → x.config.inService = true → exec (.inputFilterExpiry dt i) s
      = .next (u.setBell b
        (if l.shown = true then
          { x with restClosedSince := some e.nowMs, swing := if x.swing = .up then .settling else x.swing }
        else { x with restClosedSince := none, swing := if x.swing = .atRest then .settling else x.swing }))) ∧
    (l.record.function = .swingSense ∨ l.record.function = .restSense → x.config.inService = false →
      exec (.inputFilterExpiry dt i) s = .next u) ∧
    (∀ p, l.shown = true → l.record.function = .dialSense → b < 6 → (s.dial b).impulse = some p →
      (e.nowMs ≤ p.began + 50 → exec (.inputFilterExpiry dt i) s
        = .next (u.setDial b { s.dial b with impulse := some { p with sensed := true } })) ∧
      (p.began + 50 < e.nowMs → exec (.inputFilterExpiry dt i) s = .next u))

/-- R48, R49, R50: QUIET_TIMER_EXPIRY and SETTLE_TIME_EXPIRY. The expired quiet timer of a SWINGING bell puts it UP when its rest
contact shows open, else SETTLING. A bell in service with a sensor reaches AT REST at a SECOND at least the settle time after its last
pulse, or after it became UNKNOWN, and after its rest contact, if it has one, closed. A bell that enters UP ends its motor run with UP,
which every source is told (R56); where no pulse is held, the first condition of R49 passes (the model's choice, log entry 17). (Where
it goes beyond the rules it rests on the model's choices of log entries 1, 2, 6, 7, 17 and 66.) -/
def Obligations.SwingingBellsComeToRest : Prop :=
  ∀ (s : State) (dt b : Nat), b < 40 → s.time.power = .mains →
    let e := s.elapse dt
    let x := s.bell b
    (∀ q, s.Settled → x.quietUntil = some q →
      (x.swing = .swinging → q ≤ e.nowMs →
        (s.hasLine .restSense b = true → s.lineActive .restSense b = false → x.motor = .off →
          exec (.quietTimerExpiry dt b) s = .next (e.setBell b { x with swing := .up, quietUntil := none })) ∧
        (∀ sources, s.hasLine .restSense b = true → s.lineActive .restSense b = false →
          (∃ length since isAdmitted, x.motor = .pending length since isAdmitted sources) ∨
            (∃ energised endAt satisfied, x.motor = .running energised endAt satisfied sources) →
          exec (.quietTimerExpiry dt b) s
            = .next (State.runEnded (e.setBell b { x with swing := .up, quietUntil := none }) b sources .up).settleContexts) ∧
        (s.hasLine .restSense b = false ∨ s.lineActive .restSense b = true →
          exec (.quietTimerExpiry dt b) s = .next (e.setBell b { x with swing := .settling, quietUntil := none }))) ∧
      (x.swing ≠ .swinging ∨ e.nowMs < q → exec (.quietTimerExpiry dt b) s = .next e)) ∧
    (s.time.lastSecond ≠ some e.clock → exec (.settleTimeExpiry dt b) s = .next e) ∧
    (s.time.lastSecond = some e.clock → x.config.inService = true → x.config.sensorMode ≠ .none →
      let m := e.nowMs
      let rested := s.hasLine .restSense b = false ∨ ∃ c, x.restClosedSince = some c ∧ c + x.config.settle * 1000 ≤ m
      (x.swing = .settling → (∀ p, x.lastPulse = some p → p + x.config.settle * 1000 ≤ m) → rested →
        exec (.settleTimeExpiry dt b) s = .next (e.setBell b { x with swing := .atRest })) ∧
      (x.swing = .unknown → x.entered + x.config.settle * 1000 ≤ m → rested →
        exec (.settleTimeExpiry dt b) s = .next (e.setBell b { x with swing := .atRest })) ∧
      ((x.swing ≠ .settling ∧ x.swing ≠ .unknown) ∨ ¬rested ∨
          (x.swing = .settling ∧ ∃ p, x.lastPulse = some p ∧ m < p + x.config.settle * 1000) ∨
          (x.swing = .unknown ∧ m < x.entered + x.config.settle * 1000) →
        exec (.settleTimeExpiry dt b) s = .next e))

/-- R51, R52, R172: SWING. The first reason of R51's table that applies refuses it with WRONG STATE; else it begins a PENDING run,
admitted at once when no ask waits and the load leaves room and asking otherwise, or it extends the run there is. Lengths above 30
minutes are clamped. (Where it goes beyond the rules it rests on the model's choices of log entries 1, 4 and 23.) -/
def Obligations.SwingStartsOrExtendsOneRun : Prop :=
  ∀ (s : State) (dt b minutes : Nat), s.HostReady →
    let e := s.elapse dt
    let w := e.working (.swing b minutes)
    let x := s.bell b
    let refused (k : Nat) : Prop := exec (.swing dt b minutes) s = .next (w.answer (reply .wrongState b 0 (u8 k)))
    let done (t : State) (k : Nat) : Prop := exec (.swing dt b minutes) s = .next (t.answer (reply .done b 0 (u8 k)))
    let length := min 30 minutes
    (40 ≤ b ∨ minutes = 0 → exec (.swing dt b minutes) s = .next (w.answer (reply .badField b 0))) ∧
    (b < 40 → 1 ≤ minutes →
      (x.config.inService = false → refused 0) ∧
      (x.config.inService = true → x.config.motorRating = 0 → refused 1) ∧
      (x.config.inService = true → x.config.motorRating ≠ 0 → x.config.motorInService = false → refused 2) ∧
      (x.config.inService = true → x.config.motorRating ≠ 0 → x.config.motorInService = true →
        (x.swing = .locked → refused 3) ∧
        (x.swing = .up → refused 4) ∧
        (x.swing ≠ .locked → x.swing ≠ .up →
          (x.motor = .off → s.feeder.asks = [] → s.feeder.load + x.config.motorRating ≤ s.feeder.capacity →
            done { w.setBell b { x with motor := .pending length e.nowMs true [.command] } with
              feeder.admitted := s.feeder.admitted
                ++ [{ bell := b, rating := x.config.motorRating, awaiting := none, permitted := false }] } 1) ∧
          (x.motor = .off → (s.feeder.asks ≠ [] ∨ s.feeder.capacity < s.feeder.load + x.config.motorRating) →
            done { w.setBell b { x with motor := .pending length e.nowMs false [.command] } with
              feeder.asks := s.feeder.asks ++ [{ bell := b, rating := x.config.motorRating, since := e.nowMs }] } 1) ∧
          (∀ old since admitted sources, x.motor = .pending old since admitted sources →
            done (w.setBell b
              { x with motor := .pending (max old length) since admitted (addSource sources .command) }) 1) ∧
          (∀ energised endAt satisfied sources, x.motor = .running energised endAt satisfied sources →
            done (w.setBell b
              { x with motor := .running energised (max endAt (e.nowMs + length * 60000)) satisfied
                         (addSource sources .command) }) 2))))

/-- R53, R54, R55: PENDING_TIMEOUT, RUN_END, STALL_WATCH_EXPIRY and STOP of a bell. A run not admitted after 120 s, a run at its
end, a run without a swing pulse for 20 s and a run stopped all end, whatever their sources: the motor is OFF, the claim on the feeder
ends (R171, R173), and every source has its report, COMMAND's as the last command outcome, an action's as its outcome entry by the
table of R135, REFUSED and SKIPPED raising OCCASION OUTCOME; the action is DONE in its context, which is freed if it was the last,
FIRING giving way to ARMED or SPENT (R136). A stall also takes the motor out of service, is written and raises MOTOR FAULT. Before
their moments nothing ends, and an admitted run that is still PENDING is never timed out. (Where it goes beyond the rules it rests on
the model's choices of log entries 1, 2, 4, 10 and 66.) -/
def Obligations.MotorRunsEndInOneStep : Prop :=
  (∀ t : State, t.Settled → t.settleContexts = t) ∧
  (∀ (t : State) (b : Nat) (r : MotorReport), t.Settled → (t.runEnded b [.command] r).Settled) ∧
  ∀ (s : State) (dt b : Nat) (sources : List MotorSource), b < 40 → s.time.power = .mains →
    let e := s.elapse dt
    let stopped : Prop := exec (.stopBell dt b) s
      = .next ((State.runEnded (e.working (.stopBell b)) b sources .stopped).settleContexts.answer (reply .done b 0))
    let stalled : State :=
      let u := e.runEnded b sources .stalled
      ((u.setBell b { u.bell b with config.motorInService := false }).askWrite (.motorFault b)).raise .motorFault
    (∀ length since isAdmitted, (s.bell b).motor = .pending length since isAdmitted sources →
      (isAdmitted = false → since + 120000 ≤ e.nowMs →
        exec (.pendingTimeout dt b) s = .next (e.runEnded b sources .refusedFeeder).settleContexts) ∧
      (isAdmitted = true ∨ e.nowMs < since + 120000 → s.Settled → exec (.pendingTimeout dt b) s = .next e) ∧
      (s.HostReady → stopped)) ∧
    (∀ energised endAt satisfied, (s.bell b).motor = .running energised endAt satisfied sources →
      (endAt ≤ e.nowMs → exec (.runEnd dt b) s = .next (e.runEnded b sources .done).settleContexts) ∧
      (e.nowMs < endAt → s.Settled → exec (.runEnd dt b) s = .next e) ∧
      (satisfied = false → energised + 20000 ≤ e.nowMs → exec (.stallWatchExpiry dt b) s = .next stalled.settleContexts) ∧
      (satisfied = true ∨ e.nowMs < energised + 20000 → s.Settled → exec (.stallWatchExpiry dt b) s = .next e) ∧
      (s.HostReady → stopped)) ∧
    ((s.bell b).motor = .off → s.Settled → s.HostReady →
      exec (.stopBell dt b) s = .next ((e.working (.stopBell b)).answer (reply .done b 0))) ∧
    (s.HostReady → s.firstWaiting = none → ∃ t, exec (.stopBell dt b) s = .next t ∧ (t.bell b).motor = .off) ∧
    (∀ i r k j c a o, s.doneContext = none → s.firstWaiting = none →
      ((∃ length since, (s.bell b).motor = .pending length since false sources ∧ since + 120000 ≤ e.nowMs ∧
          i = .pendingTimeout dt b ∧ r = .refusedFeeder) ∨
        (∃ energised endAt satisfied, (s.bell b).motor = .running energised endAt satisfied sources ∧ endAt ≤ e.nowMs ∧
          i = .runEnd dt b ∧ r = .done) ∨
        (∃ energised endAt, (s.bell b).motor = .running energised endAt false sources ∧ energised + 20000 ≤ e.nowMs ∧
          i = .stallWatchExpiry dt b ∧ r = .stalled) ∨
        (((∃ length since isAdmitted, (s.bell b).motor = .pending length since isAdmitted sources) ∨
            ∃ energised endAt satisfied, (s.bell b).motor = .running energised endAt satisfied sources) ∧
          s.HostReady ∧ i = .stopBell dt b ∧ r = .stopped)) →
      sources = [.action k j] ∨ sources = [.action k j, .command] ∨ sources = [.command, .action k j] →
      k < 8 → s.context k = some c → c.actions[j]? = some a → s.findOccasion c.occasion = some o → j < o.outcome.length →
      o.state = .firing →
      let entry : OutcomeKind × Reason := match r with
        | .done => (.done, .none)
        | .stopped => (.cancelled, .none)
        | .locked => (.skipped, .locked)
        | .up => (.skipped, .up)
        | .stalled => (.skipped, .stalled)
        | .refusedFeeder => (.refused, .feeder)
      let told : Occasion :=
        { o with outcome := o.outcome.set j { kind := entry.1, note := entry.2, skipped := 0, depth := false } }
      let actions := c.actions.set j { a with phase := .done }
      ∃ t, exec i s = .next t ∧ (t.bell b).motor = .off ∧
        (t.bell b).lastOutcome = (if .command ∈ sources then some r else (s.bell b).lastOutcome) ∧
        (∀ x ∈ t.feeder.asks, x.bell ≠ b) ∧ (∀ x ∈ t.feeder.admitted, x.bell ≠ b) ∧
        (entry.1 = .refused ∨ entry.1 = .skipped → t.link.flags.getLsbD 5 = true ∧ t.link.fresh.getLsbD 5 = true) ∧
        ((∃ x ∈ actions, x.phase ≠ .done) →
          t.context k = some { c with actions := actions } ∧ t.findOccasion c.occasion = some told) ∧
        ((∀ x ∈ actions, x.phase = .done) → t.context k = none ∧ t.findOccasion c.occasion
          = some { told with context := none, state := if o.due.isSome then .armed else .spent }))

/-- R172: a try of the ask list admits its heads in order while they fit and stops at the first that does not: what is left is the
list without the asks admitted, whose runs join the admitted runs, no ask behind the head is admitted before it, and the Bell Monitor
is told of each; a try changes nothing else. R170: admission tests against the least of the stored capacity, the capacities that wait
to be written, and that of a feeder AMEND taken and not refused by the load at its taking. R171, R173: when a run's claim ends, no ask
and no admitted run of its bell is left and every other stands in its order, the load falls by the run's rating, and the list is tried
after a release and after the withdrawal of its head, and only then. -/
def Obligations.AsksAreAdmittedInOrder : Prop :=
  let run (a : Ask) : AdmittedRun := { bell := a.bell, rating := a.rating, awaiting := none, permitted := false }
  (∀ (s : State) (x : Nat), x ≤ s.admissionCapacity ↔ x ≤ s.feeder.capacity ∧
    (∀ w ∈ s.memory.writes, ∀ c, w.effect = .feeder c → x ≤ c) ∧
    ∀ q c m, s.link.inProgress = some q → q.task = .request (.amendFeeder c) → q.seen = .load m → m ≤ c → c ≤ 60000 → x ≤ c) ∧
  (∀ s : State, ∃ n, n ≤ s.feeder.asks.length ∧
    s.tryAsks.feeder.asks = s.feeder.asks.drop n ∧
    s.tryAsks.feeder.admitted = s.feeder.admitted ++ (s.feeder.asks.take n).map run ∧
    (∀ j, j < n → s.feeder.load + ((s.feeder.asks.take (j + 1)).map (·.rating)).sum ≤ s.admissionCapacity) ∧
    (∀ a, s.feeder.asks[n]? = some a →
      s.admissionCapacity < s.feeder.load + ((s.feeder.asks.take n).map (·.rating)).sum + a.rating) ∧
    s.tryAsks = { s with bells := s.tryAsks.bells, feeder.asks := s.tryAsks.feeder.asks
                         feeder.admitted := s.tryAsks.feeder.admitted } ∧
    ∀ b, b < 40 →
      ((∀ a ∈ s.feeder.asks.take n, a.bell ≠ b) → s.tryAsks.bell b = s.bell b) ∧
      ((∃ a ∈ s.feeder.asks.take n, a.bell = b) → s.tryAsks.bell b = { s.bell b with motor := match (s.bell b).motor with
        | .pending length since _ sources => .pending length since true sources
        | .off => .off
        | .running energised endAt satisfied sources => .running energised endAt satisfied sources })) ∧
  ∀ (s : State) (b : Nat),
    let left : State := { s with feeder.asks := s.feeder.asks.filter fun a => a.bell != b
                                 feeder.admitted := s.feeder.admitted.filter fun r => r.bell != b }
    let t := s.endClaim b
    ((∃ r ∈ s.feeder.admitted, r.bell = b) ∨ (∃ a rest, s.feeder.asks = a :: rest ∧ a.bell = b) → t = left.tryAsks) ∧
    ((∀ r ∈ s.feeder.admitted, r.bell ≠ b) → (∀ a rest, s.feeder.asks = a :: rest → a.bell ≠ b) → t = left) ∧
    (∀ a ∈ t.feeder.asks, a.bell ≠ b) ∧ (∀ r ∈ t.feeder.admitted, r.bell ≠ b) ∧
    (∃ n, t.feeder.asks = left.feeder.asks.drop n ∧
      t.feeder.admitted = left.feeder.admitted ++ (left.feeder.asks.take n).map run) ∧
    ∀ before r after, s.feeder.admitted = before ++ r :: after → r.bell = b → (∀ x ∈ before ++ after, x.bell ≠ b) →
      left.feeder.load + r.rating = s.feeder.load ∧
      ((∀ a ∈ s.feeder.asks, a.bell = b) → t.feeder.load + r.rating = s.feeder.load)

/-- R46, R56: every event that can change a locking condition, the filtered edge of a bell key or of the ringing switch, the AMEND of a
bell or of a line as its write ends, and a reset, leaves the bell it concerns, or every bell, LOCKED exactly while one of the
conditions holds: its host lock, an active key bound to it, or the ringing switch active with the bell in group RING. At the edge of a
key for its bell, and of the switch for every bell: a bell that enters LOCKED has its quiet timer cancelled, and its PENDING or RUNNING
run ends with LOCKED, which every source is told; one that leaves LOCKED is AT REST when in service with sensor mode NONE, and else
UNKNOWN, entered at that moment; one whose lock does not change keeps its swing state and its run, but that its ask may be admitted in
the room another's end leaves. (Where it goes beyond the rules it rests on the model's choices of log entries 1, 6, 9, 10, 12 and 66.) -/
def Obligations.LocksFollowTheirConditions : Prop :=
  ∀ (s : State) (dt i : Nat), s.firstWaiting = none →
    let e := s.elapse dt
    let u := e.setLine i { s.line i with filtered := (s.line i).shown, changing := none }
    let left (x : Bell) : Bell :=
      if x.config.inService = true ∧ x.config.sensorMode = .none then { x with swing := .atRest }
      else { x with swing := .unknown, entered := e.nowMs }
    (∀ b, i < 64 → (s.elapse dt).filterReady i = true → (s.line i).record.function = .bellKey → (s.line i).record.bound = some b → b < 40 →
      let x := s.bell b
      let locked := u.setBell b { x with swing := .locked, quietUntil := none }
      (∃ t, exec (.inputFilterExpiry dt i) s = .next t ∧ ((t.bell b).swing = .locked ↔ t.lockHeld b = true)) ∧
      (u.lockHeld b = true → x.swing ≠ .locked →
        (x.motor = .off → exec (.inputFilterExpiry dt i) s = .next locked.settleContexts) ∧
        (∀ sources, (∃ length since isAdmitted, x.motor = .pending length since isAdmitted sources) ∨
            (∃ energised endAt satisfied, x.motor = .running energised endAt satisfied sources) →
          exec (.inputFilterExpiry dt i) s = .next (locked.runEnded b sources .locked).settleContexts)) ∧
      (u.lockHeld b = false → x.swing = .locked → exec (.inputFilterExpiry dt i) s = .next (u.setBell b (left x)).settleContexts) ∧
      ((u.lockHeld b = true ↔ x.swing = .locked) → exec (.inputFilterExpiry dt i) s = .next u.settleContexts)) ∧
    (i < 64 → (s.elapse dt).filterReady i = true → (s.line i).record.function = .ringingSwitch →
      ∃ t, exec (.inputFilterExpiry dt i) s = .next t ∧ ∀ b, b < 40 → ((t.bell b).swing = .locked ↔ t.lockHeld b = true) ∧
        let x := s.bell b
        let kept : Prop := (t.bell b).motor = x.motor ∨ ∃ length since sources,
          x.motor = .pending length since false sources ∧ (t.bell b).motor = .pending length since true sources
        (u.lockHeld b = true → x.swing ≠ .locked →
          (x.motor = .off → t.bell b = { x with swing := .locked, quietUntil := none }) ∧
          (∀ sources, (∃ length since isAdmitted, x.motor = .pending length since isAdmitted sources) ∨
              (∃ energised endAt satisfied, x.motor = .running energised endAt satisfied sources) →
            t.bell b = { x with swing := .locked, quietUntil := none, motor := .off
                                lastOutcome := if .command ∈ sources then some .locked else x.lastOutcome } ∧
            (∀ a ∈ t.feeder.asks, a.bell ≠ b) ∧ (∀ r ∈ t.feeder.admitted, r.bell ≠ b) ∧
            ∀ k j c o, .action k j ∈ sources → s.context k = some c → s.findOccasion c.occasion = some o → o.state = .firing →
              j < o.outcome.length → ∃ z, t.findOccasion c.occasion = some z ∧
                z.outcome[j]? = some { kind := .skipped, note := .locked, skipped := 0, depth := false })) ∧
        (u.lockHeld b = false → x.swing = .locked → kept ∧ t.bell b = { left x with motor := (t.bell b).motor }) ∧
        ((u.lockHeld b = true ↔ x.swing = .locked) → kept ∧ t.bell b = { x with motor := (t.bell b).motor })) ∧
    (∀ b c x rest, s.time.power = .mains → b < 40 → s.memory.writes = { effect := .bell b c, response := x } :: rest →
      ∃ t, exec (.recordMemoryWriteEnd dt) s = .next t ∧ ((t.bell b).swing = .locked ↔ t.lockHeld b = true)) ∧
    (∀ j r x rest, s.time.power = .mains → s.memory.writes = { effect := .line j r, response := x } :: rest →
      ∃ t, exec (.recordMemoryWriteEnd dt) s = .next t ∧ ∀ b, b < 40 → ((t.bell b).swing = .locked ↔ t.lockHeld b = true)) ∧
    (∀ cold keepStart b, b < 40 →
      let t := s.takeResetValues cold keepStart
      ((t.bell b).swing = .locked ↔ t.lockHeld b = true)) ∧
    (∀ (t : State) (b : Nat), t.lockHeld b = true ↔
      (t.bell b).config.hostLock = true ∨
      (∃ j, j < 64 ∧ (t.line j).record.function = .bellKey ∧ (t.line j).record.bound = some b ∧ (t.line j).filtered = true) ∨
      ((t.bell b).config.group = .ring ∧
        ∃ j, j < 64 ∧ (t.line j).record.function = .ringingSwitch ∧ (t.line j).filtered = true))

/-! ## Hammers (chapter 4) -/

/-- R60, R61, R62, R69: RAISE_MOMENT of a REQUESTED stroke whose line is not raised. Due, with the gate CLOSED, the line rises when
the bell is AT REST and its hammer in service, the stroke STRIKING at once without feedback; else the blow is LOCKED, which the
requester counts as skipped while it is the performance or the toll that asked, and the machine is IDLE; a toll that has ended is not
counted for (R109), whatever toll its channel has taken since. Not due, or with the gate HOLDING, nothing happens. (Where it goes
beyond the rules it rests on the model's choices of log entries 1, 2 and 31.) -/
def Obligations.RaiseMomentStrikesOrLocks : Prop :=
  ∀ (s : State) (dt b : Nat), b < 40 → s.time.power = .mains →
    let e := s.elapse dt
    (∀ k, s.stroke b = .requested k → k.raised = false →
      let up : Stroke := { k with raised := true, risenAt := e.nowMs, lineActive := true }
      let locked := e.setStroke b .idle
      (e.nowMs + k.lead < k.sounding ∨ s.hammers.gate = .holding → exec (.raiseMoment dt b) s = .next e) ∧
      (k.sounding ≤ e.nowMs + k.lead → s.hammers.gate = .closed →
        ((s.bell b).swing = .atRest → (s.bell b).config.hammerInService = true →
          (k.feedback = .none → exec (.raiseMoment dt b) s = .next (e.setStroke b (.striking up))) ∧
          (k.feedback = .busy → exec (.raiseMoment dt b) s = .next (e.setStroke b (.requested up)))) ∧
        ((s.bell b).swing ≠ .atRest ∨ (s.bell b).config.hammerInService = false →
          (∀ n p, k.requester = .performance n → s.chime.performance = some p → p.entry.arrival = n →
            exec (.raiseMoment dt b) s = .next
              { locked with chime.performance := some { p with skipped := min 65535 (p.skipped + 1) } }) ∧
          (∀ n, k.requester = .performance n → (∀ p, s.chime.performance = some p → p.entry.arrival ≠ n) →
            exec (.raiseMoment dt b) s = .next locked) ∧
          (∀ c run u, k.requester = .toll c run → s.toll c = some u → u.run = run →
            exec (.raiseMoment dt b) s = .next (locked.setToll c (some { u with skipped := u.skipped + 1 }))) ∧
          (∀ c run, k.requester = .toll c run → (∀ u, s.toll c = some u → u.run ≠ run) →
            exec (.raiseMoment dt b) s = .next locked)))) ∧
    ((∀ k, s.stroke b = .requested k → k.raised = true) → exec (.raiseMoment dt b) s = .next e)

/-- R59, R101, R107, R108: BLOW_REQUEST_MOMENT and TOLL_REQUEST_MOMENT. A blow whose request moment has come leaves its schedule. A
performance's blow on a bell a toll claims is skipped. Else an IDLE machine, the gate CLOSED, takes the request with what it
captures from the bell record; when its raise moment has come the line rises at once, or the blow is LOCKED where the bell is not AT
REST or its hammer out of service. Anything else clips it. CLIPPED and LOCKED are skips. Before the moment, or with no blow
scheduled, nothing happens. (Where it goes beyond the rules it rests on the model's choices of log entries 1, 2, 31 and 64.) -/
def Obligations.BlowsAreRequestedOrSkipped : Prop :=
  ∀ (s : State) (dt : Nat), s.time.power = .mains →
    let e := s.elapse dt
    let captured (b : ScheduledBlow) (r : Requester) : Stroke :=
      let c := (s.bell b.bell).config
      { sounding := b.sounding, velocity := b.velocity, requester := r, lead := c.lead
        width := match b.velocity with
          | 0 => c.velocity0
          | 1 => c.velocity1
          | 2 => c.velocity2
          | _ => c.velocity3
        feedback := c.feedback, repeatInterval := c.repeatInterval, raised := false, risenAt := 0, lineActive := false }
    let open_ (b : Nat) : Prop := s.hammers.gate = .closed ∧ s.hasLine .hammerStrike b = true ∧ s.stroke b = .idle
    let strikes (b : Nat) : Prop := (s.bell b).swing = .atRest ∧ (s.bell b).config.hammerInService = true
    let raised (k : Stroke) : StrokeState :=
      let up : Stroke := { k with raised := true, risenAt := e.nowMs, lineActive := true }
      if k.feedback = .none then .striking up else .requested up
    (∀ p b rest, s.chime.performance = some p → p.blows = b :: rest →
      let left : Performance := { p with blows := rest }
      let skipped : State := { e with chime.performance := some { left with skipped := min 65535 (p.skipped + 1) } }
      (e.nowMs < b.requestAt → exec (.blowRequestMoment dt) s = .next e) ∧
      (b.requestAt ≤ e.nowMs → (∃ c u, c < 2 ∧ s.toll c = some u ∧ u.bell = b.bell) →
        exec (.blowRequestMoment dt) s = .next skipped) ∧
      (b.requestAt ≤ e.nowMs → (∀ c u, c < 2 → s.toll c = some u → u.bell ≠ b.bell) →
        (¬open_ b.bell → exec (.blowRequestMoment dt) s = .next skipped) ∧
        (open_ b.bell → b.bell < 40 →
          let k := captured b (.performance p.entry.arrival)
          (e.nowMs + k.lead < b.sounding → exec (.blowRequestMoment dt) s
            = .next (State.setStroke { e with chime.performance := some left } b.bell (.requested k))) ∧
          (b.sounding ≤ e.nowMs + k.lead → strikes b.bell → exec (.blowRequestMoment dt) s
            = .next (State.setStroke { e with chime.performance := some left } b.bell (raised k))) ∧
          (b.sounding ≤ e.nowMs + k.lead → ¬strikes b.bell → exec (.blowRequestMoment dt) s
            = .next (skipped.setStroke b.bell .idle))))) ∧
    ((∀ p, s.chime.performance = some p → p.blows = []) → exec (.blowRequestMoment dt) s = .next e) ∧
    (∀ c u b, c < 2 → s.toll c = some u → u.scheduled = some b →
      let left := e.setToll c (some { u with scheduled := none })
      (e.nowMs < b.requestAt → exec (.tollRequestMoment dt c) s = .next e) ∧
      (b.requestAt ≤ e.nowMs →
        (¬open_ b.bell → exec (.tollRequestMoment dt c) s
          = .next (e.setToll c (some { u with scheduled := none, skipped := u.skipped + 1 }))) ∧
        (open_ b.bell → b.bell < 40 →
          let k := captured b (.toll c u.run)
          (e.nowMs + k.lead < b.sounding → exec (.tollRequestMoment dt c) s
            = .next (left.setStroke b.bell (.requested k))) ∧
          (b.sounding ≤ e.nowMs + k.lead → strikes b.bell → exec (.tollRequestMoment dt c) s
            = .next (left.setStroke b.bell (raised k))) ∧
          (b.sounding ≤ e.nowMs + k.lead → ¬strikes b.bell → exec (.tollRequestMoment dt c) s
            = .next ((e.setToll c (some { u with scheduled := none, skipped := u.skipped + 1 })).setStroke b.bell .idle))))) ∧
    (∀ c, c < 2 → (∀ u, s.toll c = some u → u.scheduled = none) → exec (.tollRequestMoment dt c) s = .next e)

/-- R61 to R64: PULSE_END, RECOVERY_END and the edges of the BUSY line of a stroke under way. The strike line is released when the
pulse width has passed; without feedback the stroke ends then, and with it when BUSY falls, into RECOVERING until the repeat
interval has passed, and then IDLE. A BUSY edge within 50 ms of the rise is the answer that makes a stroke STRIKING. (Where it goes
beyond the rules it rests on the model's choices of log entries 1, 2 and 16.) -/
def Obligations.StrokesRunTheirCourse : Prop :=
  ∀ (s : State) (dt b : Nat), b < 40 → s.time.power = .mains →
    let e := s.elapse dt
    let ended (u : State) (k : Stroke) : State :=
      u.setStroke b (.recovering { k with lineActive := false } (e.nowMs + k.repeatInterval))
    (∀ k, s.stroke b = .striking k →
      (k.lineActive = true → k.risenAt + k.width ≤ e.nowMs →
        (k.feedback = .none → exec (.pulseEnd dt b) s = .next (ended e k)) ∧
        (k.feedback = .busy → exec (.pulseEnd dt b) s = .next (e.setStroke b (.striking { k with lineActive := false })))) ∧
      (k.lineActive = false ∨ e.nowMs < k.risenAt + k.width → exec (.pulseEnd dt b) s = .next e)) ∧
    (∀ k, s.stroke b = .requested k →
      (k.lineActive = true → k.risenAt + k.width ≤ e.nowMs →
        exec (.pulseEnd dt b) s = .next (e.setStroke b (.requested { k with lineActive := false }))) ∧
      (k.lineActive = false ∨ e.nowMs < k.risenAt + k.width → exec (.pulseEnd dt b) s = .next e)) ∧
    (∀ k endAt, s.stroke b = .recovering k endAt →
      (endAt ≤ e.nowMs → exec (.recoveryEnd dt b) s = .next (e.setStroke b .idle)) ∧
      (e.nowMs < endAt → exec (.recoveryEnd dt b) s = .next e)) ∧
    (∀ i k, i < 64 → e.filterReady i = true → s.Settled → (s.line i).record.function = .hammerBusy →
      (s.line i).record.bound = some b →
      let u := e.setLine i { s.line i with filtered := (s.line i).shown, changing := none }
      ((s.line i).shown = true → s.stroke b = .requested k → k.raised = true →
        (e.nowMs ≤ k.risenAt + 50 → exec (.inputFilterExpiry dt i) s = .next (u.setStroke b (.striking k))) ∧
        (k.risenAt + 50 < e.nowMs → exec (.inputFilterExpiry dt i) s = .next u)) ∧
      ((s.line i).shown = false → s.stroke b = .striking k →
        (k.feedback = .busy → exec (.inputFilterExpiry dt i) s = .next (ended u k)) ∧
        (k.feedback = .none → exec (.inputFilterExpiry dt i) s = .next u)))

/-- R62, R63, R65, R66: NO_ANSWER, STUCK and an UNSOLICITED answer each fault the hammer: its machine is in FAULT, its hammer out of
service with the reason, the record is written and HAMMER FAULT is raised. Before their moments nothing happens. (Where it goes
beyond the rules it rests on the model's choices of log entries 1, 2 and 13.) -/
def Obligations.HammerFaultsTakeItOutOfService : Prop :=
  ∀ (s : State) (dt b : Nat), b < 40 → s.time.power = .mains →
    let e := s.elapse dt
    let faulted (u : State) (f : HammerFault) : State :=
      (((u.setStroke b .fault).setBell b
        { s.bell b with config.hammerInService := false, hammerFault := some f }).askWrite (.hammerFault b f)).raise .hammerFault
    (∀ k, s.stroke b = .requested k →
      (k.raised = true → k.risenAt + 50 ≤ e.nowMs → exec (.noAnswer dt b) s = .next (faulted e .noAnswer)) ∧
      (k.raised = false ∨ e.nowMs < k.risenAt + 50 → exec (.noAnswer dt b) s = .next e)) ∧
    (∀ k, s.stroke b = .striking k →
      (k.feedback = .busy → s.lineActive .hammerBusy b = true → k.risenAt + 400 ≤ e.nowMs →
        exec (.stuck dt b) s = .next (faulted e .stuck)) ∧
      (k.feedback = .none ∨ s.lineActive .hammerBusy b = false ∨ e.nowMs < k.risenAt + 400 →
        exec (.stuck dt b) s = .next e)) ∧
    (∀ i, i < 64 → e.filterReady i = true → s.Settled → (s.line i).record.function = .hammerBusy →
      (s.line i).record.bound = some b → (s.line i).shown = true → (s.bell b).config.feedback = .busy →
      (s.stroke b = .idle ∨ (∃ k endAt, s.stroke b = .recovering k endAt) ∨ ∃ k, s.stroke b = .requested k ∧ k.raised = false) →
      exec (.inputFilterExpiry dt i) s
        = .next (faulted (e.setLine i { s.line i with filtered := (s.line i).shown, changing := none }) .unsolicited))

/-! ## Host requests in common (chapter 11, R73, R184) -/

/-- R179 to R182: a request that comes with the link OPEN, in MAINS, is taken and worked at once, the response that was waiting
having been collected; with the link CLOSED it is discarded; in RESERVE, and while SEL is asserted already, no frame is taken.
(Where it goes beyond the rules it rests on the model's choices of log entries 1 and 4.) -/
def Obligations.RequestsAreTakenWhenOpen : Prop :=
  ∀ (s : State) (dt : Nat) (r : Request),
    (s.HostReady → exec (commandOf dt r) s = .next (((s.elapse dt).working r).work r)) ∧
    (s.time.power = .reserve ∨ s.link.sel = true → exec (commandOf dt r) s = .next (s.elapse dt)) ∧
    (s.time.power = .mains → s.link.sel = false →
      (s.link.inProgress ≠ none ∨ s.memory.writes ≠ [] ∨ s.hammers.gate = .holding) →
      exec (commandOf dt r) s = .next { s.elapse dt with link.waiting := none })

/-- R73: a request about a tune, an occasion or a scene is answered BAD FIELD when its handle is out of range (a slot the class does
not have, or a generation outside 1 to 255), and NO RECORD when the slot is free or its generation is another; nothing is changed.
(Where it goes beyond the rules it rests on the model's choices of log entries 1, 4 and 33.) -/
def Obligations.StaleHandlesReachNothing : Prop :=
  ∀ (s : State) (dt : Nat) (h : Handle) (steps : List Step) (label : Label) (mode : RetireMode) (c : OccasionConfig)
    (x : SceneConfig), s.HostReady →
    let bad (r : Request) : Prop :=
      exec (commandOf dt r) s = .next (((s.elapse dt).working r).answer (reply .badField h.slot h.gen))
    let stale (r : Request) : Prop :=
      exec (commandOf dt r) s = .next (((s.elapse dt).working r).answer (reply .noRecord h.slot h.gen))
    let outside (n : Nat) : Prop := n ≤ h.slot ∨ h.gen = 0 ∨ 255 < h.gen
    (∀ r ∈ [Request.appendSteps h steps, .closeTune h, .retireTune h mode, .amendTune h label, .lookUpTune h none,
        .readStateTune h],
      (outside 64 → bad r) ∧
      (¬outside 64 → ((s.tuneSlot h.slot).record = none ∨ (s.tuneSlot h.slot).gen ≠ h.gen) → stale r)) ∧
    (∀ r ∈ [Request.suspend h, .resume h, .retireGentle h, .retireAbrupt h, .amendOccasion h c, .lookUpOccasion h,
        .readStateOccasion h],
      (outside 256 → bad r) ∧
      (¬outside 256 → ((s.occasionSlot h.slot).record = none ∨ (s.occasionSlot h.slot).gen ≠ h.gen) → stale r)) ∧
    (∀ r ∈ [Request.raiseScene h none, .lowerScene h, .retireScene h mode, .amendScene h x, .lookUpScene h, .readStateScene h],
      (outside 32 → bad r) ∧
      (¬outside 32 → ((s.sceneSlot h.slot).record = none ∨ (s.sceneSlot h.slot).gen ≠ h.gen) → stale r))

/-! ## Tune Library (chapter 5) -/

/-- R74: OPEN TUNE takes the lowest free slot, advances its generation, 255 being followed by 1, and makes an empty DRAFT there, which
is written; DONE comes at the write's end. With every slot occupied it is answered FULL, with a label of more than 16 characters BAD
FIELD. R76: APPEND STEPS is refused with the first that applies of WRONG STATE, BAD FIELD, FULL and POOL FULL, nothing then changed, a
batch being valid with 1 to 32 steps each inside the ranges of R75; else the batch follows the tune's last step, leaves the free
steps, and is written, and DONE carries the step count and the free steps. (Where it goes beyond the rules it rests on the model's
choices of log entries 1, 4, 12, 13 and 23.) -/
def Obligations.TunesAreOpenedAndFilled : Prop :=
  (∀ (s : State) (dt : Nat) (label : Label), s.HostReady →
    let w := (s.elapse dt).working (.openTune label)
    (16 < label.length → exec (.openTune dt label) s = .next (w.answer (reply .badField 0 0))) ∧
    (label.length ≤ 16 →
      (∀ i, i < 64 → (s.tuneSlot i).record = none → (∀ j, j < i → (s.tuneSlot j).record ≠ none) →
        let gen := if (s.tuneSlot i).gen < 255 then (s.tuneSlot i).gen + 1 else 1
        exec (.openTune dt label) s = .next
          { w.setTuneSlot i { gen := gen, record := some { label := label, state := .draft, steps := [], refs := 0 } } with
            memory.writes := [{ effect := .stored (.tune i), response := some (reply .done i gen) }] }) ∧
      ((∀ j, j < 64 → (s.tuneSlot j).record ≠ none) → exec (.openTune dt label) s = .next (w.answer (reply .full 0 0))))) ∧
  (∀ (s : State) (dt : Nat) (h : Handle) (t : Tune) (batch : List Step), s.HostReady → h.slot < 64 → 1 ≤ h.gen → h.gen ≤ 255 →
    s.findTune h = some t →
    let w := (s.elapse dt).working (.appendSteps h batch)
    let refused (x : Status) : Prop := exec (.appendSteps dt h batch) s = .next (w.answer (reply x h.slot h.gen))
    let valid : Prop := 1 ≤ batch.length ∧ batch.length ≤ 32 ∧ ∀ x ∈ batch, stepOk x = true
    (t.state ≠ .draft → refused .wrongState) ∧
    (t.state = .draft → ¬valid → refused .badField) ∧
    (t.state = .draft → valid → 512 < t.steps.length + batch.length → refused .full) ∧
    (t.state = .draft → valid → t.steps.length + batch.length ≤ 512 → s.tunes.freeSteps < batch.length → refused .poolFull) ∧
    (t.state = .draft → valid → t.steps.length + batch.length ≤ 512 → batch.length ≤ s.tunes.freeSteps →
      exec (.appendSteps dt h batch) s = .next
        { w.setTuneSlot h.slot { gen := h.gen, record := some { t with steps := t.steps ++ batch } } with
          tunes.freeSteps := s.tunes.freeSteps - batch.length
          memory.writes := [{ effect := .stored (.tune h.slot)
                              response := some (reply .done h.slot h.gen
                                (u16 (t.steps.length + batch.length) ++ u16 (s.tunes.freeSteps - batch.length))) }] })) ∧
  (∀ x : Step, stepOk x = true ↔ match x with
    | .note degrees velocity duration => 1 ≤ degrees.length ∧ degrees.length ≤ 4 ∧ (∀ k ∈ degrees, k < 32) ∧ degrees.Nodup ∧
      velocity ≤ 3 ∧ 1 ≤ duration ∧ duration ≤ 6000
    | .rest duration => 1 ≤ duration ∧ duration ≤ 6000
    | .call h repeats => h.slot < 64 ∧ 1 ≤ h.gen ∧ h.gen ≤ 255 ∧ 1 ≤ repeats ∧ repeats ≤ 16) ∧
  (∀ (s : State) (dt taken : Nat) (h : Handle) (t : Tune) (v : Seen), s.time.power = .mains → h.slot < 64 → 1 ≤ h.gen →
    h.gen ≤ 255 → s.findTune h = some t →
    s.link.inProgress = some { task := .badSteps h, phase := .ready, taken := taken, seen := v } →
    exec (.requestRouted dt) s
      = .next ((s.elapse dt).answer (reply (if t.state = .draft then .badField else .wrongState) h.slot h.gen)))

/-- R78, R79, R80, R83: CLOSE TUNE makes a DRAFT with a step LIVE, AMEND changes a label, RETIRE frees a DRAFT or an unreferenced
tune, its steps going back to the pool and its slot keeping its generation, and makes a referenced one RETIRING. Each is written,
and refused in the states its rule names. That the state is judged before the label is the model's choice, log entry 33. (Where it
goes beyond the rules it rests on the model's choices of log entries 1, 4, 12, 13, 23, 33 and 37.) -/
def Obligations.TunesLiveAndRetire : Prop :=
  ∀ (s : State) (dt : Nat) (h : Handle) (t : Tune) (mode : RetireMode) (label : Label), s.HostReady → h.slot < 64 →
    1 ≤ h.gen → h.gen ≤ 255 → s.findTune h = some t →
    let e := s.elapse dt
    let close := e.working (.closeTune h)
    let amend := e.working (.amendTune h label)
    let retire := e.working (.retireTune h mode)
    let written (p : List Byte) : List Write :=
      [{ effect := .stored (.tune h.slot), response := some (reply .done h.slot h.gen p) }]
    (t.state ≠ .draft → exec (.closeTune dt h) s = .next (close.answer (reply .wrongState h.slot h.gen))) ∧
    (t.state = .draft → t.steps = [] → exec (.closeTune dt h) s = .next (close.answer (reply .badField h.slot h.gen))) ∧
    (t.state = .draft → t.steps ≠ [] → exec (.closeTune dt h) s = .next
      { close.setTuneSlot h.slot { gen := h.gen, record := some { t with state := .live } } with memory.writes := written [] }) ∧
    (t.state = .retiring → exec (.amendTune dt h label) s = .next (amend.answer (reply .wrongState h.slot h.gen)) ∧
      exec (.retireTune dt h mode) s = .next (retire.answer (reply .wrongState h.slot h.gen))) ∧
    (t.state ≠ .retiring → 16 < label.length →
      exec (.amendTune dt h label) s = .next (amend.answer (reply .badField h.slot h.gen))) ∧
    (t.state ≠ .retiring → label.length ≤ 16 → exec (.amendTune dt h label) s = .next
      { amend.setTuneSlot h.slot { gen := h.gen, record := some { t with label := label } } with memory.writes := written [] }) ∧
    ((t.state = .draft ∨ (t.state = .live ∧ t.refs = 0)) → exec (.retireTune dt h mode) s = .next
      { retire.setTuneSlot h.slot { gen := h.gen, record := none } with
        tunes.freeSteps := s.tunes.freeSteps + t.steps.length, memory.writes := written (u8 0) }) ∧
    (t.state = .live → t.refs ≠ 0 → exec (.retireTune dt h mode) s = .next
      { retire.setTuneSlot h.slot { gen := h.gen, record := some { t with state := .retiring } } with
        memory.writes := written (u8 1 ++ u8 t.refs) })

/-- R86: a degree plus the transposition inside 0 to 31 answers with the bell of the map's entry, or SKIPPED UNMAPPED where the entry
holds nothing; outside it answers SKIPPED OUT OF RANGE. R85: an AMEND of the map sets the degrees it names and no other. -/
def Obligations.ChimeMapAnswersEachDegree : Prop :=
  (∀ (t : TuneLibrary) (transposition : Int) (degree k : Nat), (degree : Int) + transposition = (k : Int) → k < 32 →
    (∀ b, t.chimeMap.getD k none = some b → t.lookUp transposition degree = .bell b) ∧
    (t.chimeMap.getD k none = none → t.lookUp transposition degree = .unmapped)) ∧
  (∀ (t : TuneLibrary) (transposition : Int) (degree : Nat),
    (degree : Int) + transposition < 0 ∨ 31 < (degree : Int) + transposition →
      t.lookUp transposition degree = .outOfRange) ∧
  (∀ (m : Vector (Option Nat) 32) (pairs : List (Nat × Option Nat)) (k : Nat), k < 32 → (pairs.map (·.1)).Nodup →
    (∀ x, (k, x) ∈ pairs → (setDegrees m pairs).getD k none = x) ∧
    ((∀ x, (k, x) ∉ pairs) → (setDegrees m pairs).getD k none = m.getD k none))

/-! ## Chime Sequencer (chapter 6) -/

/-- R89: the entry number an arrival is given is 1 to 65535 and held by no queued entry and not by the performance; it is the one
after the last given, 65535 being followed by 1, when that is held by none. R90, R93: an arrival put in its place keeps the queue in
queue order (higher priority first, then smaller arrival sequence), the other entries as they were; and the loser of a queue in order,
the latest arrival of the lowest priority present, is its last entry. -/
def Obligations.EntriesAreNumberedAndRanked : Prop :=
  (∀ c : ChimeSequencer, c.queue.length ≤ 8 →
    let next := if c.lastEntryNumber < 65535 then c.lastEntryNumber + 1 else 1
    1 ≤ c.nextNumber ∧ c.nextNumber ≤ 65535 ∧ (∀ e ∈ c.queue, e.number ≠ c.nextNumber) ∧
    (∀ p, c.performance = some p → p.entry.number ≠ c.nextNumber) ∧
    ((∀ e ∈ c.queue, e.number ≠ next) → (∀ p, c.performance = some p → p.entry.number ≠ next) → c.nextNumber = next)) ∧
  (∀ (q : List Entry) (e : Entry),
    q.Pairwise (fun a b => b.priority < a.priority ∨ (a.priority = b.priority ∧ a.arrival < b.arrival)) →
    ((∀ x ∈ q, x.arrival ≠ e.arrival) →
      (insertEntry q e).Pairwise (fun a b => b.priority < a.priority ∨ (a.priority = b.priority ∧ a.arrival < b.arrival))) ∧
    (insertEntry q e).Perm (e :: q) ∧ ((insertEntry q e).filter (fun x => x != e)) = q.filter (fun x => x != e) ∧
    loser q = q.getLast? ∧
    (∀ x, loser q = some x → ∀ y ∈ q, x.priority < y.priority ∨ (x.priority = y.priority ∧ y.arrival ≤ x.arrival)))

/-- R81, R89, R91 to R95, R104, R111: PLAY. A tune gone or not LIVE is answered NO RECORD or WRONG STATE. With no performance and an
empty queue the entry is the performance at once, its first sounding instant 400 ms on; with a performance it takes its place in a
queue that has room, pre-empting at the next step boundary one that yields at a lower priority; a full queue refuses it with FULL,
and drops the reference it took, unless it outranks the loser, which then leaves: its source, whichever it is, receives REFUSED FULL
and its reference is dropped (what either does is said in EndMomentClosesThePerformance and MarksOfferTheirEntries). Each takes the
next entry number and, when placed, a reference.
That the last command outcome is also set by a PLAY refused at its arrival, with skipped count 0 and depth flag no, is the model's,
log entry 42. (Where it goes beyond the rules it rests on the model's choices of log entries 1, 4, 12, 23, 33 and 42.) -/
def Obligations.PlayOffersAnEntry : Prop :=
  ∀ (s : State) (dt : Nat) (h : Handle) (transposition : Int) (repeats priority : Nat) (yields : Bool),
    s.HostReady → s.Settled →
    let e := s.elapse dt
    let w := e.working (.play h transposition repeats priority yields)
    let run := exec (.play dt h transposition repeats priority yields) s
    let n := s.chime.nextNumber
    let counted : State := { w with chime.lastEntryNumber := n, chime.lastArrival := s.chime.lastArrival + 1 }
    let entry : Entry :=
      { number := n, source := .command, content := .tune h, transposition := transposition, repeats := repeats
        priority := priority, yields := yields, expiry := none, leadIn := 0, arrival := s.chime.lastArrival + 1
        resume := none, started := false }
    let playing : Performance :=
      { entry := { entry with started := true }, ending := none, stopPending := false, preemptPending := false
        dequeued := e.nowMs, start := e.nowMs + 400, nextSounding := e.nowMs + 400
        cursor := { tune := h, step := 1 }, stack := []
        passes := if repeats = 0 then .untilStopped else .left (repeats - 1), ticks := 0, passTested := true
        hourTaken := 0, blows := [], skipped := 0, depth := false, resume := none }
    let failed (r : EntryReport) : State :=
      { counted with chime.lastOutcome := some { what := .entry n, report := r, skipped := 0, depth := false } }
    let refs (t : Tune) : State :=
      counted.setTuneSlot h.slot { gen := h.gen, record := some { t with refs := t.refs + 1 } }
    let fields : Prop := h.slot < 64 ∧ 1 ≤ h.gen ∧ h.gen ≤ 255 ∧ -16 ≤ transposition ∧ transposition ≤ 16 ∧ repeats ≤ 99 ∧
      priority ≤ 7
    (¬fields → run = .next (w.answer (reply .badField h.slot h.gen))) ∧
    (fields → s.findTune h = none → run = .next ((failed .gone).answer (reply .noRecord h.slot h.gen))) ∧
    (∀ t, fields → s.findTune h = some t →
      (t.state ≠ .live → run = .next ((failed .notLive).answer (reply .wrongState h.slot h.gen))) ∧
      (t.state = .live → s.chime.performance = none → s.chime.queue = [] → run = .next (State.answer
        { refs t with chime.performance := some playing }
        (reply .done h.slot h.gen (u16 n ++ u8 0)))) ∧
      (∀ p, t.state = .live → s.chime.performance = some p → s.chime.queue.length < 8 → p.entry.number ≠ n →
        run = .next (State.answer
          { refs t with
            chime.queue := insertEntry s.chime.queue entry
            chime.performance := some (if p.ending = none ∧ p.entry.priority < priority ∧ p.entry.yields = true then
              { p with preemptPending := true } else p) }
          (reply .done h.slot h.gen (u16 n ++ u8 1)))) ∧
      (∀ p x, t.state = .live → s.chime.performance = some p → 8 ≤ s.chime.queue.length → loser s.chime.queue = some x →
        (x.priority < priority → p.entry.number ≠ n →
          let left := s.chime.queue.filter fun y => y.number != x.number
          let dropped : State := (State.reportEntry { refs t with chime.queue := left } x .refusedFull).dropEntryRef x
          let placed : State :=
            { dropped with
              chime.queue := insertEntry left entry
              chime.performance := some (if p.ending = none ∧ p.entry.priority < priority ∧ p.entry.yields = true then
                { p with preemptPending := true } else p) }
          run = .next (placed.settleContexts.answer (reply .done h.slot h.gen (u16 n ++ u8 1))) ∧
          (x.source = .command → ∃ u, run = .next u ∧ u.link.inProgress = none ∧ u.chime.queue = insertEntry left entry ∧
            u.chime.lastOutcome = some { what := .entry x.number, report := .refusedFull, skipped := 0, depth := false })) ∧
        (priority ≤ x.priority → x.arrival ≤ s.chime.lastArrival →
          run = .next ((failed .refusedFull).answer (reply .full h.slot h.gen)))))

/-- R96 to R100, R103, R104: STEP_BOUNDARY, 400 ms before the next sounding instant of a PLAYING performance. A stop that waits ends
it STOPPED; a pre-emption that waits ends it PRE-EMPTED, with a resume point, while the head of the queue still has the higher
priority. Else the walk goes on to the next timed step: a REST lets its time pass, a NOTE of one degree schedules its blow at its
sounding instant less the bell's lead or skips it, a NOTE of several schedules each bell it names once, in the order of the request
moments, and counts every other degree skipped, a CALL of a LIVE tune enters it, to go on after the CALL when its repeats are done,
and one of any other is skipped; a callee that is gone is left for its caller whatever repeats it had left, and no skip is counted;
the end of the tune begins the next pass, as often as it comes for an entry UNTIL STOPPED, or ends it DONE when none is left or the
last brought no ticks. Before the boundary nothing happens. (Where it goes beyond the rules it rests on the model's choices of log
entries 1, 2, 11 and 64.) -/
def Obligations.StepBoundaryWalksOneTimedStep : Prop :=
  ∀ (s : State) (dt : Nat) (p : Performance), s.time.power = .mains → s.chime.performance = some p → p.ending = none →
    let e := s.elapse dt
    let become (q : Performance) : Prop := exec (.stepBoundary dt) s = .next { e with chime.performance := some q }
    let headOutranks : Prop := ∃ x, s.chime.queue.head? = some x ∧ p.entry.priority < x.priority
    let calm : Performance := { p with preemptPending := false }
    let after (q : Performance) (c : Cursor) (duration : Nat) : Performance :=
      { q with cursor := c, nextSounding := p.nextSounding + duration * 10, ticks := q.ticks + duration }
    let c := p.cursor
    let next : Cursor := { tune := c.tune, step := c.step + 1 }
    (e.nowMs + 400 < p.nextSounding → exec (.stepBoundary dt) s = .next e) ∧
    (p.nextSounding ≤ e.nowMs + 400 →
      (p.stopPending = true → become { p with ending := some .stopped }) ∧
      (p.stopPending = false → p.preemptPending = true → headOutranks → become
        { p with ending := some .preEmpted
                 resume := some { cursor := p.cursor, stack := p.stack, passes := p.passes, skipped := p.skipped
                                  depth := p.depth } }) ∧
      (p.stopPending = false → (p.preemptPending = false ∨ ¬headOutranks) →
        (∀ bell blows interval velocity, p.entry.content = .hourStrike bell blows interval velocity →
          (p.hourTaken = blows → become { calm with ending := some .done }) ∧
          (p.hourTaken < blows → p.blows = [] → become
            { calm with hourTaken := p.hourTaken + 1, nextSounding := p.nextSounding + interval * 10
                        blows := [{ bell := bell, sounding := p.nextSounding, velocity := velocity
                                    requestAt := p.nextSounding - (s.bell bell).config.lead }] })) ∧
        (∀ h, p.entry.content = .tune h →
          (∀ z d, s.readStep c.tune c.step = .step z (.rest d) → become (after calm next d)) ∧
          (∀ z k v d b, s.readStep c.tune c.step = .step z (.note [k] v d) → p.blows = [] →
            s.tunes.lookUp p.entry.transposition k = .bell b → become (after
              { calm with blows := [{ bell := b, sounding := p.nextSounding, velocity := v
                                      requestAt := p.nextSounding - (s.bell b).config.lead }] } next d)) ∧
          (∀ z k v d, s.readStep c.tune c.step = .step z (.note [k] v d) →
            (s.tunes.lookUp p.entry.transposition k = .outOfRange ∨ s.tunes.lookUp p.entry.transposition k = .unmapped) →
            become (after { calm with skipped := min 65535 (p.skipped + 1) } next d)) ∧
          (∀ z ks v d, s.readStep c.tune c.step = .step z (.note ks v d) → p.blows = [] → p.skipped ≤ 65535 → ∃ l,
            become (after { calm with blows := l, skipped := min 65535 (p.skipped + (ks.length - l.length)) } next d) ∧
            l.Pairwise (fun x y => x.requestAt ≤ y.requestAt) ∧ (l.map (·.bell)).Nodup ∧
            (∀ b, b ∈ l.map (·.bell) ↔ ∃ k ∈ ks, s.tunes.lookUp p.entry.transposition k = .bell b) ∧
            ∀ x ∈ l, x.sounding = p.nextSounding ∧ x.velocity = v ∧
              x.requestAt = p.nextSounding - (s.bell x.bell).config.lead) ∧
          (∀ z g r d, s.readStep c.tune c.step = .step z (.call g r) →
            s.readStep g 1 = .step .live (.rest d) → p.stack.length < 4 → become (after
              { calm with stack := { tune := c.tune, returnStep := c.step + 1, repeatsLeft := r - 1 } :: p.stack }
              { tune := g, step := 2 } d)) ∧
          (∀ z g r d, s.readStep c.tune c.step = .step z (.call g r) → s.readStep c.tune (c.step + 1) = .step z (.rest d) →
            ((s.readStep g 1).state? ≠ some .live →
              become (after { calm with skipped := min 65535 (p.skipped + 1) } { tune := c.tune, step := c.step + 2 } d)) ∧
            ((s.readStep g 1).state? = some .live → 4 ≤ p.stack.length →
              become (after { calm with depth := true } { tune := c.tune, step := c.step + 2 } d))) ∧
          (∀ z, s.readStep c.tune c.step = .atEnd z → p.stack = [] →
            (p.passTested = true → p.ticks = 0 → become { calm with ending := some .done }) ∧
            (p.passes = .left 0 → become { calm with ending := some .done }) ∧
            (∀ n x d, (p.passTested = false ∨ p.ticks ≠ 0) → p.passes = .left (n + 1) →
              s.readStep h 1 = .step x (.rest d) → become
                { calm with passes := .left n, passTested := true, ticks := d, cursor := { tune := h, step := 2 }
                            nextSounding := p.nextSounding + d * 10 }) ∧
            (∀ x d, (p.passTested = false ∨ p.ticks ≠ 0) → p.passes = .untilStopped → s.readStep h 1 = .step x (.rest d) → become
              { calm with passTested := true, ticks := d, cursor := { tune := h, step := 2 }
                          nextSounding := p.nextSounding + d * 10 })) ∧
          (∀ z f rest n x d, s.readStep c.tune c.step = .atEnd z → p.stack = f :: rest → f.repeatsLeft = n + 1 →
            s.readStep c.tune 1 = .step x (.rest d) → become
              (after { calm with stack := { f with repeatsLeft := n } :: rest } { tune := c.tune, step := 2 } d)) ∧
          (∀ z f rest x d, s.readStep c.tune c.step = .atEnd z → p.stack = f :: rest → f.repeatsLeft = 0 →
            s.readStep f.tune f.returnStep = .step x (.rest d) → become
              (after { calm with stack := rest } { tune := f.tune, step := f.returnStep + 1 } d)) ∧
          (∀ f rest x d, s.readStep c.tune c.step = .gone → p.stack = f :: rest →
            s.readStep f.tune f.returnStep = .step x (.rest d) → become
              (after { calm with stack := rest } { tune := f.tune, step := f.returnStep + 1 } d)))))

/-- R102, R105: END_MOMENT, with every blow requested. A performance DONE or STOPPED reports to its source and drops its reference: a
COMMAND's to the last command outcome; a clock entry's, R117, to the last clock outcome, without a miss; an occasion's, R135, to its
action's outcome entry, DONE with the counts or CANCELLED, the action DONE and its context freed when it was the last. R135: what each
report makes of an action's outcome entry and of its state, and when OCCASION OUTCOME is raised. A PRE-EMPTED performance goes back to
the queue with its resume point, without expiry or lead-in; a full queue gives way only where the entry outranks the loser, which
receives REFUSED FULL and whose reference is dropped, and else the entry's source receives PRE-EMPTED DROPPED with the counts of its
resume point and the reference is dropped. Each end is followed by the dequeue, R91: with no performance, a head whose expiry has
passed leaves with EXPIRED, its reference dropped, and the next head is tested at the same moment; the first that has not expired
becomes the performance, its source receiving STARTED unless it had started before. R95: the performance an entry forms, at the start
of its tune or, with a resume point, where that left off, its pass then not tested. R82: what dropping an entry's reference does. A
report that is not final leaves a COMMAND's last command outcome as it was. Before the end moment, and while the performance is still
PLAYING, nothing happens. (Where it goes beyond the rules it rests on the model's choices of log entries 1, 2, 10, 39 and 42.) -/
def Obligations.EndMomentClosesThePerformance : Prop :=
  (∀ (s : State) (dt : Nat) (p : Performance), s.time.power = .mains → s.Settled → s.chime.performance = some p →
    let e := s.elapse dt
    let alone : State := { e with chime.performance := none }
    let ends (t : State) : Prop := exec (.endMoment dt) s = .next t.dequeue.settleContexts
    let ended (r : EntryReport) : State :=
      { e with chime.performance := none
               chime.lastOutcome := some { what := .entry p.entry.number, report := r, skipped := p.skipped, depth := p.depth } }
    (p.ending = none ∨ e.nowMs < p.nextSounding ∨ p.blows ≠ [] → exec (.endMoment dt) s = .next e) ∧
    (p.nextSounding ≤ e.nowMs → p.blows = [] →
      (p.ending = some .done → ends ((alone.reportEntry p.entry .done p.skipped p.depth).dropEntryRef p.entry)) ∧
      (p.ending = some .stopped → ends ((alone.reportEntry p.entry .stopped p.skipped p.depth).dropEntryRef p.entry)) ∧
      (p.ending = some .preEmpted →
        let back : Entry := { p.entry with resume := p.resume, expiry := none, leadIn := 0 }
        (s.chime.queue.length < 8 → ends { alone with chime.queue := insertEntry s.chime.queue back }) ∧
        (∀ x, 8 ≤ s.chime.queue.length → loser s.chime.queue = some x →
          let outranks : Prop :=
            x.priority < p.entry.priority ∨ (x.priority = p.entry.priority ∧ p.entry.arrival < x.arrival)
          let left := s.chime.queue.filter fun y => y.number != x.number
          (outranks → ends
            { (State.reportEntry { alone with chime.queue := left } x .refusedFull).dropEntryRef x with
              chime.queue := insertEntry left back }) ∧
          (¬outranks → ∀ k, p.resume = some k →
            ends ((alone.reportEntry p.entry .preEmptedDropped k.skipped k.depth).dropEntryRef p.entry))))) ∧
    (p.nextSounding ≤ e.nowMs → p.blows = [] → p.entry.source = .command →
      (s.chime.queue = [] →
        (p.ending = some .done → exec (.endMoment dt) s = .next ((ended .done).dropEntryRef p.entry)) ∧
        (p.ending = some .stopped → exec (.endMoment dt) s = .next ((ended .stopped).dropEntryRef p.entry))) ∧
      (∀ x rest r, s.chime.queue = x :: rest → x.source = .command → (∀ m, x.expiry = some m → s.time.standard ≤ m) →
        ((p.ending = some .done ∧ r = .done) ∨ (p.ending = some .stopped ∧ r = .stopped)) → exec (.endMoment dt) s
          = .next { (ended r).dropEntryRef p.entry with
                    chime.queue := rest, chime.performance := some (formPerformance x e.nowMs) })) ∧
    (∀ source m report, p.nextSounding ≤ e.nowMs → p.blows = [] → s.chime.queue = [] → p.entry.started = true →
      ((p.entry.source = .quarter m ∧ source = .quarter) ∨ (p.entry.source = .hour m ∧ source = .hour)) →
      ((p.ending = some .done ∧ report = .done) ∨ (p.ending = some .stopped ∧ report = .stopped)) →
      exec (.endMoment dt) s = .next (State.dropEntryRef
        { e with chime.performance := none
                 program.lastOutcome := some { source := source, mark := m, report := report, skipped := p.skipped } } p.entry)) ∧
    (∀ h k c a o x outcome, p.nextSounding ≤ e.nowMs → p.blows = [] → s.chime.queue = [] → s.firstWaiting = none → k < 8 →
      p.entry.source = .occasion h k 0 → s.context k = some c → c.actions = [a] → s.findOccasion c.occasion = some o →
      o.state = .firing → o.outcome = [x] →
      ((p.ending = some .done ∧ outcome = { kind := .done, note := .none, skipped := p.skipped, depth := p.depth }) ∨
        (p.ending = some .stopped ∧ outcome = { kind := .cancelled, note := .none, skipped := 0, depth := false })) →
      ∃ t, exec (.endMoment dt) s = .next t ∧ t.chime.performance = none ∧ t.context k = none ∧ t.findOccasion c.occasion
        = some { o with outcome := [outcome], context := none, state := if o.due.isSome then .armed else .spent }) ∧
    (∀ x rest, p.nextSounding ≤ e.nowMs → p.blows = [] → p.ending = some .preEmpted → s.chime.queue = x :: rest →
      rest.length < 7 → p.entry.priority < x.priority → x.source = .command → x.expiry = none →
      exec (.endMoment dt) s = .next
        { e with chime.queue := insertEntry rest { p.entry with resume := p.resume, expiry := none, leadIn := 0 }
                 chime.performance := some (formPerformance x e.nowMs) })) ∧
  (∀ s : State,
    (s.chime.performance ≠ none ∨ s.chime.queue = [] → s.dequeue = s) ∧
    (∀ x rest, s.chime.performance = none → s.chime.queue = x :: rest →
      let left : State := { s with chime.queue := rest }
      let begun : State := { left with chime.performance := some (formPerformance x s.nowMs) }
      (∀ m, x.expiry = some m → m < s.time.standard →
        s.dequeue = ((left.reportEntry x .expired).dropEntryRef x).dequeue) ∧
      ((∀ m, x.expiry = some m → s.time.standard ≤ m) →
        (x.started = true → s.dequeue = begun) ∧ (x.started = false → s.dequeue = begun.reportEntry x .started)))) ∧
  (∀ (x : Entry) (now : Nat),
    let p := formPerformance x now
    p.entry = { x with started := true } ∧ p.ending = none ∧ p.stopPending = false ∧ p.preemptPending = false ∧
    p.dequeued = now ∧ p.start = now + 400 + x.leadIn * 10 ∧ p.nextSounding = p.start ∧ p.ticks = 0 ∧ p.blows = [] ∧
    p.hourTaken = 0 ∧ p.resume = none ∧
    (x.resume = none →
      (∀ h, x.content = .tune h → p.cursor = { tune := h, step := 1 }) ∧ p.stack = [] ∧
      p.passes = (if x.repeats = 0 then .untilStopped else .left (x.repeats - 1)) ∧ p.passTested = true ∧ p.skipped = 0 ∧
      p.depth = false) ∧
    (∀ k, x.resume = some k →
      p.cursor = k.cursor ∧ p.stack = k.stack ∧ p.passes = k.passes ∧ p.skipped = k.skipped ∧ p.depth = k.depth ∧
      p.passTested = false)) ∧
  (∀ (s : State) (x : Entry) (r : EntryReport) (skipped : Nat) (depth : Bool), x.source = .command →
    (r = .queued ∨ r = .started → s.reportEntry x r skipped depth = s) ∧
    (r ≠ .queued → r ≠ .started → s.reportEntry x r skipped depth = { s with
      chime.lastOutcome := some { what := .entry x.number, report := r, skipped := skipped, depth := depth } })) ∧
  (∀ (u : State) (x : Entry) (r : EntryReport) (skipped : Nat) (depth : Bool) (h : Handle) (k place : Nat) (c : Context)
      (a : ContextAction) (o : Occasion), x.source = .occasion h k place → k < 8 → u.context k = some c →
    c.actions[place]? = some a → u.findOccasion c.occasion = some o → r ≠ .gone → r ≠ .notLive →
    let t := u.reportEntry x r skipped depth
    let plain (kind : OutcomeKind) (note : Reason) : Outcome := { kind := kind, note := note, skipped := 0, depth := false }
    let outcome : Outcome := match r with
      | .queued => plain .pending .none
      | .started => plain .started .none
      | .done => { kind := .done, note := .none, skipped := skipped, depth := depth }
      | .stopped => plain .cancelled .none
      | .refusedFull => plain .refused .full
      | .expired => plain .skipped .expired
      | _ => plain .skipped .preEmpted
    let phase : ActionPhase := if r = .queued then .active (.entry x.number) else if r = .started then a.phase else .done
    t.findOccasion c.occasion = some { o with outcome := o.outcome.set place outcome } ∧
    t.context k = some { c with actions := c.actions.set place { a with phase := phase } } ∧
    (r = .refusedFull ∨ r = .expired ∨ r = .preEmptedDropped →
      t.link.flags.getLsbD 5 = true ∧ t.link.fresh.getLsbD 5 = true) ∧
    (r = .queued ∨ r = .started ∨ r = .done ∨ r = .stopped → t.link = u.link) ∧ t.chime = u.chime ∧ t.tunes = u.tunes) ∧
  (∀ (u : State) (x : Entry),
    (∀ bell blows interval velocity, x.content = .hourStrike bell blows interval velocity → u.dropEntryRef x = u) ∧
    (∀ h, x.content = .tune h → u.findTune h = none → u.dropEntryRef x = u) ∧
    (∀ h t, x.content = .tune h → h.slot < 64 → u.findTune h = some t →
      (t.state ≠ .retiring ∨ 1 < t.refs →
        u.dropEntryRef x = u.setTuneSlot h.slot { gen := h.gen, record := some { t with refs := t.refs - 1 } }) ∧
      (t.state = .retiring → t.refs ≤ 1 → u.dropEntryRef x = { u.setTuneSlot h.slot { gen := h.gen, record := none } with
        tunes.freeSteps := u.tunes.freeSteps + t.steps.length
        memory.writes := u.memory.writes ++ [{ effect := .stored (.tune h.slot), response := none }] })))

/-- R106: STOP of an entry number. A queued entry leaves; its source, whichever it is, receives STOPPED with the counts of its resume
point, or 0 and no where it has none, and its reference is dropped (what either does is said in EndMomentClosesThePerformance and
MarksOfferTheirEntries); a PLAYING performance waits for its next step boundary; a PRE-EMPTED one will end STOPPED instead; a number no
entry has is answered NO RECORD. A reference that is the last of a RETIRING tune frees it, and its write is not waited for (the model's
choice, log entry 12). (Where it goes beyond the rules it rests on the model's choices of log entries 1, 4, 10, 12 and 23.) -/
def Obligations.StopNamesOneEntry : Prop :=
  ∀ (s : State) (dt n : Nat), s.HostReady → s.Settled →
    let w := (s.elapse dt).working (.stopChimeEntry n)
    let done (t : State) : Prop := exec (.stopChimeEntry dt n) s = .next (t.answer (reply .done (n % 256) 0))
    (∀ x before after, s.chime.queue = before ++ x :: after → x.number = n → (∀ y ∈ before ++ after, y.number ≠ n) →
      let skipped := match x.resume with | some k => k.skipped | none => 0
      let depth := match x.resume with | some k => k.depth | none => false
      let left : State := { w with chime.queue := before ++ after }
      done ((left.reportEntry x .stopped skipped depth).dropEntryRef x).settleContexts ∧
      (x.source = .command → done (State.dropEntryRef
        { left with
          chime.lastOutcome := some { what := .entry n, report := .stopped, skipped := skipped, depth := depth } } x))) ∧
    ((∀ x ∈ s.chime.queue, x.number ≠ n) →
      (∀ p, s.chime.performance = some p → p.entry.number = n →
        (p.ending = none → done { w with chime.performance := some { p with stopPending := true } }) ∧
        (p.ending = some .preEmpted → done { w with chime.performance := some { p with ending := some .stopped } }) ∧
        (p.ending = some .done ∨ p.ending = some .stopped → done w)) ∧
      ((∀ p, s.chime.performance = some p → p.entry.number ≠ n) →
        exec (.stopChimeEntry dt n) s = .next (w.answer (reply .noRecord (n % 256) 0))))

/-- R107, R108, R109: TOLL takes the lower IDLE channel unless another claims the bell; its take-up moments come one interval apart,
each blow sounding 400 ms later; it ends one interval after its last blow, or at once by STOP, and reports to its source; the
channel keeps what it held but its claim. The report to COMMAND is its last command outcome; R135: that to an occasion's action is
its outcome entry, DONE with the toll's skipped count at the end and CANCELLED by STOP, and the action is DONE, which frees the
context when it was the last and leaves the last command outcome as it was. Each toll has the next number, by which the reports of
its own blows find it (log entry 31). A toll has a bell of the 40, an interval of 2 to 120 s, 1 to 999 blows and a velocity class.
That the depth flag of a toll's last command outcome is no is the model's choice, log entry 42, and that next blow counts on past
the last blow, log entry 65. (Where it goes beyond the rules it rests on the model's choices of log entries 1, 2, 4, 10, 23, 26, 31,
42, 46 and 65.) -/
def Obligations.TollsTakeOneChannelEach : Prop :=
  ∀ (s : State) (dt c bell interval blows velocity : Nat), s.time.power = .mains → c < 2 →
    let e := s.elapse dt
    let w := e.working (.toll bell interval blows velocity)
    let stop := e.working (.stopTollChannel c)
    let claimed : Prop := ∃ i u, i < 2 ∧ s.toll i = some u ∧ u.bell = bell
    let outcome (r : EntryReport) (skipped : Nat) : CommandOutcome :=
      { what := .toll c, report := r, skipped := skipped, depth := false }
    (tollOk bell interval blows velocity = true ↔
      bell < 40 ∧ 2 ≤ interval ∧ interval ≤ 120 ∧ 1 ≤ blows ∧ blows ≤ 999 ∧ velocity ≤ 3) ∧
    (s.HostReady →
      (tollOk bell interval blows velocity = false →
        exec (.toll dt bell interval blows velocity) s = .next (w.answer (reply .badField 0 0))) ∧
      (tollOk bell interval blows velocity = true →
        (claimed → exec (.toll dt bell interval blows velocity) s = .next (w.answer (reply .busy 0 0 (u8 1)))) ∧
        (¬claimed → (s.toll 0 ≠ none ∧ s.toll 1 ≠ none) →
          exec (.toll dt bell interval blows velocity) s = .next (w.answer (reply .busy 0 0 (u8 2)))) ∧
        (¬claimed → s.toll c = none → (∀ i, i < c → s.toll i ≠ none) →
          exec (.toll dt bell interval blows velocity) s = .next (State.answer { w.setToll c (some
            { run := s.chime.tollsTaken + 1, bell := bell, interval := interval, blowsLeft := blows, velocity := velocity
              source := .command, start := e.nowMs, nextBlow := 1, scheduled := none, skipped := 0 }) with
            chime.tollsTaken := s.chime.tollsTaken + 1 } (reply .done 0 0 (u8 c)))))) ∧
    (∀ u, s.toll c = some u →
      let takeUp := u.start + (u.nextBlow - 1) * (u.interval * 1000)
      (takeUp ≤ e.nowMs → 0 < u.blowsLeft → u.scheduled = none → exec (.tollTakeUp dt c) s = .next (e.setToll c (some
        { u with blowsLeft := u.blowsLeft - 1, nextBlow := u.nextBlow + 1
                 scheduled := some { bell := u.bell, sounding := takeUp + 400, velocity := u.velocity
                                     requestAt := takeUp + 400 - (s.bell u.bell).config.lead } }))) ∧
      (e.nowMs < takeUp ∨ u.blowsLeft = 0 ∨ u.scheduled ≠ none → exec (.tollTakeUp dt c) s = .next e) ∧
      (s.Settled → u.source = .command →
        (u.blowsLeft = 0 → u.scheduled = none → u.start + 400 + (u.nextBlow - 1) * (u.interval * 1000) ≤ e.nowMs →
          exec (.tollEnd dt c) s
            = .next { (e.setToll c none).setLastToll c { u with scheduled := none } with
              chime.lastOutcome := some (outcome .done u.skipped) }) ∧
        (u.blowsLeft ≠ 0 ∨ u.scheduled ≠ none ∨ e.nowMs < u.start + 400 + (u.nextBlow - 1) * (u.interval * 1000) →
          exec (.tollEnd dt c) s = .next e) ∧
        (s.HostReady → exec (.stopTollChannel dt c) s = .next (State.answer
          { (stop.setToll c none).setLastToll c { u with scheduled := none } with
            chime.lastOutcome := some (outcome .stopped u.skipped) } (reply .done c 0)))) ∧
      (∀ h k place, s.Settled → u.source = .action h k place →
        let past : Prop :=
          u.blowsLeft = 0 ∧ u.scheduled = none ∧ u.start + 400 + (u.nextBlow - 1) * (u.interval * 1000) ≤ e.nowMs
        let done : Outcome := { kind := .done, note := .none, skipped := u.skipped, depth := false }
        let cancelled : Outcome := { kind := .cancelled, note := .none, skipped := 0, depth := false }
        let told (v : State) (x : Outcome) : State :=
          (((v.setToll c none).setLastToll c { u with scheduled := none }).actionTold k place x).settleContexts
        (past → exec (.tollEnd dt c) s = .next (told e done)) ∧
        (¬past → exec (.tollEnd dt c) s = .next e) ∧
        (s.HostReady → exec (.stopTollChannel dt c) s = .next ((told stop cancelled).answer (reply .done c 0))) ∧
        (∀ x a o y, place = 0 → k < 8 → s.firstWaiting = none → s.context k = some x → x.actions = [a] →
          s.findOccasion x.occasion = some o → o.state = .firing → o.outcome = [y] →
          let freed (t : State) (z : Outcome) : Prop := t.toll c = none ∧ t.context k = none ∧
            t.chime.lastOutcome = s.chime.lastOutcome ∧ t.findOccasion x.occasion
              = some { o with outcome := [z], context := none, state := if o.due.isSome then .armed else .spent }
          (past → ∃ t, exec (.tollEnd dt c) s = .next t ∧ freed t done) ∧
          (s.HostReady → ∃ t, exec (.stopTollChannel dt c) s = .next t ∧ freed t cancelled)))) ∧
    (s.toll c = none → exec (.tollTakeUp dt c) s = .next e ∧
      (s.Settled → exec (.tollEnd dt c) s = .next e ∧
        (s.HostReady → exec (.stopTollChannel dt c) s = .next (stop.answer (reply .done c 0)))))

/-! ## Clock Program (chapter 7) -/

/-- R113 to R116: a mark offers the QUARTER entry of its local quarter, when quarters are enabled and that quarter has a tune, then
at :00 the HOUR entry of the hour; one silenced counts as missed instead. Silence is until its instant for both, and by night for
quarters, and for hours too in mode ALL. Last mark becomes the mark. R119, R120: the landing mark of a jump, the latest mark at or
before the local instant landed on, and the mark owed by a loss of supply, the latest since it began, are handled so unless they are
last mark or lie further back than the clock expiry. A tune that is gone or not LIVE makes the QUARTER a miss with CLOCK MISSED, and
R117: what each report on a clock entry counts, raises and records. That the standard instant of a landing mark is found with the
offset in force after the jump is the model's reading, log entry 45, as is that last mark is a standard instant and that a mark is
owed only while the time is valid, log entry 47; an expiry past the calendar range is kept as the sum, its choice, log entry 70.
(Where it goes beyond the rules it rests on the model's choices of log entries 6, 45, 47 and 70.) -/
def Obligations.MarksOfferTheirEntries : Prop :=
  ∀ (s : State) (mark local_ : Nat),
    let c := s.program.config
    let quarter := local_ % 3600 / 900
    let tune := if quarter = 1 then c.first else if quarter = 2 then c.second else if quarter = 3 then c.third else c.fourth
    let minute := local_ % 86400
    let night : Prop := ∃ a b, c.nightStart = some a ∧ c.nightEnd = some b ∧
      (if a.seconds < b.seconds then a.seconds ≤ minute ∧ minute < b.seconds else a.seconds ≤ minute ∨ minute < b.seconds)
    let silenced : Prop := ∃ x, s.program.silencedUntil = some x ∧ mark < x
    let toll := c.hourEnabled = true ∧ local_ % 3600 = 0
    (s.handleMark mark local_).program.lastMark = some mark ∧
    ((c.quartersEnabled = false ∨ tune = none) → ¬toll →
      s.handleMark mark local_ = { s with program.lastMark := some mark }) ∧
    (∀ h, c.quartersEnabled = true → tune = some h → (silenced ∨ night) → ¬toll → s.handleMark mark local_
      = { s with program.quartersMissed := min 65535 (s.program.quartersMissed + 1), program.lastMark := some mark }) ∧
    (∀ h t, c.quartersEnabled = true → tune = some h → ¬silenced → ¬night → ¬toll → s.findTune h = some t → t.state = .live →
      s.chime.performance = none → s.chime.queue = [] → s.time.standard ≤ mark + c.expiry →
      ∃ p, (s.handleMark mark local_).chime.performance = some p ∧
        p.entry.source = .quarter local_ ∧ p.entry.content = .tune h ∧ p.entry.repeats = 1 ∧ p.entry.transposition = 0 ∧
        p.entry.priority = c.quarterPriority ∧ p.entry.yields = false ∧ p.start = s.nowMs + 400 ∧
        ((s.handleMark mark local_).findTune h).map (·.refs) = some (t.refs + 1)) ∧
    ((c.quartersEnabled = false ∨ tune = none) → toll → (silenced ∨ (c.nightMode = .all ∧ night)) → s.handleMark mark local_
      = { s with program.hoursMissed := min 65535 (s.program.hoursMissed + 1), program.lastMark := some mark }) ∧
    ((c.quartersEnabled = false ∨ tune = none) → toll → ¬silenced → ¬(c.nightMode = .all ∧ night) →
      s.chime.performance = none → s.chime.queue = [] → s.time.standard ≤ mark + c.expiry →
      ∃ p n, (s.handleMark mark local_).chime.performance = some p ∧ p.entry.source = .hour local_ ∧
        p.entry.content = .hourStrike c.hourBell n c.blowInterval c.hourVelocity ∧
        1 ≤ n ∧ n ≤ 12 ∧ n % 12 = local_ / 3600 % 12 ∧ p.entry.priority = c.hourPriority ∧
        p.start = s.nowMs + 400 + c.strikeGap * 10) ∧
    (∀ h t, c.quartersEnabled = true → tune = some h → toll → ¬silenced → ¬night → s.findTune h = some t → t.state = .live →
      s.chime.performance = none → s.chime.queue = [] → s.time.standard ≤ mark + c.expiry →
      ∃ p x n, (s.handleMark mark local_).chime.performance = some p ∧ (s.handleMark mark local_).chime.queue = [x] ∧
        p.entry.source = .quarter local_ ∧ p.entry.content = .tune h ∧ p.start = s.nowMs + 400 ∧ p.preemptPending = false ∧
        x.source = .hour local_ ∧ x.content = .hourStrike c.hourBell n c.blowInterval c.hourVelocity ∧
        1 ≤ n ∧ n ≤ 12 ∧ n % 12 = local_ / 3600 % 12 ∧ x.priority = c.hourPriority ∧ x.yields = false ∧
        x.leadIn = c.strikeGap ∧ x.expiry = some (mark + c.expiry) ∧ x.started = false) ∧
    (∀ h, c.quartersEnabled = true → tune = some h → toll → ¬silenced → night → c.nightMode ≠ .all →
      s.chime.performance = none → s.chime.queue = [] → s.time.standard ≤ mark + c.expiry →
      let t := s.handleMark mark local_
      t.program = { s.program with quartersMissed := min 65535 (s.program.quartersMissed + 1), lastMark := some mark } ∧
      ∃ p n, t.chime.performance = some p ∧ t.chime.queue = [] ∧ p.entry.source = .hour local_ ∧
        p.entry.content = .hourStrike c.hourBell n c.blowInterval c.hourVelocity ∧ 1 ≤ n ∧ n ≤ 12 ∧ n % 12 = local_ / 3600 % 12 ∧
        p.start = s.nowMs + 400 + c.strikeGap * 10) ∧
    (∀ h r, c.quartersEnabled = true → tune = some h → ¬silenced → ¬night → ¬toll →
      ((s.findTune h = none ∧ r = .gone) ∨ (∃ t, s.findTune h = some t ∧ t.state ≠ .live ∧ r = .notLive)) →
      s.handleMark mark local_ = State.raise
        { s with chime.lastEntryNumber := s.chime.nextNumber, chime.lastArrival := s.chime.lastArrival + 1
                 program.quartersMissed := min 65535 (s.program.quartersMissed + 1)
                 program.lastOutcome := some { source := .quarter, mark := local_, report := r, skipped := 0 }
                 program.lastMark := some mark } .clockMissed) ∧
    (∀ (x : Entry) (r : EntryReport) (skipped m : Nat) (depth : Bool), r ≠ .preEmptedDropped →
      let lost : Bool := r == .gone || r == .notLive || r == .refusedFull || r == .expired
      let miss : Nat := if lost || (r == .stopped && !x.started) then 1 else 0
      let counted (n : Nat) : Nat := if miss = 0 then n else min 65535 (n + 1)
      let outcome (source : ClockSource) : Option ClockOutcome :=
        if r = .queued ∨ r = .started then s.program.lastOutcome
        else some { source := source, mark := m, report := r, skipped := skipped }
      let flagged (u : State) : State := if lost then u.raise .clockMissed else u
      (x.source = .quarter m → s.reportEntry x r skipped depth = flagged
        { s with program.quartersMissed := counted s.program.quartersMissed, program.lastOutcome := outcome .quarter }) ∧
      (x.source = .hour m → s.reportEntry x r skipped depth = flagged
        { s with program.hoursMissed := counted s.program.hoursMissed, program.lastOutcome := outcome .hour })) ∧
    (∀ h, c.quartersEnabled = true → tune = some h → toll → (silenced ∨ (c.nightMode = .all ∧ night)) → s.handleMark mark local_
      = { s with program.quartersMissed := min 65535 (s.program.quartersMissed + 1)
                 program.hoursMissed := min 65535 (s.program.hoursMissed + 1), program.lastMark := some mark }) ∧
    (let back := s.localNow % 900
     let landed := s.time.standard - back
     (back ≤ s.time.standard → s.time.standard ≤ landed + c.expiry → s.program.lastMark ≠ some landed →
       s.landingMark = s.handleMark landed (s.localNow - back)) ∧
     (s.time.standard < back ∨ landed + c.expiry < s.time.standard ∨ s.program.lastMark = some landed → s.landingMark = s)) ∧
    (∀ entry,
      let owed := s.time.standard - s.time.standard % 900
      (s.time.valid = true → entry < owed → s.time.standard ≤ owed + c.expiry → s.program.lastMark ≠ some owed →
        s.owedMark entry = s.handleMark owed (owed + s.time.settings.rule.shift (summerAt s.time.settings.rule owed))) ∧
      (s.time.valid = false ∨ owed ≤ entry ∨ owed + c.expiry < s.time.standard ∨ s.program.lastMark = some owed →
        s.owedMark entry = s))

/-! ## Occasion Calendar (chapter 8) -/

/-- R126, R127: with sound tables, the next due is the earliest due instant, over all occasion dates to 2199-12-31, that is later
than the current standard instant and than last fired; there is none exactly when no occasion date has such an instant. R140: at a
jump the occasions whose dues have come are reached in due-list order, one past its grace or FIRING to be MISSED, an ARMED one
within its grace to fire into the lowest free context, or to wait where none is free; every other occasion with a next due has it
recomputed, an ARMED one left without being SPENT, and TIME SET and RULE CHANGED arm a SPENT one that has a due again; then the
WAITING actions whose start instants have come start, and nothing else changes but what those starts do. R145: the first validity
gives every ARMED and FIRING occasion its next due and starts the actions whose instants have come, and R127: TIME LOST takes the
due away. The table dusk is that of today. R142: at a jump the dusk of the day left and that of the day landed on passes on the
table when its T has passed. R125: an occasion date lies in the window, on or between the dates present, and matches the recurrence.
R126: the due instant of a CLOCK date is its local time read as LOCAL, or the start of summer where that time is skipped; of a DUSK
date, its table dusk, or the instant confirmed for it, plus the offset. That the actions of several contexts start in the order of
the contexts is the model's choice, log entry 66. That the table dusk is worked afresh at RULE CHANGED too, where local time does
not move, is the model's choice, log entry 67, and that the first validity gives a FIRING occasion its due, which R145 does not
name, its reading of R127, log entry 69. A due instant, a start instant or an end of grace past the calendar range is kept as the
sum, the model's choice, log entry 70. (Where it goes beyond the rules it rests on the model's choices of log entries 28, 35, 60,
66, 67, 69 and 70.) -/
def Obligations.NextDueIsTheEarliest : Prop :=
  (∀ (s : State) (c : OccasionConfig) (lastFired : Option Nat), occasionConfigOk c = true →
    summerRuleOk s.time.settings.rule = true → (∀ k, k < 53 → s.calendar.duskTable.getD k 0 ≤ 1439) →
    (∀ x, s.calendar.confirmed = some x → x.day * 86400 ≤ x.instant + 3600 ∧ x.instant < (x.day + 1) * 86400) →
    let bound := max s.time.standard (lastFired.getD 0)
    (∀ d, s.computeDue c lastFired = some d → d.day < 73049 ∧ isOccasionDate c d.day = true ∧
      s.dueInstant c.anchor d.day = (d.instant : Int) ∧ bound < d.instant ∧
      ∀ day, day < 73049 → isOccasionDate c day = true → (bound : Int) < s.dueInstant c.anchor day →
        (d.instant : Int) ≤ s.dueInstant c.anchor day) ∧
    (s.computeDue c lastFired = none →
      ∀ day, day < 73049 → isOccasionDate c day = true → s.dueInstant c.anchor day ≤ (bound : Int))) ∧
  (∀ (s : State) (spent : Bool) (i : Nat) (o : Occasion), s.NothingDue → i < 256 → (s.occasionSlot i).record = some o →
    let due := if s.time.valid then s.computeDue o.config o.lastFired else none
    let put (t : State) (x : Occasion) : Prop := t.occasionSlot i = { gen := (s.occasionSlot i).gen, record := some x }
    let renewed : Occasion :=
      { o with due := due, waiting := false
               state := if o.state = .armed ∧ due = none ∧ s.time.valid = true then .spent else o.state }
    let today := s.localNow / 86400
    let jumped := s.calendarJump spent
    let first := s.calendarFirstValidity
    let lost := s.calendarTimeLost
    (o.due ≠ none → put jumped renewed) ∧
    (∀ d, o.due = none → spent = true → o.state = .spent → due = some d → put jumped { o with state := .armed, due := some d }) ∧
    (o.due = none → (spent = false ∨ o.state ≠ .spent ∨ due = none) → put jumped o) ∧
    (o.state = .armed ∨ o.state = .firing → put lost { o with due := none, waiting := false }) ∧
    (o.state ≠ .armed → o.state ≠ .firing → put lost o) ∧
    jumped.calendar.tableDusk = { day := today, instant := s.tableDuskOf today } ∧
    jumped.calendar.duskPassed
      = (State.passDusk { s.passDusk with calendar.tableDusk := jumped.calendar.tableDusk }).calendar.duskPassed ∧
    jumped.calendar.contexts = s.calendar.contexts ∧ lost.calendar.contexts = s.calendar.contexts ∧
    (o.state = .armed ∨ o.state = .firing → put first renewed) ∧ (o.state ≠ .armed → o.state ≠ .firing → put first o) ∧
    first.calendar.tableDusk = { day := today, instant := s.tableDuskOf today } ∧
    first.calendar.duskPassed
      = (State.passDusk { s with calendar.tableDusk := first.calendar.tableDusk }).calendar.duskPassed) ∧
  (∀ (s : State) (spent : Bool) (i : Nat) (o : Occasion) (d : Due), i < 256 → (s.occasionSlot i).record = some o →
    o.due = some d → d.instant ≤ s.time.standard →
    (o.state = .firing ∨ (o.state = .armed ∧ d.instant + o.config.grace * 60 < s.time.standard)) →
    (∀ j x y, j < 256 → j ≠ i → (s.occasionSlot j).record = some x → x.due = some y → s.time.standard < y.instant) →
    (∀ k c, k < 8 → s.context k = some c → ∀ a ∈ c.actions, ∀ holds, a.phase = .waiting holds → s.time.standard < a.start) →
    let due := if s.time.valid then s.computeDue o.config o.lastFired else none
    let t := s.calendarJump spent
    let missed : Occasion :=
      { o with missed := min 255 (o.missed + 1), due := due, waiting := false
               state := if o.state = .armed ∧ due = none ∧ s.time.valid = true then .spent else o.state }
    t.occasionSlot i = { gen := (s.occasionSlot i).gen, record := some missed } ∧
    t.link.flags.getLsbD 6 = true ∧ t.link.fresh.getLsbD 6 = true) ∧
  (∀ (s : State) (spent : Bool) (l : List Nat), s.DueOrder l →
    let worked := s.passDusk.workTableDusk.passDusk
    let handled := l.foldl (fun x i => x.reach i) worked
    let nextDue (o : Occasion) : Option Due := if s.time.valid then s.computeDue o.config o.lastFired else none
    (∃ r : State,
      r = { handled with calendar.slots := r.calendar.slots, memory.writes := r.memory.writes } ∧
      (∀ i, (handled.occasionSlot i).record = none → r.occasionSlot i = handled.occasionSlot i) ∧
      (∀ i o, (handled.occasionSlot i).record = some o →
        let due := nextDue o
        let put (x : Occasion) : Prop := r.occasionSlot i = { gen := (handled.occasionSlot i).gen, record := some x }
        (o.due ≠ none → i ∉ l → put { o with
          due := due, waiting := false
          state := if o.state = .armed ∧ due = none ∧ s.time.valid = true then .spent else o.state }) ∧
        (o.due = none ∨ i ∈ l →
          (∀ d, spent = true → o.state = .spent → due = some d → put { o with state := .armed, due := some d }) ∧
          (spent = false ∨ o.state ≠ .spent ∨ due = none → put o))) ∧
      s.calendarJump spent = (List.range 8).foldl (fun x k => x.startDueActions k) r) ∧
    (∀ i o d, l = [i] → (s.occasionSlot i).record = some o → o.due = some d → o.state = .armed →
      s.time.standard ≤ d.instant + o.config.grace * 60 →
      ((∀ k, k < 8 → s.context k ≠ none) → handled
        = worked.setOccasionSlot i { gen := (s.occasionSlot i).gen, record := some { o with waiting := true } }) ∧
      ∀ k, k < 8 → s.context k = none → (∀ j, j < k → s.context j ≠ none) →
        ∃ u, worked.FiredInto u i k o d ∧ handled = u.startDueActions k)) ∧
  (∀ s : State, ∃ r : State,
    let worked := s.workTableDusk.passDusk
    r = { worked with calendar.slots := r.calendar.slots, memory.writes := r.memory.writes } ∧
    (∀ i, (s.occasionSlot i).record = none → r.occasionSlot i = s.occasionSlot i) ∧
    (∀ i o, (s.occasionSlot i).record = some o →
      let due := if s.time.valid then s.computeDue o.config o.lastFired else none
      let put (x : Occasion) : Prop := r.occasionSlot i = { gen := (s.occasionSlot i).gen, record := some x }
      (o.state = .armed ∨ o.state = .firing → put { o with
        due := due, waiting := false
        state := if o.state = .armed ∧ due = none ∧ s.time.valid = true then .spent else o.state }) ∧
      (o.state ≠ .armed → o.state ≠ .firing → put o)) ∧
    s.calendarFirstValidity = (List.range 8).foldl (fun x k => x.startDueActions k) r) ∧
  (∀ (s : State) (c : OccasionConfig) (day : Nat),
    let date := dateOfDay day
    let rule := s.time.settings.rule
    (isOccasionDate c day = true ↔
      (∀ x, c.firstDate = some x → dayNumber x ≤ day) ∧ (∀ x, c.lastDate = some x → (day : Int) ≤ dayNumber x) ∧
      match c.recurrence with
      | .once x => date = x
      | .daily => True
      | .weekly days => days.getLsbD (weekdayIndex day) = true
      | .monthlyNth week weekday months =>
        months.getLsbD (date.month - 1) = true ∧ date.day = nthWeekday date.year date.month week weekday
      | .annual month dayOfMonth => date.month = month ∧ date.day = dayOfMonth) ∧
    (∀ hour minute second, c.anchor = .clock hour minute second →
      let local_ : Int := (day * 86400 + hour * 3600 + minute * 60 + second : Nat)
      (∀ x, readLocal rule local_ = some x → s.dueInstant c.anchor day = x) ∧
      (readLocal rule local_ = none → s.dueInstant c.anchor day = summerStart rule date.year)) ∧
    (∀ offset, c.anchor = .dusk offset →
      (∀ x, s.calendar.confirmed = some x → x.day = day → s.dueInstant c.anchor day = (x.instant : Int) + offset * 60) ∧
      ((∀ x, s.calendar.confirmed = some x → x.day ≠ day) →
        s.dueInstant c.anchor day = (s.tableDuskOf day : Int) + offset * 60)))

/-- R123, R124, R137: STORE puts an occasion in the lowest free slot with the next generation, ARMED with its next due, or SPENT
where there is none and the time is valid; AMEND, SUSPEND and RESUME give the occasion a handle names the fields, the state and the
next due their rules say. A changed record is written and answered at its write's end; RETIRING, and for RESUME any state but
SUSPENDED, is WRONG STATE. The fields are in the ranges of section 8.1 (R123). That the state is judged before the fields is the
model's choice, log entry 33, and so is that a window date has to be a real date, log entry 68. (Where it goes beyond the rules it
rests on the model's choices of log entries 1, 4, 12, 13, 23, 33 and 68.) -/
def Obligations.OccasionsAreStoredAndAmended : Prop :=
  ∀ (s : State) (dt : Nat) (c : OccasionConfig), s.HostReady →
    let e := s.elapse dt
    let fresh : Occasion :=
      { config := c, state := if s.time.valid = true ∧ s.computeDue c none = none then .spent else .armed
        due := if s.time.valid then s.computeDue c none else none, lastFired := none, outcome := [], missed := 0
        context := none, waiting := false }
    let store := e.working (.storeOccasion c)
    (occasionConfigOk c = false → exec (.storeOccasion dt c) s = .next (store.answer (reply .badField 0 0))) ∧
    (occasionConfigOk c = true →
      ((∀ j, j < 256 → (s.occasionSlot j).record ≠ none) →
        exec (.storeOccasion dt c) s = .next (store.answer (reply .full 0 0))) ∧
      (∀ i, i < 256 → (s.occasionSlot i).record = none → (∀ j, j < i → (s.occasionSlot j).record ≠ none) →
        let gen := if (s.occasionSlot i).gen < 255 then (s.occasionSlot i).gen + 1 else 1
        exec (.storeOccasion dt c) s = .next
          { store.setOccasionSlot i { gen := gen, record := some fresh } with
            memory.writes := [{ effect := .stored (.occasion i)
                                response := some (reply .done i gen
                                  (optional (fun d : Due => s.localBytes d.instant) fresh.due)) }] })) ∧
    (∀ (h : Handle) (o : Occasion), h.slot < 256 → 1 ≤ h.gen → h.gen ≤ 255 → s.findOccasion h = some o →
      let due (c : OccasionConfig) : Option Due := if s.time.valid then s.computeDue c o.lastFired else none
      let put (r : Request) (new : Occasion) : Prop :=
        exec (commandOf dt r) s = .next
          (if new = o then (e.working r).answer (reply .done h.slot h.gen)
          else { (e.working r).setOccasionSlot h.slot { gen := h.gen, record := some new } with
                 memory.writes := [{ effect := .stored (.occasion h.slot)
                                     response := some (reply .done h.slot h.gen) }] })
      let wrong (r : Request) : Prop :=
        exec (commandOf dt r) s = .next ((e.working r).answer (reply .wrongState h.slot h.gen))
      (o.state = .retiring → wrong (.suspend h) ∧ wrong (.resume h) ∧ wrong (.amendOccasion h c)) ∧
      (o.state ≠ .retiring → put (.suspend h) { o with state := .suspended, due := none, waiting := false }) ∧
      (o.state ≠ .suspended → wrong (.resume h)) ∧
      (o.state = .suspended → put (.resume h)
        { o with due := due o.config
                 state := if o.context ≠ none then .firing
                   else if due o.config ≠ none ∨ s.time.valid = false then .armed else .spent }) ∧
      (o.state ≠ .retiring → occasionConfigOk c = false →
        exec (.amendOccasion dt h c) s = .next ((e.working (.amendOccasion h c)).answer (reply .badField h.slot h.gen))) ∧
      (occasionConfigOk c = true →
        (o.state = .armed → put (.amendOccasion h c)
          { o with config := c, waiting := false, due := due c
                   state := if due c = none ∧ s.time.valid = true then .spent else .armed }) ∧
        (o.state = .firing → put (.amendOccasion h c) { o with config := c, waiting := false, due := due c }) ∧
        (o.state = .suspended → put (.amendOccasion h c) { o with config := c, waiting := false }) ∧
        (o.state = .spent → put (.amendOccasion h c)
          (if due c = none then { o with config := c, waiting := false }
          else { o with config := c, waiting := false, due := due c, state := .armed })))) ∧
    (occasionConfigOk c = true ↔ c.label.length ≤ 16 ∧
      (match c.recurrence with
        | .once d => d.isReal = true
        | .daily => True
        | .weekly days => days ≠ 0#7
        | .monthlyNth week _ months => 1 ≤ week ∧ week ≤ 5 ∧ months ≠ 0#12
        | .annual month day => 1 ≤ month ∧ month ≤ 12 ∧ 1 ≤ day ∧ day ≤ daysInMonth 2000 month) ∧
      (∀ d, c.firstDate = some d → d.isReal = true) ∧ (∀ d, c.lastDate = some d → d.isReal = true) ∧
      (∀ x y, c.firstDate = some x → c.lastDate = some y → dayNumber x ≤ dayNumber y) ∧
      (match c.anchor with
        | .clock hour minute second => hour ≤ 23 ∧ minute ≤ 59 ∧ second ≤ 59
        | .dusk offset => -120 ≤ offset ∧ offset ≤ 240) ∧
      c.grace ≤ 60 ∧ c.priority ≤ 7 ∧ 1 ≤ c.actions.length ∧ c.actions.length ≤ 4 ∧
      ∀ a ∈ c.actions, a.offset ≤ 3600 ∧
        match a.kind with
        | .play h transposition repeats _ => h.slot < 64 ∧ 1 ≤ h.gen ∧ h.gen ≤ 255 ∧ -16 ≤ transposition ∧ transposition ≤ 16 ∧
          1 ≤ repeats ∧ repeats ≤ 99
        | .toll bell interval blows velocity =>
          bell < 40 ∧ 2 ≤ interval ∧ interval ≤ 120 ∧ 1 ≤ blows ∧ blows ≤ 999 ∧ velocity ≤ 3
        | .swing bell minutes => bell < 40 ∧ 1 ≤ minutes ∧ minutes ≤ 30
        | .sceneUp h hold => h.slot < 32 ∧ 1 ≤ h.gen ∧ h.gen ≤ 255 ∧ 1 ≤ hold ∧ hold ≤ 1440
        | .sceneDown h => h.slot < 32 ∧ 1 ≤ h.gen ∧ h.gen ≤ 255
        | .silence minutes => 1 ≤ minutes ∧ minutes ≤ 240)

/-- R138, R139: RETIRE of an occasion without a context frees its slot, which keeps its generation; of one that holds a context it
makes it RETIRING and cancels what waits to start, whose outcome is CANCELLED and whose reference to a tune, where it holds one, is
dropped as R82 drops it, which frees context and slot when nothing is ACTIVE; GENTLE of a RETIRING one is WRONG STATE. ABRUPT, of a
RETIRING one too, also ends the work under way: a toll and a motor run at once, a queued entry by its removal, a performance at its
next step boundary; and it takes the occasion's standing entries away, lowering their scenes. (Where it goes beyond the rules it
rests on the model's choices of log entries 1, 4, 10, 12, 13 and 23.) -/
def Obligations.RetireFreesTheOccasion : Prop :=
  ∀ (s : State) (dt : Nat) (h : Handle) (o : Occasion), s.HostReady → s.doneContext = none → s.firstWaiting = none →
    h.slot < 256 → 1 ≤ h.gen → h.gen ≤ 255 → s.findOccasion h = some o →
    let e := s.elapse dt
    let freed (w : State) : State :=
      { w.setOccasionSlot h.slot { gen := h.gen, record := none } with
        memory.writes := [{ effect := .stored (.occasion h.slot), response := some (reply .done h.slot h.gen (u8 0)) }] }
    let created (y : StandingEntry) : Prop := y.creator = .occasion h
    let gone (t : State) (i : Nat) : Prop := t.occasionSlot h.slot = { gen := h.gen, record := none } ∧ t.context i = none
    let retiring : Occasion := { o with state := .retiring, due := none, waiting := false }
    (o.state = .retiring →
      exec (.retireGentle dt h) s = .next ((e.working (.retireGentle h)).answer (reply .wrongState h.slot h.gen))) ∧
    (o.context = none →
      (o.state ≠ .retiring → exec (.retireGentle dt h) s = .next (freed (e.working (.retireGentle h)))) ∧
      ((∀ y ∈ s.mixer.standing, ¬created y) →
        exec (.retireAbrupt dt h) s = .next (freed (e.working (.retireAbrupt h)))) ∧
      (s.ListsSound → ∃ t, exec (.retireAbrupt dt h) s = .next t ∧
        t.occasionSlot h.slot = { gen := h.gen, record := none } ∧
        t.mixer.standing = s.mixer.standing.filter (fun y => y.creator != .occasion h) ∧
        (∀ y ∈ s.mixer.standing, created y → ∀ l ∈ t.mixer.layers, l.scene = y.scene → l.target = 0) ∧
        t.mixer.layers.map (·.scene) = s.mixer.layers.map (·.scene) ∧
        ∀ l ∈ s.mixer.layers, (∀ y ∈ s.mixer.standing, created y → l.scene ≠ y.scene) → l ∈ t.mixer.layers)) ∧
    (∀ i k, i < 8 → o.context = some i → s.context i = some k → k.occasion = h → k.actions.length ≤ 4 →
      (∀ a ∈ k.actions, ∃ holds, a.phase = .waiting holds) →
      let dropped (t : State) : Prop := ∀ g x, s.findTune g = some x →
        let n := k.actions.countP fun a => a.phase == .waiting true && match a.kind with | .play f _ _ _ => f == g | _ => false
        t.findTune g = if 0 < n ∧ x.state = .retiring ∧ x.refs ≤ n then none else some { x with refs := x.refs - n }
      (o.state ≠ .retiring → ∃ t, exec (.retireGentle dt h) s = .next t ∧ gone t i ∧ dropped t) ∧
      (∃ t, exec (.retireAbrupt dt h) s = .next t ∧ gone t i ∧ dropped t)) ∧
    (∀ i k a b c x y, i < 8 → o.context = some i → s.context i = some k → k.occasion = h → k.actions = [a, b] →
      a.phase = .waiting false → b.phase = .active c → o.outcome = [x, y] → o.state ≠ .retiring →
      ∃ t, exec (.retireGentle dt h) s = .next t ∧ t.context i = some { k with actions := [{ a with phase := .done }, b] } ∧
        ∃ z, t.occasionSlot h.slot = { gen := h.gen, record := some z } ∧
          z = { retiring with outcome := [{ kind := .cancelled, note := .none, skipped := 0, depth := false }, y] }) ∧
    (∀ i k a, i < 8 → o.context = some i → s.context i = some k → k.occasion = h → k.actions = [a] →
      (∀ c, a.phase = .active c → o.state ≠ .retiring → ∃ t, exec (.retireGentle dt h) s = .next t ∧ t.context i = some k ∧
        t.chime = s.chime ∧ t.bells = s.bells ∧ t.occasionSlot h.slot = { gen := h.gen, record := some retiring }) ∧
      (∀ c run, c < 2 → a.phase = .active (.toll c) → s.toll c = some run → run.source = .action h i 0 →
        ∃ t, exec (.retireAbrupt dt h) s = .next t ∧ gone t i ∧ t.toll c = none) ∧
      (∀ b, b < 40 → a.phase = .active (.bell b) →
        ((∃ length since isAdmitted, (s.bell b).motor = .pending length since isAdmitted [.action i 0]) ∨
          ∃ energised endAt satisfied, (s.bell b).motor = .running energised endAt satisfied [.action i 0]) →
        ∃ t, exec (.retireAbrupt dt h) s = .next t ∧ gone t i ∧ (t.bell b).motor = .off) ∧
      (∀ n x before after, a.phase = .active (.entry n) → s.chime.queue = before ++ x :: after → x.number = n →
        (∀ y ∈ before ++ after, y.number ≠ n) → x.source = .occasion h i 0 →
        ∃ t, exec (.retireAbrupt dt h) s = .next t ∧ gone t i ∧ t.chime.queue = before ++ after) ∧
      (∀ n p, a.phase = .active (.entry n) → s.chime.performance = some p → p.entry.number = n → p.ending = none →
        (∀ y ∈ s.chime.queue, y.number ≠ n) → ∃ t, exec (.retireAbrupt dt h) s = .next t ∧
          t.chime.performance = some { p with stopPending := true } ∧ t.context i = some k ∧
          t.occasionSlot h.slot = { gen := h.gen, record := some retiring }))

/-- R128 to R131: what reaching a due does in every state: ARMED within its grace the occasion fires into the lowest free context,
its actions copied with their start instants and the references of its PLAY actions to LIVE tunes taken (the reference count of a
LIVE tune rises by 1 for each PLAY action that names it, and no other tune changes), and R130, R132: the actions whose start
instants have come start at that moment; without a free context it waits. FIRING, or past its grace, the firing is MISSED, counted
up to 255 and raised. DUE_REACHED reaches the occasion that is first in due-list order of those due, GRACE_EXPIRY the one that is
first of those waiting past their grace: the earlier due first, then the higher priority, then the lower slot. R145, R146: the reset
reaches the occasions whose held dues have come in due-list order. R136: a context whose actions are all DONE is freed and its
occasion leaves it: FIRING becomes ARMED with a due and SPENT without, RETIRING is freed, and another state stays. R129: the lowest
free context is taken by the first of those waiting, in due-list order, or that one is MISSED when its grace has passed. With none
due, and none waiting past its grace, nothing happens. That contexts are freed and offered at the end of the command that brought it
about, the lowest context first, is the model's reading, log entry 10. A start instant or an end of grace past the calendar range is
kept as the sum, the model's choice, log entry 70. (Where it goes beyond the rules it rests on the model's choices of log entries 1,
2, 10, 35, 66 and 70.) -/
def Obligations.DuesFireWaitOrAreMissed : Prop :=
  let late (s : State) (o : Occasion) (d : Due) : Prop := d.instant + o.config.grace * 60 < s.time.standard
  let missed (s : State) (i : Nat) (o : Occasion) : State :=
    let due := if s.time.valid then s.computeDue o.config o.lastFired else none
    ((s.setOccasionSlot i
      { gen := (s.occasionSlot i).gen
        record := some { o with missed := min 255 (o.missed + 1), due := due, waiting := false
                                state := if o.state = .armed ∧ due = none ∧ s.time.valid = true then .spent
                                  else o.state } }).store (.occasion i)).raise .occasionMissed
  let lowestFree (s : State) (k : Nat) : Prop := k < 8 ∧ s.context k = none ∧ ∀ j, j < k → s.context j ≠ none
  (∀ (s : State) (i : Nat) (o : Occasion) (d : Due), i < 256 → (s.occasionSlot i).record = some o → o.due = some d →
    (d.instant ≤ s.time.standard → o.state = .firing ∨ (o.state = .armed ∧ late s o d) → s.reach i = missed s i o) ∧
    (o.state = .armed → ¬late s o d → (∀ k, k < 8 → s.context k ≠ none) →
      s.reach i = s.setOccasionSlot i { gen := (s.occasionSlot i).gen, record := some { o with waiting := true } }) ∧
    (∀ k, o.state = .armed → ¬late s o d → lowestFree s k → ∃ u, s.FiredInto u i k o d ∧ s.reach i = u.startDueActions k) ∧
    (o.state ≠ .armed → o.state ≠ .firing → s.reach i = s)) ∧
  (∀ (s : State) (kept : List StandingEntry) (l : List Nat), s.DueOrder l →
    s.resume kept = ((l.foldl (fun x i => x.reach i) s).reRaiseStanding kept).settleContexts) ∧
  (∀ s : State,
    (s.Settled → s.settleContexts = s) ∧
    (∀ k c, k < 8 → s.context k = some c → (∀ a ∈ c.actions, a.phase = .done) →
      (∀ j x, j < k → s.context j = some x → ∃ a ∈ x.actions, a.phase ≠ .done) →
      let freed := s.setContext k none
      s.settleContexts = (s.releaseContext k).settleContexts ∧
      (s.findOccasion c.occasion = none → s.releaseContext k = freed) ∧
      ∀ o, s.findOccasion c.occasion = some o →
        let put (r : Option Occasion) : State :=
          (freed.setOccasionSlot c.occasion.slot { gen := c.occasion.gen, record := r }).store (.occasion c.occasion.slot)
        let left : Occasion :=
          { o with context := none
                   state := if o.state = .firing then (if o.due = none then .spent else .armed) else o.state }
        (o.state = .retiring → s.releaseContext k = put none) ∧
        (o.state ≠ .retiring → left ≠ o → s.releaseContext k = put (some left)) ∧
        (o.state ≠ .retiring → left = o → s.releaseContext k = freed)) ∧
    ∀ (i k : Nat) (o : Occasion) (d : Due), s.doneContext = none → lowestFree s k → i < 256 →
      (s.occasionSlot i).record = some o → o.due = some d → o.waiting = true →
      (∀ j x y, j < 256 → j ≠ i → (s.occasionSlot j).record = some x → x.waiting = true → x.due = some y →
        o.dueAheadOf i d x j y) →
      (late s o d → s.settleContexts = (missed s i o).settleContexts ∧
        ((∀ j x, j < 256 → j ≠ i → (s.occasionSlot j).record = some x → x.waiting = false) → s.settleContexts = missed s i o)) ∧
      (¬late s o d → ∃ u, s.FiredInto u i k o d ∧ s.settleContexts = (u.startDueActions k).settleContexts ∧
        ((∀ j, j < 8 → j ≠ k → s.context j ≠ none) → o.config.actions ≠ [] →
          (∀ a ∈ o.config.actions, s.time.standard < d.instant + a.offset) → s.settleContexts = u))) ∧
  ∀ (s : State) (dt i : Nat) (o : Occasion) (d : Due), s.time.power = .mains → i < 256 →
    (s.occasionSlot i).record = some o → o.due = some d →
    let e := s.elapse dt
    (d.instant ≤ s.time.standard → o.waiting = false →
      (∀ j x, j < 256 → j ≠ i → (s.occasionSlot j).record = some x → x.waiting = true ∨
        ∀ y, x.due = some y → s.time.standard < y.instant ∨ o.dueAheadOf i d x j y) →
      exec (.dueReached dt) s = .next (e.reach i).settleContexts ∧
      (s.Settled →
        (o.state = .firing ∨ (o.state = .armed ∧ late s o d) → exec (.dueReached dt) s = .next (missed e i o)) ∧
        (o.state = .armed → ¬late s o d → (∀ k, k < 8 → s.context k ≠ none) → exec (.dueReached dt) s
          = .next (e.setOccasionSlot i { gen := (s.occasionSlot i).gen, record := some { o with waiting := true } }))) ∧
      (∀ k, o.state = .armed → ¬late s o d → lowestFree s k → ∃ u, e.FiredInto u i k o d ∧
        exec (.dueReached dt) s = .next (u.startDueActions k).settleContexts ∧
        (s.Settled → o.config.actions ≠ [] → (∀ a ∈ o.config.actions, s.time.standard < d.instant + a.offset) →
          exec (.dueReached dt) s = .next u))) ∧
    (s.Settled →
      (o.waiting = true → late s o d →
        (∀ j x y, j < 256 → j ≠ i → (s.occasionSlot j).record = some x → x.waiting = true → x.due = some y →
          y.instant + x.config.grace * 60 < s.time.standard → o.dueAheadOf i d x j y) →
        exec (.graceExpiry dt) s = .next (missed e i o)) ∧
      ((∀ j x y, j < 256 → (s.occasionSlot j).record = some x → x.waiting = true → x.due = some y →
          s.time.standard ≤ y.instant + x.config.grace * 60) → exec (.graceExpiry dt) s = .next e) ∧
      ((∀ j x, j < 256 → (s.occasionSlot j).record = some x →
          x.waiting = true ∨ ∀ y, x.due = some y → s.time.standard < y.instant) →
        exec (.dueReached dt) s = .next e))

/-- R132 to R136: ACTION_START of the first action of a context, in action-number order, that is WAITING with its start instant
come; the actions of one moment start in that order, and another is left as it is. The action may be any of the 1 to 4 of its
context, of a FIRING or a SUSPENDED occasion: its place and its outcome entry change, the other actions, entries, contexts and
occasions do not, and the context is kept until every action is DONE. A TOLL takes the lower idle channel and a SWING begins or
extends a run, and the action is ACTIVE; a PLAY does, as the performance when nothing plays or waits, or queued, PENDING, beside a
performance with room or where it displaces an entry of lower priority, pre-empting as R104 says; one whose expiry has passed is
SKIPPED EXPIRED, one that a full queue refuses REFUSED FULL, and each of these drops the action's reference; SCENE UP, SCENE DOWN
and SILENCE act and are DONE at once, SCENE UP with the note NOT STANDING where the standing list has no place; an action that
cannot start is REFUSED with its reason and raises OCCASION OUTCOME: a PLAY with no reference NO RECORD, as one whose tune is no
longer LIVE, its reference then dropped as R82 drops it; a scene that is gone or RETIRING NO RECORD, a stack that gives no way FULL.
R118: a SILENCE sets silenced-until to the later instant and removes every queued QUARTER and HOUR entry as a STOP does, counting a
miss for each that had not started, without CLOCK MISSED, and dropping its reference; the performance and the other entries stay.
The order of removal is the model's choice, log entry 62, that of the contexts its choice, log entry 66; that a context is freed at
the command's end is its reading, log entry 10. An end of a hold, an expiry or a silenced-until past the calendar range is kept as
the sum, its choice, log entry 70. (Where it goes beyond the rules it rests on the model's choices of log entries 1, 2, 10, 31, 35,
62, 66 and 70.) -/
def Obligations.ActionsStartInTheirBlock : Prop :=
  (∀ (s : State) (k : Nat),
    s.startDueActions k = (((s.startIfDue k 0).startIfDue k 1).startIfDue k 2).startIfDue k 3 ∧
    s.startAllDue = (List.range 8).foldl (fun x m => x.startDueActions m) s ∧
    ∀ j, (∀ c a holds, s.context k = some c → c.actions[j]? = some a → a.phase = .waiting holds → s.time.standard < a.start) →
      s.startIfDue k j = s) ∧
  (∀ (s : State) (dt k : Nat), s.time.power = .mains → k < 8 → s.Settled →
    (∀ c, s.context k = some c → ∀ a ∈ c.actions, ∀ holds, a.phase = .waiting holds → s.time.standard < a.start) →
    exec (.actionStart dt k) s = .next (s.elapse dt)) ∧
  ∀ (s : State) (dt k j : Nat) (c : Context) (o : Occasion) (a : ContextAction) (holds : Bool), s.time.power = .mains → k < 8 →
    s.context k = some c → c.actions[j]? = some a → a.phase = .waiting holds → a.start ≤ s.time.standard →
    s.findOccasion c.occasion = some o → j < o.outcome.length → o.state = .firing ∨ o.state = .suspended →
    let e := s.elapse dt
    let u := e.startIfDue k j
    let t := u.settleContexts
    let calm : Prop := s.doneContext = none ∧ s.firstWaiting = none
    let alone : Prop := ∀ i b, i ≠ j → c.actions[i]? = some b → b.phase = .done
    let told (kind : OutcomeKind) (note : Reason) : List Outcome :=
      o.outcome.set j { kind := kind, note := note, skipped := 0, depth := false }
    let put (phase : ActionPhase) (outcome : List Outcome) : Prop :=
      u.context k = some { c with actions := c.actions.set j { a with phase := phase } } ∧ (∀ i, i ≠ k → u.context i = s.context i) ∧
      u.findOccasion c.occasion = some { o with outcome := outcome } ∧
      ∀ i, i ≠ c.occasion.slot → u.occasionSlot i = s.occasionSlot i
    let active (h : Holder) (outcome : List Outcome) : Prop := put (.active h) outcome ∧ (calm → t = u)
    let ended (kind : OutcomeKind) (note : Reason) : Prop := put .done (told kind note) ∧
      (calm → ¬alone → t = u) ∧
      (calm → alone → t = { u with calendar := t.calendar, memory := t.memory } ∧ t.context k = none ∧
        t.findOccasion c.occasion = some { o with
          outcome := told kind note, context := none
          state := if o.state = .firing then (if o.due = none then .spent else .armed) else o.state })
    let raised : Prop := u.link.flags.getLsbD 5 = true ∧ u.link.fresh.getLsbD 5 = true
    let refused (r : Reason) : Prop := ended .refused r ∧ raised
    ((∀ i b, i < j → c.actions[i]? = some b → ∀ holds, b.phase = .waiting holds → s.time.standard < b.start) →
      exec (.actionStart dt k) s = .next t) ∧
    (∀ bell interval blows velocity, a.kind = .toll bell interval blows velocity →
      ((∃ i v, i < 2 ∧ s.toll i = some v ∧ v.bell = bell) → refused .bellClaimed) ∧
      (∀ v w, s.toll 0 = some v → s.toll 1 = some w → v.bell ≠ bell → w.bell ≠ bell → refused .noChannel) ∧
      (∀ n, n < 2 → s.toll n = none → (n = 1 → s.toll 0 ≠ none) → (∀ i v, i < 2 → s.toll i = some v → v.bell ≠ bell) →
        u.toll n = some { run := s.chime.tollsTaken + 1, bell := bell, interval := interval, blowsLeft := blows
                          velocity := velocity, source := .action c.occasion k j, start := e.nowMs, nextBlow := 1
                          scheduled := none, skipped := 0 } ∧
        active (.toll n) (told .started .none))) ∧
    (∀ bell minutes, a.kind = .swing bell minutes → bell < 40 →
      (∀ r, s.swingRefusal bell = some r → refused r) ∧
      (s.swingRefusal bell = none → (s.bell bell).motor = .off →
        (∃ admitted, (u.bell bell).motor = .pending (min 30 minutes) e.nowMs admitted [.action k j]) ∧ active (.bell bell) o.outcome) ∧
      (∀ length since admitted sources, s.swingRefusal bell = none → .action k j ∉ sources →
        (s.bell bell).motor = .pending length since admitted sources →
          u.bell bell = { s.bell bell with
            motor := .pending (max length (min 30 minutes)) since admitted (sources ++ [.action k j]) } ∧
          active (.bell bell) o.outcome) ∧
      (∀ energised endAt satisfied sources, s.swingRefusal bell = none → .action k j ∉ sources →
        (s.bell bell).motor = .running energised endAt satisfied sources →
          u.bell bell = { s.bell bell with
            motor := .running energised (max endAt (e.nowMs + min 30 minutes * 60000)) satisfied (sources ++ [.action k j]) } ∧
          active (.bell bell) (told .started .none))) ∧
    (∀ h transposition repeats yields, a.kind = .play h transposition repeats yields →
      let n := s.chime.nextNumber
      let expiry := a.start + o.config.grace * 60
      let entry : Entry :=
        { number := n, source := .occasion c.occasion k j, content := .tune h, transposition := transposition
          repeats := repeats, priority := o.config.priority, yields := yields, expiry := some expiry, leadIn := 0
          arrival := s.chime.lastArrival + 1, resume := none, started := false }
      let preempted (p : Performance) : Performance :=
        if p.ending = none ∧ p.entry.priority < o.config.priority ∧ p.entry.yields = true then { p with preemptPending := true } else p
      (holds = false → refused .noRecord) ∧
      (holds = true → (∀ x, s.findTune h = some x → x.state ≠ .live) → refused .noRecord ∧ u.chime = s.chime ∧
        ∀ x, s.findTune h = some x →
          u.findTune h = if x.state = .retiring ∧ x.refs ≤ 1 then none else some { x with refs := x.refs - 1 }) ∧
      (∀ x, holds = true → s.findTune h = some x → x.state = .live →
        (s.chime.performance = none → s.chime.queue = [] → s.time.standard ≤ expiry → ∃ p,
          u.chime.performance = some p ∧ p.entry = { entry with started := true } ∧ p.start = e.nowMs + 400 ∧
          u.chime.queue = [] ∧ active (.entry n) (told .started .none) ∧ u.findTune h = some x) ∧
        (s.chime.performance = none → s.chime.queue = [] → expiry < s.time.standard → ended .skipped .expired ∧ raised ∧
          u.chime.performance = none ∧ u.chime.queue = [] ∧ u.findTune h = some { x with refs := x.refs - 1 }) ∧
        (∀ p, s.chime.performance = some p → s.chime.queue.length < 8 →
          u.chime.queue = insertEntry s.chime.queue entry ∧ u.chime.performance = some (preempted p) ∧
          active (.entry n) (told .pending .none) ∧ u.findTune h = some x) ∧
        (∀ y, 8 ≤ s.chime.queue.length → loser s.chime.queue = some y → o.config.priority ≤ y.priority →
          y.arrival ≤ s.chime.lastArrival → refused .full ∧ u.chime.queue = s.chime.queue ∧
          u.chime.performance = s.chime.performance ∧ u.findTune h = some { x with refs := x.refs - 1 }) ∧
        (∀ p y, s.chime.performance = some p → 8 ≤ s.chime.queue.length → loser s.chime.queue = some y →
          y.priority < o.config.priority →
          let left := s.chime.queue.filter fun z => z.number != y.number
          let counted : State :=
            { e with chime.lastEntryNumber := n, chime.lastArrival := s.chime.lastArrival + 1, chime.queue := left }
          let dropped := (counted.reportEntry y .refusedFull).dropEntryRef y
          u.chime = { dropped.chime with queue := insertEntry left entry, performance := some (preempted p) } ∧
          u.tunes = dropped.tunes ∧ u.program = dropped.program ∧
          ((∀ g i m, y.source ≠ .occasion g i m) → active (.entry n) (told .pending .none))))) ∧
    (∀ h minutes x, a.kind = .sceneUp h minutes → s.findScene h = some x → x.state = .live →
      let entry : StandingEntry := { scene := h, endAt := s.time.standard + minutes * 60, creator := .occasion c.occasion }
      (s.mixer.layers = [] →
        (∃ l, u.mixer.layers = [l] ∧ l.scene = h ∧ l.target = 256 ∧ l.f = 0 ∧ l.length = 16 * x.config.fadeIn) ∧
        (s.mixer.standing = [] → u.mixer.standing = [entry] ∧ ended .done .none) ∧
        (8 ≤ s.mixer.standing.length → (∀ y ∈ s.mixer.standing, y.scene ≠ h) →
          u.mixer.standing = s.mixer.standing ∧ ended .done .notStanding)) ∧
      (8 ≤ s.mixer.layers.length →
        (∀ l ∈ s.mixer.layers, l.scene ≠ h ∧ l.target ≠ 0 ∧ x.config.priority ≤ s.layerPriority l) → refused .full ∧
        u.mixer = s.mixer ∧ u.link.flags.getLsbD 7 = true ∧ u.link.fresh.getLsbD 7 = true)) ∧
    (∀ h, (a.kind = .sceneDown h ∨ ∃ minutes, a.kind = .sceneUp h minutes) →
      (∀ x, s.findScene h = some x → x.state ≠ .live) → refused .noRecord ∧ u.mixer = s.mixer) ∧
    (∀ h x, s.ListsSound → a.kind = .sceneDown h → s.findScene h = some x → x.state = .live →
      (∀ l ∈ u.mixer.layers, l.scene = h → l.target = 0) ∧ u.mixer.layers.map (·.scene) = s.mixer.layers.map (·.scene) ∧
      u.mixer.standing = s.mixer.standing.filter (fun y => y.scene != h) ∧ ended .done .none) ∧
    (∀ minutes, a.kind = .silence minutes → (s.chime.queue.map (·.number)).Nodup → s.program.quartersMissed ≤ 65535 →
      s.program.hoursMissed ≤ 65535 →
      let quarter (x : Entry) : Bool := match x.source with | .quarter _ => true | _ => false
      let hour (x : Entry) : Bool := match x.source with | .hour _ => true | _ => false
      let gone := s.chime.queue.filter fun x => quarter x || hour x
      let outcome (x : Entry) (source : ClockSource) (m : Nat) : ClockOutcome :=
        { source := source, mark := m, report := .stopped, skipped := match x.resume with | some r => r.skipped | none => 0 }
      u.program.silencedUntil = some (max (s.program.silencedUntil.getD 0) (s.time.standard + minutes * 60)) ∧
      u.chime.queue = s.chime.queue.filter (fun x => !quarter x && !hour x) ∧ u.chime.performance = s.chime.performance ∧
      u.program.quartersMissed = min 65535 (s.program.quartersMissed + gone.countP fun x => quarter x && !x.started) ∧
      u.program.hoursMissed = min 65535 (s.program.hoursMissed + gone.countP fun x => hour x && !x.started) ∧
      (gone = [] → u.program.lastOutcome = s.program.lastOutcome) ∧
      (∀ x m, gone.getLast? = some x →
        (x.source = .quarter m → u.program.lastOutcome = some (outcome x .quarter m)) ∧
        (x.source = .hour m → u.program.lastOutcome = some (outcome x .hour m))) ∧
      u.link.flags = s.link.flags ∧
      (∀ h x, s.findTune h = some x →
        let n := gone.countP fun y => y.content == .tune h
        u.findTune h = if 0 < n ∧ x.state = .retiring ∧ x.refs ≤ n then none else some { x with refs := x.refs - n }) ∧
      ended .done .none)

/-- R141: at a SECOND the ambient line is sampled; the window holds the latest 8 samples, and its mean, once there are 8, starts or
ends the run below the threshold (R142) and the runs at 0 and at 1023 (R143). R142, R143: DUSK_CONFIRMED. At a SECOND, a run of dark
means long enough, in the hour before today's table dusk, confirms dusk for today, unless today's dusk has passed on the table, and
moves the dues of today's DUSK occasions, with their offset, earlier but not before now; one moved to now is reached at once, as
DUE_REACHED reaches it. A due that would not lie after last fired stays, the model's reading of R130, log entry 59. A dusk not
confirmed by T passes on the table, and the dates are kept whose dusk has passed, the model's choice, log entry 60. SENSOR_FAULT: at a
SECOND, a mean of 0 or 1023 for 10 minutes faults the sensor, which is written and raised. Otherwise nothing happens. That the table
dusk and the run's start are compared as standard instants is the model's reading, log entry 47. (Where it goes beyond the rules it
rests on the model's choices of log entries 1, 2, 7, 13, 35, 47, 59 and 60.) -/
def Obligations.DuskIsConfirmedOrFaulted : Prop :=
  (∀ s : State,
    (s.ambientLine = none → s.sampleAmbient = s) ∧
    (∀ i, s.ambientLine = some i ↔ s.calendar.dusk.line = some i ∧ (s.line i).record.function = .ambient) ∧
    (∀ i, s.ambientLine = some i →
      let c := s.calendar
      let reading := min 1023 (s.line i).analog
      let window := (c.window ++ [reading]).drop (c.window.length - 7)
      let mean := window.sum / 8
      s.sampleAmbient = { s.setLine i { s.line i with lastReading := some reading } with
        calendar := { c with
          window := window
          belowSince := if window.length = 8 ∧ mean < c.dusk.threshold then some (c.belowSince.getD s.time.standard) else none
          zeroSince := if window.length = 8 ∧ mean = 0 then some (c.zeroSince.getD s.nowMs) else none
          fullSince := if window.length = 8 ∧ mean = 1023 then some (c.fullSince.getD s.nowMs) else none } })) ∧
  (∀ s : State,
    let c := s.calendar
    let passes : Prop := s.time.valid = true ∧ c.tableDusk.instant < s.time.standard ∧
      (∀ x, c.confirmed = some x → x.day ≠ c.tableDusk.day) ∧ c.tableDusk.day ∉ c.duskPassed
    (passes → s.passDusk = { s with calendar.duskPassed := c.tableDusk.day :: c.duskPassed }) ∧ (¬passes → s.passDusk = s)) ∧
  (∀ (s : State) (dt : Nat), s.time.power = .mains →
    let e := s.elapse dt
    let c := s.calendar
    let now := s.time.standard
    let held : State := { e with calendar.confirmed := some { day := s.today, instant := now } }
    let confirms : Prop := s.time.lastSecond = some e.clock ∧ s.time.valid = true ∧ c.dusk.sensorFault = false ∧
      (∀ x, c.confirmed = some x → x.day < s.today) ∧ s.today ∉ c.duskPassed ∧ (∃ b, c.belowSince = some b ∧ b + c.dusk.confirm * 60 ≤ now) ∧
      c.tableDusk.instant ≤ now + 3600 ∧ now ≤ c.tableDusk.instant
    let fails : Prop := s.time.lastSecond = some e.clock ∧ c.dusk.sensorFault = false ∧
      ∃ since, (c.zeroSince = some since ∨ c.fullSince = some since) ∧ since + 600000 ≤ e.nowMs
    s.today = s.localNow / 86400 ∧
    (¬confirms → exec (.duskConfirmed dt) s = .next e) ∧
    (confirms → s.Settled →
      (∀ j o, j < 256 → (s.occasionSlot j).record = some o → ∀ n, o.config.anchor ≠ .dusk n) →
      exec (.duskConfirmed dt) s = .next held) ∧
    (∀ i o n d, confirms → s.Settled → i < 256 → (s.occasionSlot i).record = some o → o.config.anchor = .dusk n →
      o.due = some d → d.day = s.today →
      (∀ j x, j < 256 → j ≠ i → (s.occasionSlot j).record = some x → ∀ n, x.config.anchor ≠ .dusk n) →
      let moved (at_ : Nat) : State := State.store (held.setOccasionSlot i
        { gen := (s.occasionSlot i).gen, record := some { o with due := some { d with instant := at_ } } }) (.occasion i)
      let later (at_ : Int) : Prop := ∀ x, o.lastFired = some x → (x : Int) < at_
      (0 < n → (now : Int) + n * 60 < d.instant → later ((now : Int) + n * 60) →
        exec (.duskConfirmed dt) s = .next (moved ((now : Int) + n * 60).toNat)) ∧
      (0 < n → (d.instant : Int) ≤ (now : Int) + n * 60 → exec (.duskConfirmed dt) s = .next held) ∧
      (n ≤ 0 → d.instant ≤ now → exec (.duskConfirmed dt) s = .next held) ∧
      (¬later (max ((now : Int) + n * 60) now) → exec (.duskConfirmed dt) s = .next held) ∧
      (n ≤ 0 → now < d.instant → later now → o.waiting = false →
        (∀ j x y, j < 256 → j ≠ i → (s.occasionSlot j).record = some x → x.due = some y → now < y.instant) →
        exec (.duskConfirmed dt) s = exec (.dueReached 0) (moved now))) ∧
    (¬fails → exec (.sensorFault dt) s = .next e) ∧
    (fails → exec (.sensorFault dt) s
      = .next ((State.askWrite { e with calendar.dusk.sensorFault := true } .sensorFault).raise .sensorFault)))

/-! ## Floodlights and the feeder (chapters 9 and 10) -/

/-- R161: in each of the 16 cycles of 256 counts the LAMP line is active from the start of the cycle for D div 16 counts, one more
in a cycle with an extra count, and so for exactly D of the 4096 counts of the frame. The LAMP line of a channel in service carries
its delivered level so, eight counts to a crystal count and 512 crystal counts to a frame. (Where it goes beyond the rules it rests
on the model's choices of log entry 15.) -/
def Obligations.LampIsOnForExactlyItsLevel : Prop :=
  (∀ level : Nat, level ≤ 4095 →
    (∀ cycle n, cycle < 16 → n < 256 →
      (lampOn level (cycle * 256 + n) = true ↔
        n < level / 16 + (if cycle * (level % 16) / 16 < (cycle + 1) * (level % 16) / 16 then 1 else 0))) ∧
    (List.range 4096).countP (fun n => lampOn level n) = level) ∧
  (∀ (s : State) (i c : Nat), s.time.power = .mains → (s.line i).record.function = .lamp → (s.line i).record.bound = some c →
    (s.channel c).config.inService = true → s.outputActive i = lampOn (s.channel c).levels.delivered (s.clock % 512 * 8))

/-- R155, R157: the factor of a layer at the computation of frame k, n frames after its fade began, and the levels of a mix: both
forms keep a level within 0 to 4095. -/
def Obligations.FadesRunFrameByFrame : Prop :=
  (∀ (l : Layer) (k n : Nat), n < 4294967296 → l.k0 < 4294967296 → k = (l.k0 + n) % 4294967296 → l.f0 ≤ 256 →
    (l.length = 0 ∨ l.length ≤ n → l.factor k = l.target) ∧
    (l.length ≠ 0 → n < l.length →
      (l.target = 256 → l.factor k = l.f0 + (256 - l.f0) * n / l.length ∧ l.f0 ≤ l.factor k ∧ l.factor k < 256 + 1) ∧
      (l.target = 0 → l.factor k = l.f0 - l.f0 * n / l.length ∧ l.factor k ≤ l.f0) ∧
      (n = 0 → l.target = 0 ∨ l.target = 256 → l.factor k = l.f0))) ∧
  (∀ out v f : Nat, out ≤ 4095 → v ≤ 4095 → f ≤ 256 →
    mixLevel .top out v f = (out * (256 - f) + v * f) / 256 ∧ mixLevel .max out v f = max out (v * f / 256) ∧
    mixLevel .top out v f ≤ 4095 ∧ mixLevel .max out v f ≤ 4095 ∧ mixLevel .top out v 256 = v)

/-- R174, R175, R159, R160: the terms, the target and the scale; with a scale of at most the target, what the lamps draw at the levels
delivered is within the budget, since 4095 times it bounds the sum of rating times level. -/
def Obligations.LampsDrawAtMostTheBudget : Prop :=
  (∀ rating level : Nat, rating * level ≤ 4095 * channelTerm rating level ∧ 4095 * channelTerm rating level < rating * level + 4095) ∧
  (∀ demand budget : Nat, (demand ≤ budget → targetScale demand budget = 4096) ∧
    (budget < demand → targetScale demand budget = 4096 * budget / demand)) ∧
  (∀ target previous : Nat, (target < previous → nextScale target previous = target) ∧
    (previous ≤ target → nextScale target previous = min target (previous + 64)) ∧ nextScale target previous ≤ target) ∧
  (∀ (lamps : List (Nat × Nat × Nat)) (budget scale : Nat),
    scale ≤ targetScale ((lamps.map fun x => channelTerm x.1 x.2.1).sum) budget →
    (lamps.map fun x => x.1 * flooredLevel (scaledLevel x.2.1 scale) x.2.2).sum ≤ 4095 * budget)

/-- R151, R159, R174 to R176: FRAME_BOUNDARY. The levels computed for the frame that begins take effect on the channels in service,
its scale is in effect, the motors that awaited it are energised, every source told STARTED (R53, R135), and the next frame is
computed from the capacity and the load as they stand: every layer's factor (R155), a layer faded out leaving the stack and its
scene, if RETIRING, freed (R156, R165); every channel's mixed level, the layers in stack order over 0 (R157), capped at its ceiling
(R158); the demand over the channels in service (R174); and the levels that will be delivered, scaled and floored (R159, R160).
Before the boundary, and in RESERVE, nothing happens. (Where it goes beyond the rules it rests on the model's choices of log entries
1, 2, 15 and 66.) -/
def Obligations.FrameBoundaryDeliversAndComputes : Prop :=
  ∀ (s : State) (dt : Nat),
    let e := s.elapse dt
    let k := s.mixer.nextFrame
    let next := (k + 1) % 4294967296
    (s.time.power = .reserve ∨ e.clock / 512 ≤ s.mixer.frameMark → exec (.frameBoundary dt) s = .next e) ∧
    (s.time.power = .mains → s.mixer.frameMark < e.clock / 512 → ∃ t c, exec (.frameBoundary dt) s = .next t ∧
      t.time = e.time ∧ t.clock = e.clock ∧ t.mixer.nextFrame = next ∧ t.mixer.frameMark = e.clock / 512 ∧
      t.mixer.computed.isSome = true ∧
      (∀ v i, s.mixer.computed = some v → i < 24 → (t.channel i).config = (s.channel i).config ∧
        (t.channel i).levels = if (s.channel i).config.inService = true then v.getD i Levels.dark else Levels.dark) ∧
      t.feeder.record = some c ∧ c.frame = next ∧ c.capacity = s.feeder.capacity ∧ c.load = s.feeder.load ∧
      c.budget = s.feeder.capacity - s.feeder.load ∧
      c.target = (if c.demand ≤ c.budget then 4096 else 4096 * c.budget / c.demand) ∧
      c.scale = (if c.target < s.feeder.previousScale then c.target else min c.target (s.feeder.previousScale + 64)) ∧
      t.feeder.previousScale = c.scale ∧ t.feeder.shed = decide (c.scale < 4096) ∧
      (s.feeder.shed = false → c.scale < 4096 → t.link.flags.getLsbD 8 = true ∧ t.link.fresh.getLsbD 8 = true) ∧
      (∀ old, s.feeder.record = some old → old.frame = k → t.feeder.scaleInEffect = old.scale) ∧
      (∀ r ∈ t.feeder.admitted, r.awaiting ≠ none ∧ (r.awaiting = some k → r.permitted = true ∨ k = next)) ∧
      (∀ r ∈ s.feeder.admitted, r.awaiting = some k → r.permitted = false → r.bell < 40 →
        ∀ length since admitted sources, (s.bell r.bell).motor = .pending length since admitted sources →
          (t.bell r.bell).motor = .running e.nowMs (e.nowMs + length * 60000) false sources ∧
          ∀ i j x o, .action i j ∈ sources → s.context i = some x → s.findOccasion x.occasion = some o → j < o.outcome.length →
            ∃ z, t.findOccasion x.occasion = some z ∧ z.state = o.state ∧
              z.outcome[j]? = some { kind := .started, note := .none, skipped := 0, depth := false }) ∧
      (s.ListsSound →
        let faded (l : Layer) : Prop := l.target = 0 ∧ l.factor next = 0
        t.mixer.layers = (s.mixer.layers.filter fun l => !(l.target == 0 && l.factor next == 0)).map
          (fun l => { l with f := l.factor next }) ∧
        ∀ h x, h.slot < 32 → s.findScene h = some x →
          (x.state = .retiring → (∃ l ∈ s.mixer.layers, l.scene = h ∧ faded l) → t.findScene h = none) ∧
          (x.state = .live ∨ (∀ l ∈ s.mixer.layers, l.scene = h → ¬faded l) → t.findScene h = some x)) ∧
      (let mixed (i : Nat) : Nat := t.mixer.layers.foldl (fun out l => match t.findScene l.scene with
          | none => out
          | some x => match x.config.levels.find? (fun p => p.1 == i) with
            | none => out
            | some p => mixLevel x.config.mode out p.2 l.f) 0
       let capped (i : Nat) : Nat := min (mixed i) (s.channel i).config.ceiling
       let lit (i : Nat) : Prop := (s.channel i).config.inService = true
       c.demand = ((List.range 24).map fun i => if lit i then channelTerm (s.channel i).config.rating (capped i) else 0).sum ∧
       ∀ v i, t.mixer.computed = some v → i < 24 →
         let scaled := capped i * c.scale / 4096
         (lit i → v.getD i Levels.dark
           = { mixed := mixed i, capped := capped i
               delivered := if 0 < scaled ∧ scaled < (s.channel i).config.floor then 0 else scaled }) ∧
         (¬lit i → v.getD i Levels.dark = Levels.dark)))

/-- R150, R152 to R154, R162, R163, R165, R168: STORE, RAISE, LOWER and RETIRE of a scene, and the end of a standing entry. A stored
scene takes the lowest free slot, LIVE. A raise adds a layer fading in from 0 at its place in stack order, layer priority and then
raise sequence ascending, turns a fade out back, or changes nothing. In a stack of 8 layers a layer fading out gives way, the one of
the smallest factor, else the latest raised of the lowest layer priority when that is below the scene's; where none does, the raise
is refused and SCENE REFUSED is raised. A raise with a hold makes a standing entry or refreshes the one there is, and is answered
NOT STANDING where the list has no place. A lower starts the fade out of a layer and takes the standing entry away, as the entry's
end does; a layer that already fades out goes on as it was. RETIRE, GENTLE and ABRUPT alike, takes the standing entry away and frees
a scene without a layer, and makes one with a layer RETIRING and lowers it; the request's last write carries its answer. R163: at a
TIME SET every entry whose end has come ends, and R167: at a return or a RESTART the entries' scenes are raised again, one after
another; a re-raise that the full stack refuses removes its entry and raises SCENE REFUSED. That a raise judges its hold before its
handle is the model's choice, log entry 33, and that the factor by which a layer gives way is the one of the latest computation is
its reading, log entry 43; the note's code in the answer is its choice, log entry 56, as are that entries which end together end in
list order, log entry 66, and that an end instant past the calendar range is kept as the sum, log entry 70. (Where it goes beyond the
rules it rests on the model's choices of log entries 1, 2, 4, 13, 15, 23, 33, 38, 43, 56, 66 and 70.) -/
def Obligations.ScenesAreRaisedAndLowered : Prop :=
  ∀ (s : State) (dt : Nat), s.time.power = .mains →
    let e := s.elapse dt
    let inOrder (l : List Layer) : Prop := l.Pairwise fun a b =>
      s.layerPriority a < s.layerPriority b ∨ (s.layerPriority a = s.layerPriority b ∧ a.sequence < b.sequence)
    let staysInOrder (t : State) : Prop := inOrder s.mixer.layers →
      (∀ l ∈ s.mixer.layers, l.sequence ≤ s.mixer.raiseSequence) → inOrder t.mixer.layers
    (∀ c i, s.HostReady → sceneConfigOk c = true → i < 32 → (s.sceneSlot i).record = none →
      (∀ j, j < i → (s.sceneSlot j).record ≠ none) →
      let gen := if (s.sceneSlot i).gen < 255 then (s.sceneSlot i).gen + 1 else 1
      exec (.storeScene dt c) s = .next
        { (e.working (.storeScene c)).setSceneSlot i { gen := gen, record := some { config := c, state := .live } } with
          memory.writes := [{ effect := .stored (.scene i), response := some (reply .done i gen) }] }) ∧
    (∀ c, s.HostReady → sceneConfigOk c = true → (∀ j, j < 32 → (s.sceneSlot j).record ≠ none) →
      exec (.storeScene dt c) s = .next ((e.working (.storeScene c)).answer (reply .full 0 0))) ∧
    (∀ c, s.HostReady → sceneConfigOk c = false →
      exec (.storeScene dt c) s = .next ((e.working (.storeScene c)).answer (reply .badField 0 0))) ∧
    (∀ (h : Handle) (x : Scene), s.HostReady → h.slot < 32 → 1 ≤ h.gen → h.gen ≤ 255 → s.findScene h = some x →
      let up := e.working (.raiseScene h none)
      let down := e.working (.lowerScene h)
      let layer : Layer :=
        { scene := h, sequence := s.mixer.raiseSequence + 1, f := 0, f0 := 0, target := 256
          k0 := (s.mixer.nextFrame + 1) % 4294967296, length := 16 * x.config.fadeIn }
      let turned (target length : Nat) : List Layer := s.mixer.layers.map fun l =>
        if l.scene = h then { l with f0 := l.f, target := target, k0 := (s.mixer.nextFrame + 1) % 4294967296, length := length }
        else l
      let raised (t : State) (target f : Nat) : Prop := exec (.raiseScene dt h none) s
        = .next (t.answer (reply .done h.slot h.gen (u16 target ++ u16 f ++ u8 0)))
      let stands : Prop := ∃ y ∈ s.mixer.standing, y.scene = h
      let unlisted := s.mixer.standing.filter fun y => y.scene != h
      let faded (l : Layer) : List Layer := if l.target = 0 then s.mixer.layers else turned 0 (16 * x.config.fadeOut)
      (x.state = .retiring → exec (.raiseScene dt h none) s = .next (up.answer (reply .wrongState h.slot h.gen)) ∧
        ∀ mode, exec (.retireScene dt h mode) s
          = .next ((e.working (.retireScene h mode)).answer (reply .wrongState h.slot h.gen))) ∧
      (x.state = .live →
        (s.mixer.layers = [] → raised
          { up with mixer.layers := [layer], mixer.raiseSequence := s.mixer.raiseSequence + 1 } 256 0) ∧
        ((∀ l ∈ s.mixer.layers, l.scene ≠ h) → s.mixer.layers.length < 8 → ∃ t, exec (.raiseScene dt h none) s = .next t ∧
          t.mixer.layers.Perm (layer :: s.mixer.layers) ∧ staysInOrder t ∧ t.link.inProgress = none) ∧
        (∀ l, s.mixer.layers.find? (fun y => y.scene = h) = some l →
          (l.target = 256 → raised up 256 l.f) ∧
          (l.target = 0 → raised { up with mixer.layers := turned 256 (16 * x.config.fadeIn) } 256 l.f)) ∧
        ((∀ l ∈ s.mixer.layers, l.scene ≠ h ∧ l.target ≠ 0 ∧ x.config.priority ≤ s.layerPriority l) →
          8 ≤ s.mixer.layers.length → exec (.raiseScene dt h none) s
            = .next ((up.raise .sceneRefused).answer (reply .full h.slot h.gen))) ∧
        (∀ m, 1 ≤ m → m ≤ 1440 → s.mixer.layers = [] → s.mixer.standing = [] → exec (.raiseScene dt h (some m)) s = .next
          { e.working (.raiseScene h (some m)) with
            mixer.layers := [layer], mixer.raiseSequence := s.mixer.raiseSequence + 1
            mixer.standing := [{ scene := h, endAt := s.time.standard + m * 60, creator := .command }]
            memory.writes := [{ effect := .stored .standingList
                                response := some (reply .done h.slot h.gen (u16 256 ++ u16 0 ++ u8 0)) }] }) ∧
        (∀ mode,
          let retired (slot : Slot Scene) (layers : List Layer) (writes : List Write) : Prop :=
            exec (.retireScene dt h mode) s = .next
              { (e.working (.retireScene h mode)).setSceneSlot h.slot slot with
                mixer.layers := layers, mixer.standing := unlisted, memory.writes := writes }
          let scene (r : Option Response) : Write := { effect := .stored (.scene h.slot), response := r }
          let list (r : Option Response) : Write := { effect := .stored .standingList, response := r }
          let answer (way : Nat) : Option Response := some (reply .done h.slot h.gen (u8 way))
          let free : Slot Scene := { gen := h.gen, record := none }
          let retiring : Slot Scene := { gen := h.gen, record := some { x with state := .retiring } }
          ((∀ l ∈ s.mixer.layers, l.scene ≠ h) →
            (¬stands → retired free s.mixer.layers [scene (answer 0)]) ∧
            (stands → retired free s.mixer.layers [list none, scene (answer 0)])) ∧
          (∀ l, s.mixer.layers.find? (fun y => y.scene = h) = some l →
            (¬stands → retired retiring (faded l) [scene (answer 1)]) ∧
            (stands → retired retiring (faded l) [scene none, list (answer 1)])))) ∧
      ((∀ y ∈ s.mixer.standing, y.scene ≠ h) →
        (∀ l, s.mixer.layers.find? (fun y => y.scene = h) = some l → l.target ≠ 0 → exec (.lowerScene dt h) s
          = .next (State.answer { down with mixer.layers := turned 0 (16 * x.config.fadeOut) } (reply .done h.slot h.gen))) ∧
        ((∀ l ∈ s.mixer.layers, l.scene = h → l.target = 0) →
          exec (.lowerScene dt h) s = .next (down.answer (reply .done h.slot h.gen)))) ∧
      (stands →
        let list : Write := { effect := .stored .standingList, response := some (reply .done h.slot h.gen) }
        ((∀ l ∈ s.mixer.layers, l.scene ≠ h) → exec (.lowerScene dt h) s
          = .next { down with mixer.standing := unlisted, memory.writes := [list] }) ∧
        (∀ l, s.mixer.layers.find? (fun y => y.scene = h) = some l → exec (.lowerScene dt h) s
          = .next { down with mixer.layers := faded l, mixer.standing := unlisted, memory.writes := [list] }))) ∧
    (∀ (h : Handle) (x : Scene), s.HostReady → s.ListsSound → h.slot < 32 → 1 ≤ h.gen → h.gen ≤ 255 →
      s.findScene h = some x → x.state = .live → 8 ≤ s.mixer.layers.length → (∀ l ∈ s.mixer.layers, l.scene ≠ h) →
      let layer : Layer :=
        { scene := h, sequence := s.mixer.raiseSequence + 1, f := 0, f0 := 0, target := 256
          k0 := (s.mixer.nextFrame + 1) % 4294967296, length := 16 * x.config.fadeIn }
      let replaces (l : Layer) : Prop := ∃ t, exec (.raiseScene dt h none) s = .next t ∧
        t.mixer.layers.Perm (layer :: s.mixer.layers.filter fun y => y.scene != l.scene) ∧ staysInOrder t ∧
        t.mixer.raiseSequence = s.mixer.raiseSequence + 1 ∧
        ((∀ z, s.findScene l.scene = some z → z.state = .live) → t.link.inProgress = none) ∧
        (∀ z, l.scene.slot < 32 → s.findScene l.scene = some z → z.state = .retiring → t.findScene l.scene = none)
      (∀ l before after, s.mixer.layers = before ++ l :: after → l.target = 0 →
        (∀ y ∈ before, y.target = 0 → l.f < y.f) → (∀ y ∈ after, y.target = 0 → l.f ≤ y.f) → replaces l) ∧
      (∀ l ∈ s.mixer.layers, (∀ y ∈ s.mixer.layers, y.target ≠ 0 ∧ s.layerPriority l ≤ s.layerPriority y ∧
          (y ≠ l → s.layerPriority y = s.layerPriority l → y.sequence < l.sequence)) →
        s.layerPriority l < x.config.priority → replaces l)) ∧
    (∀ (h : Handle) (x : Scene) (l : Layer) (m : Nat), s.HostReady → h.slot < 32 → 1 ≤ h.gen → h.gen ≤ 255 →
      s.findScene h = some x → x.state = .live → s.mixer.layers.find? (fun y => y.scene = h) = some l → l.target = 256 →
      1 ≤ m → m ≤ 1440 →
      let up := e.working (.raiseScene h (some m))
      let entry : StandingEntry := { scene := h, endAt := s.time.standard + m * 60, creator := .command }
      let stands (list : List StandingEntry) : Prop := exec (.raiseScene dt h (some m)) s = .next { up with
        mixer.standing := list
        memory.writes := [{ effect := .stored .standingList
                            response := some (reply .done h.slot h.gen (u16 256 ++ u16 l.f ++ u8 0)) }] }
      ((∃ y ∈ s.mixer.standing, y.scene = h) → stands (s.mixer.standing.map fun y => if y.scene = h then entry else y)) ∧
      ((∀ y ∈ s.mixer.standing, y.scene ≠ h) →
        (s.mixer.standing.length < 8 → stands (s.mixer.standing ++ [entry])) ∧
        (8 ≤ s.mixer.standing.length → exec (.raiseScene dt h (some m)) s
          = .next (up.answer (reply .done h.slot h.gen (u16 256 ++ u16 l.f ++ u8 15)))))) ∧
    (∀ (h : Handle) (hold : Option Nat), s.HostReady → (hold = some 0 ∨ ∃ m, hold = some m ∧ 1440 < m) →
      exec (.raiseScene dt h hold) s = .next ((e.working (.raiseScene h hold)).answer (reply .badField h.slot h.gen))) ∧
    (∀ c, sceneConfigOk c = true ↔ c.label.length ≤ 16 ∧ 1 ≤ c.levels.length ∧ c.levels.length ≤ 24 ∧
      (∀ x ∈ c.levels, x.1 < 24 ∧ x.2 ≤ 4095) ∧ (c.levels.map (·.1)).Nodup ∧ c.fadeIn ≤ 2400 ∧ c.fadeOut ≤ 2400 ∧
      c.priority ≤ 7) ∧
    ((∀ y ∈ s.mixer.standing, s.time.standard < y.endAt) → exec (.standingEntryEnd dt) s = .next e ∧
      s.endStandingEntries = s) ∧
    (∀ y, s.mixer.standing.find? (fun y => y.endAt ≤ s.time.standard) = some y → (∀ l ∈ s.mixer.layers, l.scene ≠ y.scene) →
      exec (.standingEntryEnd dt) s = .next (State.store
        { e with mixer.standing := s.mixer.standing.filter fun z => z.scene != y.scene } .standingList)) ∧
    (∀ y l x, s.mixer.standing.find? (fun y => y.endAt ≤ s.time.standard) = some y → s.findScene y.scene = some x →
      s.mixer.layers.find? (fun z => z.scene = y.scene) = some l →
      let removed : State :=
        State.store { e with mixer.standing := s.mixer.standing.filter fun z => z.scene != y.scene } .standingList
      let dark (z : Layer) : Layer :=
        { z with f0 := z.f, target := 0, k0 := (s.mixer.nextFrame + 1) % 4294967296, length := 16 * x.config.fadeOut }
      (l.target = 0 → exec (.standingEntryEnd dt) s = .next removed) ∧
      (l.target ≠ 0 → exec (.standingEntryEnd dt) s
        = .next { removed with mixer.layers := s.mixer.layers.map fun z => if z.scene = y.scene then dark z else z })) ∧
    (∀ y t, s.ListsSound → s.mixer.standing.find? (fun y => y.endAt ≤ s.time.standard) = some y →
      exec (.standingEntryEnd 0) s = .next t → t.time = s.time → t.clock = s.clock →
      s.endStandingEntries = t.endStandingEntries) ∧
    (∀ y x, y ∈ s.mixer.standing → s.findScene y.scene = some x →
      (x.state = .live → s.mixer.layers = [] → ∃ t l, s.reRaiseStanding [y] = t ∧ t.mixer.standing = s.mixer.standing ∧
        t.mixer.layers = [l] ∧ l.scene = y.scene ∧ l.target = 256 ∧ l.f = 0 ∧ l.length = 16 * x.config.fadeIn) ∧
      (x.state ≠ .live → (s.reRaiseStanding [y]).mixer.layers = s.mixer.layers ∧
        (s.reRaiseStanding [y]).mixer.standing = s.mixer.standing.filter fun z => z.scene != y.scene) ∧
      (x.state = .live → 8 ≤ s.mixer.layers.length →
        (∀ l ∈ s.mixer.layers, l.scene ≠ y.scene ∧ l.target ≠ 0 ∧ x.config.priority ≤ s.layerPriority l) →
        s.reRaiseStanding [y] = State.store { s.raise .sceneRefused with
          mixer.standing := s.mixer.standing.filter fun z => z.scene != y.scene } .standingList)) ∧
    (∀ y rest, s.reRaiseStanding (y :: rest) = (s.reRaiseStanding [y]).reRaiseStanding rest)

/-! ## Command Link and record memory (chapter 11) -/

/-- R179, R180, R181, R182: FRAME_BEGIN asserts SEL and in MAINS attaches the response that waits and settles whether the frame is
OPEN; the frame shifts out its header and payload, and then zeros, most significant bit first. FRAME_END releases SEL, and the whole
bytes sampled in a frame that began OPEN are judged: none of a request change nothing, a bad frame is answered BAD FRAME, a request
is taken, and waits to be routed while another block's write is in progress. REQUEST_ROUTED works a request once that write has
ended; READ STATE of a bell then answers the stroke state at the taking (R72), and a feeder AMEND is tested against the load at the
taking (R170). The bytes of each request by its command, class and payload (R184, section 11.5), fields most significant byte first;
the records are laid out as ReadingChangesNothing says, a label without zeros at its end. Nothing else is read as a request: not a
class that section 11.5 does not list for the command, not a payload cut short, and not one with a code not defined for its field; any
payload of a record that is read begins with that record's bytes. The bytes after a request's last field, the bytes of an occasion
record and of a REST or CALL step that stand unused, and the bits that name nothing in a set, a window byte or the flags are not
judged, the model's choice, log entry 25. That a payload which cannot be read is BAD
FIELD before the owner's checks, but for the steps of an APPEND STEPS, is the model's choice, log entries 25 and 33. (Where it goes
beyond the rules it rests on the model's choices of log entries 1, 2, 4, 23, 24, 25, 30, 33, 34 and 52.) -/
def Obligations.FramesBringRequests : Prop :=
  (∀ (s : State) (dt : Nat) (bits : List Bool),
    let e := s.elapse dt
    (s.time.power = .mains → s.link.sel = false → exec (.frameBegin dt) s = .next
      { e with link.sel := true, link.frame := some { openAtBegin := s.linkOpen, response := s.link.waiting }
               link.waiting := none }) ∧
    (s.time.power = .reserve → exec (.frameBegin dt) s = .next { e with link.sel := true }) ∧
    (s.link.sel = true → exec (.frameBegin dt) s = .next e) ∧
    (s.linkOpen = true ↔ s.link.inProgress = none ∧ s.memory.writes = [] ∧ s.hammers.gate = .closed) ∧
    (s.link.frame = none → exec (.frameEnd dt bits) s = .next { e with link.sel := false }) ∧
    (∀ f, s.link.frame = some f →
      let done : State := { e with link.sel := false, link.frame := none }
      let content := decodeFrame (shiftedBytes bits)
      (s.time.power = .reserve ∨ f.openAtBegin = false → exec (.frameEnd dt bits) s = .next done) ∧
      (s.time.power = .mains → f.openAtBegin = true →
        (content = .nothing → exec (.frameEnd dt bits) s = .next done) ∧
        (content = .badFrame → exec (.frameEnd dt bits) s
          = .next { done with link.waiting := some (reply .badFrame 0 0) }) ∧
        (∀ x, content = .taken x →
          (s.memory.writes ≠ [] → exec (.frameEnd dt bits) s
            = .next { done with
              link.inProgress := some { task := x, phase := .awaitingWrite, taken := e.clock, seen := e.seenBy x } }) ∧
          (s.memory.writes = [] → exec (.frameEnd dt bits) s
            = .next (State.workTask { done with
                link.inProgress := some { task := x, phase := .working, taken := e.clock, seen := e.seenBy x } } x))))) ∧
    (∀ b, e.seenBy (.request (.readStateBell b)) = .stroke (s.stroke b)) ∧
    (∀ c, e.seenBy (.request (.amendFeeder c)) = .load s.feeder.load) ∧
    (s.time.power = .mains →
      (∀ x c v, s.link.inProgress = some { task := x, phase := .ready, taken := c, seen := v } → exec (.requestRouted dt) s
        = .next (State.workTask { e with link.inProgress := some { task := x, phase := .working, taken := c, seen := v } } x)) ∧
      ((∀ x c v, s.link.inProgress ≠ some { task := x, phase := .ready, taken := c, seen := v }) →
        exec (.requestRouted dt) s = .next e) ∧
      (∀ b c k, b < 40 → s.link.inProgress
          = some { task := .request (.readStateBell b), phase := .ready, taken := c, seen := .stroke k } →
        exec (.requestRouted dt) s = .next (e.answer (reply .done b 0 (e.bellReport b k)))) ∧
      (∀ n c m, n ≤ 60000 → s.link.inProgress
          = some { task := .request (.amendFeeder n), phase := .ready, taken := c, seen := .load m } →
        (n < m → exec (.requestRouted dt) s = .next (e.answer (reply .wrongState 0 0))) ∧
        (m ≤ n → ∃ t, exec (.requestRouted dt) s = .next t ∧ t.feeder = s.feeder ∧ t.memory.writes
          = s.memory.writes ++ [{ effect := .feeder n, response := some (reply .done 0 0) }]))) ∧
    (∀ r, s.workTask (.request r) = s.work r) ∧
    (∀ status slot gen, s.workTask (.refused status slot gen) = s.answer (reply status slot gen)) ∧
    (∀ n, (s.time.power = .reserve ∨ s.link.sel = false ∨ s.link.frame = none → s.sdo n = none) ∧
      ∀ f, s.time.power = .mains → s.link.sel = true → s.link.frame = some f → s.sdo n = some (f.bitOut n))) ∧
  (∀ (f : LinkFrame) (r : Response) (n : Nat),
    f.bitOut n = (f.byteOut (n / 8)).getLsbD (7 - n % 8) ∧
    (f.response = some r →
      f.byteOut 0 = BitVec.ofNat 8 (statusCode r.status) ∧ f.byteOut 1 = (if f.openAtBegin then 3#8 else 2#8) ∧
      f.byteOut 2 = BitVec.ofNat 8 r.slot ∧ f.byteOut 3 = BitVec.ofNat 8 r.gen ∧
      f.byteOut 4 = BitVec.ofNat 8 (r.payload.length / 256) ∧ f.byteOut 5 = BitVec.ofNat 8 r.payload.length ∧
      f.byteOut (n + 6) = r.payload.getD n 0#8) ∧
    (f.response = none →
      f.byteOut 0 = (if f.openAtBegin then 0#8 else 2#8) ∧ f.byteOut 1 = (if f.openAtBegin then 1#8 else 0#8) ∧
      f.byteOut (n + 2) = 0#8)) ∧
  [Status.idle, .done, .busy, .noRecord, .full, .poolFull, .wrongState, .badField, .badFrame].map statusCode
    = [0, 1, 2, 3, 4, 5, 6, 7, 8] ∧
  (∀ bits : List Bool, (shiftedBytes bits).length = bits.length / 8 ∧
    ∀ k j, k < bits.length / 8 → j < 8 → ((shiftedBytes bits).getD k 0#8).getLsbD (7 - j) = bits.getD (8 * k + j) false) ∧
  (∀ bytes : List Byte,
    let b (k : Nat) : Nat := (bytes.getD k 0#8).toNat
    let length := b 4 * 256 + b 5
    (b 0 = 0 → decodeFrame bytes = .nothing) ∧
    (b 0 ≠ 0 → (bytes.length < 6 ∨ 512 < length ∨ bytes.length < 6 + length ∨ 22 < b 0 ∨ b 1 = 0 ∨ 22 < b 1) →
      decodeFrame bytes = .badFrame) ∧
    (b 0 ≠ 0 → 6 ≤ bytes.length → length ≤ 512 → 6 + length ≤ bytes.length → b 0 ≤ 22 → b 1 ≠ 0 → b 1 ≤ 22 →
      let payload := (bytes.drop 6).take length
      let refusal (x : Status) : Task :=
        if (b 1 = 5 ∨ b 1 = 8 ∨ b 1 = 12) ∧ b 0 ≠ 2 ∧ b 0 ≠ 3 ∧ b 0 ≠ 4 then .refused x (b 2) (b 3)
        else if b 1 = 2 ∨ b 1 = 3 ∨ b 1 = 4 ∨ b 1 = 11 ∨ b 1 = 15 then .refused x (b 2) 0
        else .refused x 0 0
      ((b 0 = 3 ∨ b 0 = 8) ∧ (b 1 = 7 ∨ b 1 = 13) → decodeFrame bytes = .taken (.refused .wrongState 0 0)) ∧
      (¬((b 0 = 3 ∨ b 0 = 8) ∧ (b 1 = 7 ∨ b 1 = 13)) →
        (∀ r, decodeRequest (b 0) (b 1) (b 2) (b 3) payload = some r → decodeFrame bytes = .taken (.request r)) ∧
        (decodeRequest (b 0) (b 1) (b 2) (b 3) payload = none →
          (b 0 = 5 ∧ b 1 = 5 → decodeFrame bytes = .taken (.badSteps { slot := b 2, gen := b 3 })) ∧
          (¬(b 0 = 5 ∧ b 1 = 5) → decodeFrame bytes = .taken (refusal .badField)))))) ∧
  (∀ (slot gen : Nat) (rest : List Byte),
    let h : Handle := { slot := slot, gen := gen }
    let be (k n : Nat) : List Byte := (List.range k).map fun j => BitVec.ofNat 8 (n / 256 ^ (k - 1 - j))
    let instant (d : DateTime) : List Byte := be 2 d.date.year ++ be 1 d.date.month ++ be 1 d.date.day ++ be 1 d.hour
      ++ be 1 d.minute ++ be 1 d.second
    let ends (l : Label) : Prop := l.getLast? ≠ some 0#8
    let whole (command cls : Nat) (p : List Byte) (q : Request) : Prop := decodeRequest command cls slot gen p = some q
    let refused (command cls : Nat) (p : List Byte) : Prop := decodeRequest command cls slot gen p = none
    let reads (command cls : Nat) (p : List Byte) (q : Request) : Prop :=
      whole command cls (p ++ rest) q ∧ ∀ n, n < p.length → refused command cls (p.take n)
    let only (command cls : Nat) (form : List Byte → Request → Prop) : Prop :=
      ∀ p q, p.length ≤ 512 → whole command cls p q → ∃ a b, p = a ++ b ∧ form a q
    let paired : List (Nat × List Nat) :=
      [(1, List.range' 1 14), (2, [5, 8, 12]), (3, [8, 12]), (4, [5]), (5, [5]), (6, [5]), (7, List.range' 1 14), (8, [5, 8, 12]),
        (9, [8]), (10, [8]), (11, [17]), (12, [2]), (13, [5]), (14, [16]), (15, [4]), (16, [4, 15, 16]), (17, [12]), (18, [12]),
        (19, [2, 3, 4, 5, 7, 8, 11, 12, 17, 18, 19, 20, 21, 22]), (20, [14]), (21, [14]), (22, [14])]
    let tuneFilters := [(0, some TuneState.draft), (1, some .live), (2, some .retiring), (3, none)]
    let occasionFilters :=
      [(0, some OccasionState.armed), (1, some .firing), (2, some .suspended), (3, some .spent), (4, some .retiring), (5, none)]
    let sceneFilters := [(0, some SceneState.live), (1, some .retiring), (2, none)]
    (∀ command cls p, (∀ x ∈ paired, x.1 = command → cls ∉ x.2) → refused command cls p) ∧
    (∀ x ∈ [(1, Request.lookUpTimeSettings), (2, .lookUpDial slot), (3, .lookUpLine slot), (4, .lookUpBell slot),
        (6, .lookUpChimeMap), (7, .lookUpClockProgram), (8, .lookUpOccasion h), (9, .lookUpDuskSettings), (10, .lookUpDuskTable),
        (11, .lookUpChannel slot), (12, .lookUpScene h), (13, .lookUpFeeder), (14, .lookUpConditions)], reads 1 x.1 [] x.2) ∧
    (∀ x ∈ [(2, Request.readStateDial slot), (3, .readStateLine slot), (4, .readStateBell slot), (5, .readStateTune h),
        (7, .readStateClockProgram), (8, .readStateOccasion h), (11, .readStateChannel slot), (12, .readStateScene h),
        (17, .readStateTimeBase), (18, .readStateTuneLibrary), (19, .readStateChimeSequencer), (20, .readStateOccasionCalendar),
        (21, .readStateFloodlightMixer), (22, .readStateFeederAccount)], reads 19 x.1 [] x.2) ∧
    (∀ x ∈ tuneFilters,
      reads 2 5 (be 1 0 ++ be 1 x.1) (.listNextTune none x.2) ∧
      ∀ k, k < 256 → reads 2 5 (be 1 1 ++ be 1 k ++ be 1 x.1) (.listNextTune (some k) x.2)) ∧
    (∀ x ∈ occasionFilters,
      reads 2 8 (be 1 0 ++ be 1 x.1) (.listNextOccasion none x.2) ∧
      ∀ k, k < 256 → reads 2 8 (be 1 1 ++ be 1 k ++ be 1 x.1) (.listNextOccasion (some k) x.2)) ∧
    (∀ x ∈ sceneFilters,
      reads 2 12 (be 1 0 ++ be 1 x.1) (.listNextScene none x.2) ∧
      ∀ k, k < 256 → reads 2 12 (be 1 1 ++ be 1 k ++ be 1 x.1) (.listNextScene (some k) x.2)) ∧
    (∀ x ∈ [(6, 5, Request.closeTune h), (9, 8, .suspend h), (10, 8, .resume h), (16, 4, .stopBell slot), (18, 12, .lowerScene h),
        (20, 14, .readConditions), (22, 14, .restart)], reads x.1 x.2.1 [] x.2.2) ∧
    (∀ x ∈ [(0, RetireMode.gentle, Request.retireGentle h), (1, .abrupt, .retireAbrupt h)],
      reads 8 5 (be 1 x.1) (.retireTune h x.2.1) ∧ reads 8 8 (be 1 x.1) x.2.2 ∧ reads 8 12 (be 1 x.1) (.retireScene h x.2.1)) ∧
    reads 1 5 (be 1 0) (.lookUpTune h none) ∧ reads 17 12 (be 1 0) (.raiseScene h none) ∧
    (∀ n, n < 65536 → reads 12 2 (be 2 n) (.setDial slot n) ∧ reads 16 15 (be 2 n) (.stopChimeEntry n) ∧
      reads 7 13 (be 2 n) (.amendFeeder n) ∧ reads 1 5 (be 1 1 ++ be 2 n) (.lookUpTune h (some n)) ∧
      reads 17 12 (be 1 1 ++ be 2 n) (.raiseScene h (some n))) ∧
    (∀ n, n < 256 → reads 15 4 (be 1 n) (.swing slot n) ∧ reads 16 16 (be 1 n) (.stopTollChannel n)) ∧
    (∀ f : FlagSet, reads 21 14 (be 2 f.toNat) (.acknowledge f) ∧ reads 7 14 (be 2 f.toNat) (.amendConditions f)) ∧
    (∀ (x : Int) (repeats priority : Nat) (yields : Bool), -128 ≤ x → x ≤ 127 → repeats < 256 → priority < 256 →
      reads 13 5 (be 1 (x % 256).toNat ++ be 1 repeats ++ be 1 priority ++ be 1 yields.toNat) (.play h x repeats priority yields)) ∧
    (∀ bell interval blows velocity, bell < 256 → interval < 256 → blows < 65536 → velocity < 256 → reads 14 16
      (be 1 bell ++ be 1 interval ++ be 2 blows ++ be 1 velocity) (.toll bell interval blows velocity)) ∧
    (∀ d, dateTimeFits d = true → reads 11 17 (be 1 0 ++ instant d) (.setTime .standardTime d) ∧
      reads 11 17 (be 1 1 ++ instant d) (.setTime .localTime d)) ∧
    (∀ l, labelFits l = true → ends l → reads 4 5 (labelBytes l) (.openTune l) ∧ reads 7 5 (labelBytes l) (.amendTune h l)) ∧
    (∀ c, c.fits = true → ends c.label → reads 3 8 (occasionConfigBytes c) (.storeOccasion c) ∧
      reads 7 8 (occasionConfigBytes c) (.amendOccasion h c)) ∧
    (∀ c, c.fits = true → ends c.label → reads 3 12 (sceneConfigBytes c) (.storeScene c) ∧
      reads 7 12 (sceneConfigBytes c) (.amendScene h c)) ∧
    (∀ x, x.fits = true → reads 7 1 (timeSettingsBytes x) (.amendTimeSettings x)) ∧
    (∀ d : Dial,
      let a : DialAmend :=
        { label := d.label, service := d.service, impulseWidth := d.impulseWidth, spacing := d.spacing, window := d.window }
      a.fits = true → ends d.label → reads 7 2 (dialBytes d) (.amendDial slot a)) ∧
    (∀ x, x.fits = true → reads 7 3 (lineBytes x) (.amendLine slot x)) ∧
    (∀ c, c.fits = true → ends c.label → reads 7 4 (bellBytes c) (.amendBell slot c)) ∧
    (∀ c, c.fits = true → reads 7 7 (clockConfigBytes c) (.amendClockProgram c)) ∧
    (∀ x : DuskSettings, x.line.all byteOk = true → x.threshold < 65536 → x.confirm < 256 →
      reads 7 9 (duskSettingsBytes x) (.amendDuskSettings x.line x.threshold x.confirm)) ∧
    (∀ c, c.fits = true → ends c.label → reads 7 11 (channelBytes c) (.amendChannel slot c)) ∧
    (∀ l, l.length ≤ 64 → l.all Step.fits = true → (∀ k v d, Step.note k v d ∈ l → 255 ∉ k) →
      whole 5 5 (l.flatMap stepBytes) (.appendSteps h l)) ∧
    (∀ l : List (Nat × Option Nat), l.length ≤ 256 → l.all (fun x => byteOk x.1 && x.2.all byteOk) = true →
      whole 7 6 (l.flatMap fun x => be 1 x.1 ++ match x.2 with | none => be 1 0 | some b => be 1 1 ++ be 1 b)
        (.amendChimeMap l)) ∧
    (∀ l : List (Nat × Nat), l.length ≤ 170 → l.all (fun x => byteOk x.1 && wordOk x.2) = true →
      whole 7 10 (l.flatMap fun x => be 1 x.1 ++ be 2 x.2) (.amendDuskTable l)) ∧
    (∀ n, n < 65536 → reads 21 14 (be 2 n) (.acknowledge (BitVec.ofNat 12 n)) ∧
      reads 7 14 (be 2 n) (.amendConditions (BitVec.ofNat 12 n))) ∧
    only 1 5 (fun a q => (a = be 1 0 ∧ q = .lookUpTune h none) ∨
      ∃ n, n < 65536 ∧ a = be 1 1 ++ be 2 n ∧ q = .lookUpTune h (some n)) ∧
    only 2 5 (fun a q => ∃ x ∈ tuneFilters, (a = be 1 0 ++ be 1 x.1 ∧ q = .listNextTune none x.2) ∨
      ∃ k, k < 256 ∧ a = be 1 1 ++ be 1 k ++ be 1 x.1 ∧ q = .listNextTune (some k) x.2) ∧
    only 2 8 (fun a q => ∃ x ∈ occasionFilters, (a = be 1 0 ++ be 1 x.1 ∧ q = .listNextOccasion none x.2) ∨
      ∃ k, k < 256 ∧ a = be 1 1 ++ be 1 k ++ be 1 x.1 ∧ q = .listNextOccasion (some k) x.2) ∧
    only 2 12 (fun a q => ∃ x ∈ sceneFilters, (a = be 1 0 ++ be 1 x.1 ∧ q = .listNextScene none x.2) ∨
      ∃ k, k < 256 ∧ a = be 1 1 ++ be 1 k ++ be 1 x.1 ∧ q = .listNextScene (some k) x.2) ∧
    only 7 1 (fun a q => ∃ x, x.fits = true ∧ a = timeSettingsBytes x ∧ q = .amendTimeSettings x) ∧
    only 7 2 (fun a q => ∃ d : Dial, ends d.label ∧ a = dialBytes d ∧ ∃ x : DialAmend, x.fits = true ∧ q = .amendDial slot x ∧
      x = { label := d.label, service := d.service, impulseWidth := d.impulseWidth, spacing := d.spacing, window := d.window }) ∧
    only 7 3 (fun a q => ∃ x, x.fits = true ∧ a = lineBytes x ∧ q = .amendLine slot x) ∧
    only 7 4 (fun a q => ∃ c, c.fits = true ∧ ends c.label ∧ a = bellBytes c ∧ q = .amendBell slot c) ∧
    only 7 7 (fun a q => ∃ c, c.fits = true ∧ a = clockConfigBytes c ∧ q = .amendClockProgram c) ∧
    only 7 9 (fun a q => ∃ x : DuskSettings, x.line.all byteOk = true ∧ x.threshold < 65536 ∧ x.confirm < 256 ∧
      a = duskSettingsBytes x ∧ q = .amendDuskSettings x.line x.threshold x.confirm) ∧
    only 7 11 (fun a q => ∃ c, c.fits = true ∧ ends c.label ∧ a = channelBytes c ∧ q = .amendChannel slot c) ∧
    only 3 12 (fun a q => ∃ c, c.fits = true ∧ ends c.label ∧ a = sceneConfigBytes c ∧ q = .storeScene c) ∧
    only 7 12 (fun a q => ∃ c, c.fits = true ∧ ends c.label ∧ a = sceneConfigBytes c ∧ q = .amendScene h c) ∧
    only 8 5 (fun a q => ∃ x ∈ [(0, RetireMode.gentle), (1, .abrupt)], a = be 1 x.1 ∧ q = .retireTune h x.2) ∧
    only 8 8 (fun a q => (a = be 1 0 ∧ q = .retireGentle h) ∨ (a = be 1 1 ∧ q = .retireAbrupt h)) ∧
    only 8 12 (fun a q => ∃ x ∈ [(0, RetireMode.gentle), (1, .abrupt)], a = be 1 x.1 ∧ q = .retireScene h x.2) ∧
    only 11 17 (fun a q => ∃ d, dateTimeFits d = true ∧
      ((a = be 1 0 ++ instant d ∧ q = .setTime .standardTime d) ∨ (a = be 1 1 ++ instant d ∧ q = .setTime .localTime d))) ∧
    only 13 5 (fun a q => ∃ (x : Int) (repeats priority : Nat) (yields : Bool), -128 ≤ x ∧ x ≤ 127 ∧ repeats < 256 ∧
      priority < 256 ∧ a = be 1 (x % 256).toNat ++ be 1 repeats ++ be 1 priority ++ be 1 yields.toNat ∧
      q = .play h x repeats priority yields) ∧
    only 17 12 (fun a q => (a = be 1 0 ∧ q = .raiseScene h none) ∨
      ∃ n, n < 65536 ∧ a = be 1 1 ++ be 2 n ∧ q = .raiseScene h (some n)) ∧
    (∀ p : List Byte, p.length ≤ 512 →
      let b (k : Nat) : Nat := (p.getD k 0#8).toNat
      (refused 5 5 p ↔ p.length % 8 ≠ 0 ∨ ∃ j, 8 * j < p.length ∧ (b (8 * j) = 0 ∨ 3 < b (8 * j) ∨
        (b (8 * j) = 1 ∧ ∃ k, 4 ≤ k ∧ k < 7 ∧ b (8 * j + k) = 255 ∧ b (8 * j + k + 1) ≠ 255))) ∧
      (∀ command, command = 3 ∨ command = 7 → (refused command 8 p ↔ p.length < 77 ∨ 4 < b 16 ∨
        (b 16 = 3 ∧ (b 18 = 0 ∨ 7 < b 18)) ∨ 1 < b 30 ∨ 4 < b 36 ∨
        ∃ j, j < b 36 ∧ (b (37 + 10 * j) = 0 ∨ 6 < b (37 + 10 * j) ∨ (b (37 + 10 * j) = 1 ∧ 1 < b (44 + 10 * j))))) ∧
      (refused 7 10 p ↔ p.length % 3 ≠ 0) ∧
      (∀ q, whole 7 6 p q → ∃ l : List (Nat × Option Nat), q = .amendChimeMap l ∧
        l.all (fun x => byteOk x.1 && x.2.all byteOk) = true ∧
        p = l.flatMap fun x => be 1 x.1 ++ match x.2 with | none => be 1 0 | some b => be 1 1 ++ be 1 b)))

/-- R186: READ CONDITIONS answers with the flags, the enables and the fresh marks, makes the flags the last report set and clears
their fresh marks; ACKNOWLEDGE clears each named flag that is set, not fresh and in the last report set, leaves every other flag,
and answers with the flags as they then stand. ATTN is asserted in MAINS while an enabled flag is set. (Where it goes beyond the
rules it rests on the model's choices of log entries 1, 4 and 29.) -/
def Obligations.ConditionsAreReportedAndAcknowledged : Prop :=
  ∀ (s : State) (dt : Nat) (named : FlagSet), s.HostReady →
    let e := s.elapse dt
    let l := s.link
    exec (.readConditions dt) s = .next (State.answer
      { e.working .readConditions with link.lastReport := l.flags, link.fresh := l.fresh &&& ~~~l.flags }
      (reply .done 0 0 (flagBytes l.flags ++ flagBytes l.enables ++ flagBytes l.fresh))) ∧
    (∃ flags : FlagSet, exec (.acknowledge dt named) s = .next (State.answer
        { e.working (.acknowledge named) with link.flags := flags } (reply .done 0 0 (flagBytes flags))) ∧
      ∀ k, k < 12 → flags.getLsbD k
        = (l.flags.getLsbD k && !(named.getLsbD k && !l.fresh.getLsbD k && l.lastReport.getLsbD k))) ∧
    (s.attn = true ↔ ∃ k, k < 12 ∧ l.flags.getLsbD k = true ∧ l.enables.getLsbD k = true)

/-- R182, R183 and each record's rule: an AMEND whose fields pass its checks asks for one write that will bring the change and the
answer DONE, changing nothing before; fields outside their ranges are answered BAD FIELD, an AMEND its rule forbids as things stand
WRONG STATE, and a seventh bell with a MOTOR line FULL. The checks are those of R2, R6 (time settings), R37 to R39 (lines), R44, R39
(bells), R85 (map), R112 (clock program), R144 (dusk), R148, R39 (channels), R164 (scenes, whose fields ScenesAreRaisedAndLowered
gives) and R170 (feeder), each said here field by field. That the handle is judged first, then the state, then the fields, and a
bell's fields before its motor, is the model's choice, log entry 33. (Where it goes beyond the rules it rests on the model's choices
of log entries 1, 4, 12, 13 and 33.) -/
def Obligations.AmendsAskForOneWrite : Prop :=
  ∀ (s : State) (dt : Nat), s.HostReady →
    let asks (r : Request) (w : WriteEffect) (slot gen : Nat) : Prop := exec (commandOf dt r) s = .next
      { (s.elapse dt).working r with memory.writes := [{ effect := w, response := some (reply .done slot gen) }] }
    let answers (r : Request) (x : Status) (slot : Nat) : Prop :=
      exec (commandOf dt r) s = .next (((s.elapse dt).working r).answer (reply x slot 0))
    (∀ x, (summerRuleOk x.rule = true →
        asks (.amendTimeSettings x) (.timeSettings { x with trim := max (-255) (min 255 x.trim) }) 0 0) ∧
      (summerRuleOk x.rule = false → answers (.amendTimeSettings x) .badField 0)) ∧
    (∀ i r, (64 ≤ i ∨ s.lineRecordOk i r = false → answers (.amendLine i r) .badField i) ∧
      (i < 64 → s.lineRecordOk i r = true →
        (s.boundInService (s.line i).record = true ∨ s.boundInService r = true → answers (.amendLine i r) .wrongState i) ∧
        (s.boundInService (s.line i).record = false → s.boundInService r = false →
          (s.motorFull i r = true → answers (.amendLine i r) .full i) ∧
          (s.motorFull i r = false → asks (.amendLine i r) (.line i r) i 0)))) ∧
    (∀ i c, (40 ≤ i ∨ s.bellAmendOk i c = false → answers (.amendBell i c) .badField i) ∧
      (i < 40 → s.bellAmendOk i c = true →
        ((s.bell i).config.motorRating ≠ c.motorRating → (s.bell i).motor ≠ .off → answers (.amendBell i c) .wrongState i) ∧
        ((s.bell i).config.motorRating = c.motorRating ∨ (s.bell i).motor = .off → asks (.amendBell i c) (.bell i c) i 0))) ∧
    (∀ p, (mapPairsOk p = true → asks (.amendChimeMap p) (.chimeMap p) 0 0) ∧
      (mapPairsOk p = false → answers (.amendChimeMap p) .badField 0)) ∧
    (∀ c, (clockConfigOk c = true → asks (.amendClockProgram c) (.clockProgram c) 0 0) ∧
      (clockConfigOk c = false → answers (.amendClockProgram c) .badField 0)) ∧
    (∀ l a b, (duskSettingsOk l a b = true → asks (.amendDuskSettings l a b) (.duskSettings l a b) 0 0) ∧
      (duskSettingsOk l a b = false → answers (.amendDuskSettings l a b) .badField 0)) ∧
    (∀ p, (duskPairsOk p = true → asks (.amendDuskTable p) (.duskTable p) 0 0) ∧
      (duskPairsOk p = false → answers (.amendDuskTable p) .badField 0)) ∧
    (∀ i c, (i < 24 → s.channelAmendOk i c = true → asks (.amendChannel i c) (.channel i c) i 0) ∧
      (24 ≤ i ∨ s.channelAmendOk i c = false → answers (.amendChannel i c) .badField i)) ∧
    (∀ (h : Handle) x c, h.slot < 32 → 1 ≤ h.gen → h.gen ≤ 255 → s.findScene h = some x → x.state = .live →
      sceneConfigOk c = true → asks (.amendScene h c) (.scene h c) h.slot h.gen) ∧
    (∀ (h : Handle) c,
      let refused (x : Status) : Prop := exec (commandOf dt (.amendScene h c)) s
        = .next (((s.elapse dt).working (.amendScene h c)).answer (reply x h.slot h.gen))
      (32 ≤ h.slot ∨ h.gen = 0 ∨ 255 < h.gen → refused .badField) ∧
      (h.slot < 32 → 1 ≤ h.gen → h.gen ≤ 255 →
        (s.findScene h = none → refused .noRecord) ∧
        (∀ x, s.findScene h = some x → x.state = .retiring → refused .wrongState) ∧
        (∀ x, s.findScene h = some x → x.state = .live → sceneConfigOk c = false → refused .badField))) ∧
    (∀ c, (60000 < c → answers (.amendFeeder c) .badField 0) ∧
      (c ≤ 60000 → c < s.feeder.load → answers (.amendFeeder c) .wrongState 0) ∧
      (c ≤ 60000 → s.feeder.load ≤ c → asks (.amendFeeder c) (.feeder c) 0 0)) ∧
    (∀ f, asks (.amendConditions f) (.conditions f) 0 0) ∧
    (∀ r, summerRuleOk r = true ↔ 15 ≤ r.offset ∧ r.offset ≤ 120 ∧ r.offset % 15 = 0 ∧ 1 ≤ r.startMonth ∧ r.startMonth ≤ 12 ∧
      1 ≤ r.endMonth ∧ r.endMonth ≤ 12 ∧ r.startMonth ≠ r.endMonth ∧ 1 ≤ r.startWeek ∧ r.startWeek ≤ 5 ∧ 1 ≤ r.endWeek ∧
      r.endWeek ≤ 5 ∧ r.startTime.hour ≤ 23 ∧ r.startTime.minute ≤ 59 ∧ r.endTime.hour ≤ 23 ∧ r.endTime.minute ≤ 59 ∧
      r.startTime.hour * 60 + r.startTime.minute + r.offset < 1440 ∧ r.offset ≤ r.endTime.hour * 60 + r.endTime.minute) ∧
    (∀ f, (boundKind f = some .bell ↔ f ∈ [.hammerStrike, .hammerBusy, .swingSense, .restSense, .motor, .bellKey]) ∧
      (boundKind f = some .dial ↔ f ∈ [.dialPositive, .dialNegative, .dialSense]) ∧ (boundKind f = some .channel ↔ f = .lamp)) ∧
    (∀ i r, s.lineRecordOk i r = true ↔ (r.function = .ambient → 56 ≤ i) ∧ r.filter ≤ 15 ∧
      (boundKind r.function = none → r.bound = none) ∧
      (boundKind r.function ≠ none → ∃ b, r.bound = some b ∧ (boundKind r.function = some .bell → b < 40) ∧
        (boundKind r.function = some .dial → b < 6) ∧ (boundKind r.function = some .channel → b < 24)) ∧
      (boundKind r.function ≠ none → r.function ≠ .bellKey → ∀ j, j < 64 → j ≠ i →
        ¬((s.line j).record.function = r.function ∧ (s.line j).record.bound = r.bound))) ∧
    (∀ r b, r.bound = some b → (s.boundInService r = true ↔
      (boundKind r.function = some .bell ∧ (s.bell b).config.inService = true) ∨
      (boundKind r.function = some .dial ∧ (s.dial b).service = true) ∨
      (boundKind r.function = some .channel ∧ (s.channel b).config.inService = true))) ∧
    (∀ i r, s.motorFull i r = true ↔ r.function = .motor ∧
      6 ≤ ((List.range 64).filter fun j => j != i && decide ((s.line j).record.function = .motor)).length) ∧
    (∀ f b, s.countLines f b
      = (s.lines.toList.filter fun l => decide (l.record.function = f ∧ l.record.bound = some b)).length) ∧
    (∀ i c,
      let old := (s.bell i).config
      let n (f : LineFunction) : Nat := s.countLines f i
      let wired : Prop :=
        (c.hammerInService = true → n .hammerStrike = 1 ∧ n .hammerBusy = if c.feedback = .busy then 1 else 0) ∧
        (c.hammerInService = false → n .hammerStrike ≤ 1 ∧ n .hammerBusy ≤ 1) ∧
        n .swingSense = (if c.sensorMode = .none then 0 else 1) ∧ n .restSense = (if c.sensorMode = .swingAndRest then 1 else 0) ∧
        (c.motorRating = 0 → n .motor = 0) ∧ (0 < c.motorRating → n .motor = 1 ∧ c.sensorMode ≠ .none)
      s.bellAmendOk i c = true ↔ c.label.length ≤ 16 ∧ 10 ≤ c.settle ∧ c.settle ≤ 600 ∧ c.lead ≤ 400 ∧
        (∀ v ∈ [c.velocity0, c.velocity1, c.velocity2, c.velocity3], 10 ≤ v ∧ v ≤ 200) ∧
        100 ≤ c.repeatInterval ∧ c.repeatInterval ≤ 3000 ∧ c.motorRating ≤ 7500 ∧
        (c.inService = true → (old.inService = false ∨ old.hammerInService ≠ c.hammerInService ∨ old.feedback ≠ c.feedback ∨
          old.sensorMode ≠ c.sensorMode ∨ old.motorRating ≠ c.motorRating) → wired)) ∧
    (∀ p, mapPairsOk p = true ↔ 1 ≤ p.length ∧ p.length ≤ 32 ∧ (p.map (·.1)).Nodup ∧
      ∀ x ∈ p, x.1 < 32 ∧ ∀ b, x.2 = some b → b < 40) ∧
    (∀ c, clockConfigOk c = true ↔
      (∀ x ∈ [c.first, c.second, c.third, c.fourth], ∀ h, x = some h → h.slot < 64 ∧ 1 ≤ h.gen ∧ h.gen ≤ 255) ∧
      c.hourBell < 40 ∧ 100 ≤ c.blowInterval ∧ c.blowInterval ≤ 1000 ∧ c.hourVelocity ≤ 3 ∧ c.strikeGap ≤ 1000 ∧
      c.quarterPriority ≤ 7 ∧ c.hourPriority ≤ 7 ∧ 10 ≤ c.expiry ∧ c.expiry ≤ 300 ∧
      ((c.nightStart = none ∧ c.nightEnd = none) ∨ ∃ a b, c.nightStart = some a ∧ c.nightEnd = some b ∧ a ≠ b ∧ a.hour ≤ 23 ∧
        a.minute ≤ 59 ∧ b.hour ≤ 23 ∧ b.minute ≤ 59)) ∧
    (∀ l a b, duskSettingsOk l a b = true ↔ (∀ i, l = some i → 56 ≤ i ∧ i ≤ 63) ∧ a ≤ 1023 ∧ 1 ≤ b ∧ b ≤ 30) ∧
    (∀ p, duskPairsOk p = true ↔ 1 ≤ p.length ∧ p.length ≤ 53 ∧ (p.map (·.1)).Nodup ∧ ∀ x ∈ p, x.1 < 53 ∧ x.2 ≤ 1439) ∧
    (∀ i c, s.channelAmendOk i c = true ↔ c.label.length ≤ 16 ∧ c.rating ≤ 6000 ∧ c.ceiling ≤ 4095 ∧ c.floor ≤ 4095 ∧
      (c.inService = true → (s.channel i).config.inService = false → s.countLines .lamp i = 1))

/-- R183, R182, R15: RECORD_MEMORY_WRITE_END. The write in progress ends and the next begins: a record whose change it brings takes
its new fields, its block acts on the change, its response becomes the one that waits, and a request that waited for the write may
be routed. A write without a response, as a fault's own is and as a RESTART leaves those of the request it ends, does the same, and
the response that waits is left. A dial goes OFF, or is reconciled (R21); a line's bells follow their locks (R46); a bell enters or
leaves service with its swing machine and stroke machine afresh (R45, R67); a channel enters or leaves service dark (R149); a
scene's layer takes its place for the new priority (R164); new dusk settings empty the window, and every DUSK due is worked afresh
(R144); time settings announce TIME SET or RULE CHANGED (R9); a new feeder capacity is tried on the asks (R170, R172); a fault's own
write leaves its record out of service whatever was written meanwhile. In RESERVE the record alone changes (R15). With no write in
progress nothing happens. That TIME SET reaches the dials, the Clock Program, the calendar and the standing list in this order is
the model's choice, log entry 9, and that a new offset in a summer that stays in force announces it is its reading of R9 beside
R119, log entry 55. That a bell which leaves service keeps entered, and that one which enters it AT REST or LOCKED takes it as one
that enters UNKNOWN does, is its choice, log entry 57, and that the table dusk is worked afresh at RULE CHANGED its choice, log entry
67. (Where it goes beyond the rules it rests on the model's choices of log entries 1, 2, 9, 10, 12, 13, 14, 18, 36, 55, 57, 60 and
67.) -/
def Obligations.WriteEndBringsTheChange : Prop :=
  (∀ (s : State) (dt : Nat) (w : Write) (rest : List Write),
    let e := s.elapse dt
    let left : State := { e with memory.writes := rest }
    let close (t : State) : Prop := exec (.recordMemoryWriteEnd dt) s = .next (match w.response with
      | some r => t.answer r
      | none =>
        { t with link.inProgress := t.link.inProgress.map fun q => if q.phase = .awaitingWrite then { q with phase := .ready } else q })
    let waiting : Option Response := match w.response with | some r => some r | none => s.link.waiting
    (s.memory.writes = [] → exec (.recordMemoryWriteEnd dt) s = .next e) ∧
    (∀ x, s.memory.writes = { effect := .stored x, response := none } :: rest →
      (s.link.inProgress = none → exec (.recordMemoryWriteEnd dt) s = .next left) ∧
      (∀ q c v, s.link.inProgress = some { task := q, phase := .awaitingWrite, taken := c, seen := v } →
        exec (.recordMemoryWriteEnd dt) s
          = .next { left with link.inProgress := some { task := q, phase := .ready, taken := c, seen := v } })) ∧
    (s.memory.writes = w :: rest →
      (∀ x, w.effect = .stored x → close left) ∧
      (∀ p, w.effect = .chimeMap p → close { left with tunes.chimeMap := setDegrees s.tunes.chimeMap p }) ∧
      (∀ c, w.effect = .clockProgram c → close { left with program.config := c }) ∧
      (∀ f, w.effect = .conditions f → close { left with link.enables := f }) ∧
      (s.time.power = .mains → ∀ x, w.effect = .timeSettings x →
        let summer := summerAt x.rule s.time.standard
        let set : State := { left with time.settings := x, time.summer := summer }
        let before := s.time.settings.rule.shift s.time.summer
        (s.time.valid = false ∨ x.rule = s.time.settings.rule → close set) ∧
        (s.time.valid = true → x.rule ≠ s.time.settings.rule → summer = s.time.summer → x.rule.shift summer = before →
          close (set.calendarJump true).settleContexts) ∧
        (s.time.valid = true → x.rule ≠ s.time.settings.rule → (summer ≠ s.time.summer ∨ x.rule.shift summer ≠ before) →
          close ((State.calendarJump set.reconcileDials.landingMark true).endStandingEntries.settleContexts))) ∧
      (s.time.power = .mains → ∀ c, w.effect = .feeder c →
        close (State.tryAsks { left with feeder.capacity := c }) ∧
        (s.feeder.asks = [] → close { left with feeder.capacity := c })) ∧
      (∀ i c, s.time.power = .mains → i < 24 → w.effect = .channel i c →
        (c.inService = true → (s.channel i).config.inService = true →
          close (left.setChannel i { s.channel i with config := c })) ∧
        (c.inService = false ∨ (s.channel i).config.inService = false → ∃ t, exec (.recordMemoryWriteEnd dt) s = .next t ∧
          t.channel i = { config := c, levels := if c.inService then (s.channel i).levels else Levels.dark } ∧
          (∀ j, j ≠ i → t.channel j = s.channel j) ∧
          t.mixer.computed = s.mixer.computed.map fun v => v.setIfInBounds i Levels.dark)) ∧
      (∀ i a, s.time.power = .mains → w.effect = .dial i a →
        let new : Dial :=
          { s.dial i with label := a.label, service := a.service, impulseWidth := a.impulseWidth
                          spacing := clampSpacing a.impulseWidth a.spacing, window := a.window }
        (a.service = false →
          close (left.setDial i { new with state := .off, fault := none, impulse := none, owed := false })) ∧
        (a.service = true → (s.dial i).service = true → close ((left.setDial i new).reconcileOrOwe i)) ∧
        (a.service = true → (s.dial i).service = false →
          close ((left.setDial i { new with state := .waitTime }).reconcileOrOwe i))) ∧
      (∀ i x, s.time.power = .mains → s.Settled → i < 64 → w.effect = .line i x →
        let shown := (s.line i).pinHigh == x.activeHigh
        let set := left.setLine i
          { s.line i with record := x, changing := none, filtered := if isInput x.function then shown else (s.line i).filtered }
        (∀ b, b < 40 → ((s.bell b).swing = .locked ↔ set.lockHeld b = true)) →
        (set.ambientLine = s.ambientLine → close set) ∧
        (set.ambientLine ≠ s.ambientLine → close
          { set with calendar.window := [], calendar.belowSince := none, calendar.zeroSince := none
                     calendar.fullSince := none })) ∧
      (∀ i c, s.time.power = .mains → s.Settled → i < 40 → w.effect = .bell i c →
        let old := (s.bell i).config
        let put (x : Bell) : State := left.setBell i x
        (c.inService = true → old.inService = true → c.motorInService = true → old.hammerInService = c.hammerInService →
          ((s.bell i).swing = .locked ↔ State.lockHeld (put { s.bell i with config := c }) i = true) →
          close (put { s.bell i with config := c })) ∧
        (c.inService = true → old.inService = true → (c.motorInService = true ∨ (s.bell i).motor = .off) →
          old.hammerInService ≠ c.hammerInService →
          ((s.bell i).swing = .locked ↔ State.lockHeld (put { s.bell i with config := c }) i = true) →
          close ((put { s.bell i with config := c }).setStroke i (if c.hammerInService then .idle else .fault))) ∧
        (c.inService = true → old.inService = false → (s.bell i).motor = .off →
          let locked := State.lockHeld (put { s.bell i with config := c }) i
          close ((put { s.bell i with
              config := c
              swing := if locked then .locked else if c.sensorMode = .none then .atRest else .unknown
              entered := e.nowMs, quietUntil := none
              restClosedSince := if s.lineActive .restSense i then some e.nowMs else none }).setStroke i
            (if c.hammerInService then .idle else .fault))) ∧
        (c.inService = false → old.inService = true → (s.bell i).motor = .off →
          ((s.bell i).swing = .locked ↔ State.lockHeld (put { s.bell i with config := c }) i = true) →
          close ((put { s.bell i with
              config := c, swing := if (s.bell i).swing = .locked then .locked else .unknown
              halfSwing := none, lastPulse := none, quietUntil := none }).setStroke i .outOfService)) ∧
        (c.inService = true → old.inService = true → c.motorInService = false → old.hammerInService = c.hammerInService →
          ∀ sources, (∃ length since isAdmitted, (s.bell i).motor = .pending length since isAdmitted sources) ∨
            (∃ energised endAt satisfied, (s.bell i).motor = .running energised endAt satisfied sources) →
          ((s.bell i).swing = .locked ↔ State.lockHeld (put { s.bell i with config := c }) i = true) →
          close (State.runEnded (put { s.bell i with config := c }) i sources .stopped).settleContexts)) ∧
      (∀ h c, s.time.power = .mains → w.effect = .scene h c →
        (s.findScene h = none → close left) ∧
        (∀ x, s.findScene h = some x →
          let set := left.setSceneSlot h.slot { gen := h.gen, record := some { x with config := c } }
          (s.mixer.layers.find? (fun l => l.scene = h) = none → close set) ∧
          (∀ l, h.slot < 32 → s.mixer.layers.find? (fun l => l.scene = h) = some l →
            let others := s.mixer.layers.filter fun y => y.scene != h
            let outranks (a b : Layer) : Prop := set.layerPriority a < set.layerPriority b ∨
              (set.layerPriority a = set.layerPriority b ∧ a.sequence < b.sequence)
            ∃ before after, before ++ after = others ∧ close { set with mixer.layers := before ++ l :: after } ∧
              (∀ y ∈ before, outranks y l) ∧ ∀ y, after.head? = some y → ¬outranks y l))) ∧
      (s.time.power = .mains → s.time.valid = true →
        (∀ line threshold confirm, w.effect = .duskSettings line threshold confirm →
          let set : State :=
            { left with calendar.dusk := { line := line, threshold := threshold, confirm := confirm, sensorFault := false }
                        calendar.window := [], calendar.belowSince := none, calendar.zeroSince := none
                        calendar.fullSince := none }
          (∀ j o n, j < 256 → (s.occasionSlot j).record = some o → o.config.anchor = .dusk n → o.due = none) → close set) ∧
        (∀ p i o n d,
          let table := p.foldl (fun (t : Vector Nat Config.weeks) x => t.setIfInBounds x.1 x.2) s.calendar.duskTable
          let set : State := { left with calendar.duskTable := table }
          w.effect = .duskTable p →
          ((∀ j o n, j < 256 → (s.occasionSlot j).record = some o → o.config.anchor = .dusk n → o.due = none) → close set) ∧
          (i < 256 → (s.occasionSlot i).record = some o → o.config.anchor = .dusk n → o.due = some d →
            (∀ j x m, j < 256 → j ≠ i → (s.occasionSlot j).record = some x → x.config.anchor = .dusk m → x.due = none) →
            let due := set.computeDue o.config o.lastFired
            ∃ t, exec (.recordMemoryWriteEnd dt) s = .next t ∧ t.calendar.duskTable = table ∧ t.link.waiting = waiting ∧
              ∃ z, t.occasionSlot i = { gen := (s.occasionSlot i).gen, record := some z } ∧
                z = { o with due := due, waiting := false
                             state := if o.state = .armed ∧ due = none then .spent else o.state }))) ∧
      (∀ i f, w.effect = .hammerFault i f → (s.bell i).config.hammerInService = false →
        (s.time.power = .mains → s.Settled → close left) ∧ (s.time.power = .reserve → close left)) ∧
      (∀ i, w.effect = .motorFault i → (s.bell i).config.motorInService = false →
        (s.time.power = .mains → s.Settled → close left) ∧ (i < 40 → s.time.power = .reserve → close left)) ∧
      (w.effect = .sensorFault → close { left with calendar.dusk.sensorFault := true }))) ∧
  (∀ (s : State) (dt : Nat) (w : Write) (rest : List Write), s.memory.writes = w :: rest → w.response = none →
    let left : State := { s.elapse dt with memory.writes := rest }
    let brings (t : State) : Prop := exec (.recordMemoryWriteEnd dt) s = .next t
    (∀ i f, i < 40 → s.time.power = .mains → s.Settled → (s.bell i).motor = .off → w.effect = .hammerFault i f →
      (s.bell i).config.hammerInService = true →
      ∃ t, brings t ∧ (t.bell i).config = { (s.bell i).config with hammerInService := false } ∧
        (t.bell i).hammerFault = some f ∧
        ((s.bell i).config.inService = true → t.stroke i = .fault)) ∧
    (∀ i, i < 40 → s.time.power = .mains → s.Settled →
      ((s.bell i).motor = .off ∨
        ∃ energised endAt satisfied, (s.bell i).motor = .running energised endAt satisfied [.command]) →
      w.effect = .motorFault i → (s.bell i).config.motorInService = true →
      ∃ t, brings t ∧ (t.bell i).config = { (s.bell i).config with motorInService := false } ∧
        ((s.bell i).config.inService = true → (t.bell i).motor = .off)) ∧
    (s.time.power = .reserve → s.link.inProgress = none →
      (∀ x, w.effect = .timeSettings x →
        brings { left with time.settings := x, time.summer := summerAt x.rule s.time.standard }) ∧
      (∀ i a, w.effect = .dial i a → brings (left.setDial i
        { s.dial i with label := a.label, service := a.service, impulseWidth := a.impulseWidth
                        spacing := clampSpacing a.impulseWidth a.spacing, window := a.window
                        fault := if a.service then (s.dial i).fault else none })) ∧
      (∀ i x, w.effect = .line i x → brings (left.setLine i { s.line i with record := x })) ∧
      (∀ i c, w.effect = .bell i c → brings (left.setBell i { s.bell i with config := c })) ∧
      (∀ p, w.effect = .chimeMap p → brings { left with tunes.chimeMap := setDegrees s.tunes.chimeMap p }) ∧
      (∀ c, w.effect = .clockProgram c → brings { left with program.config := c }) ∧
      (∀ line threshold confirm, w.effect = .duskSettings line threshold confirm → brings
        { left with calendar.dusk := { line := line, threshold := threshold, confirm := confirm, sensorFault := false }
                    calendar.window := [], calendar.belowSince := none, calendar.zeroSince := none
                    calendar.fullSince := none }) ∧
      (∀ p, w.effect = .duskTable p →
        let table := p.foldl (fun (t : Vector Nat Config.weeks) x => t.setIfInBounds x.1 x.2) s.calendar.duskTable
        brings { left with calendar.duskTable := table }) ∧
      (∀ i c, w.effect = .channel i c → brings (left.setChannel i { config := c, levels := Levels.dark })) ∧
      (∀ h c x, w.effect = .scene h c → s.findScene h = some x →
        brings (left.setSceneSlot h.slot { gen := h.gen, record := some { x with config := c } })) ∧
      (∀ c, w.effect = .feeder c → brings { left with feeder.capacity := c }) ∧
      (∀ f, w.effect = .conditions f → brings { left with link.enables := f }) ∧
      (∀ i f, w.effect = .hammerFault i f → (s.bell i).config.hammerInService = true → brings (left.setBell i
        { s.bell i with config := { (s.bell i).config with hammerInService := false }, hammerFault := some f })) ∧
      (∀ i, w.effect = .motorFault i → (s.bell i).config.motorInService = true → brings (left.setBell i
        { s.bell i with config := { (s.bell i).config with motorInService := false } }))))

/-- R88, R147, R169, R184: LIST NEXT answers with the handle of the lowest occupied slot above the one given that passes the filter,
or NO RECORD; LOOK UP and READ STATE of a record with an index answer DONE with its fields, BAD FIELD out of range, as a first step
number outside 1 to 512 (the model's choice, log entry 63); those of a whole block answer DONE. Whatever is read, nothing but the
link is changed. That LIST NEXT past the last slot of its class is NO RECORD is the model's choice, log entry 51. The bytes of each
answer: the codes of section 11.5, else values by their place from 0; the layouts of section 11.5, most significant byte first; and
each report's fields as its chapter lists them, in a form that is in part the model's choice, log entries 23, 24, 48 and 56; zeros
in a window date that is absent, after the fields of an action and in the outcome entries an occasion does not have are its choice,
log entry 71, and an instant past the calendar range reads as one of the year 2200, its choice, log entry 70; that an occasion of
the two lists of the calendar's report is a handle, with its next due in the due list, and that frames left are counted from the
latest computed frame, are its choices, log entries 72 and 73; that a LAMP line reads driven whenever its channel is in service in
MAINS is its reading, log entry 58. (Where it goes beyond the rules it rests on the model's choices of log entries 1, 4, 23, 24, 46,
48, 51, 56, 58, 63, 65, 70, 71, 72 and 73.) -/
def Obligations.ReadingChangesNothing : Prop :=
  (∀ (s : State) (dt i : Nat), s.HostReady →
    let answers (r : Request) (x : Response) : Prop :=
      exec (commandOf dt r) s = .next (((s.elapse dt).working r).answer x)
    let e := s.elapse dt
    let found (r : Request) (p : Nat → Bool) (bound : Nat) (gen : Nat → Nat) (after : Option Nat) : Prop :=
      (∀ j, j < bound → (∀ a, after = some a → a < j) → p j = true →
        (∀ k, k < j → (∀ a, after = some a → a < k) → p k = false) → answers r (reply .done 0 0 (u8 j ++ u8 (gen j)))) ∧
      ((∀ j, j < bound → (∀ a, after = some a → a < j) → p j = false) → answers r (reply .noRecord 0 0))
    (∀ after f, found (.listNextTune after f)
      (fun j => (s.tuneSlot j).record.any fun x => f = none || f = some x.state) 64 (fun j => (s.tuneSlot j).gen) after) ∧
    (∀ after f, found (.listNextOccasion after f)
      (fun j => (s.occasionSlot j).record.any fun x => f = none || f = some x.state) 256 (fun j => (s.occasionSlot j).gen) after) ∧
    (∀ after f, found (.listNextScene after f)
      (fun j => (s.sceneSlot j).record.any fun x => f = none || f = some x.state) 32 (fun j => (s.sceneSlot j).gen) after) ∧
    (∀ x ∈ [(Request.lookUpDial i, 6, dialBytes (s.dial i)), (.lookUpLine i, 64, lineBytes (s.line i).record),
        (.lookUpBell i, 40, bellBytes (s.bell i).config), (.lookUpChannel i, 24, channelBytes (s.channel i).config),
        (.readStateDial i, 6, e.dialReport i), (.readStateLine i, 64, e.lineReport i), (.readStateBell i, 40, e.bellReport i (s.stroke i)),
        (.readStateChannel i, 24, e.channelReport i)],
      (i < x.2.1 → answers x.1 (reply .done i 0 x.2.2)) ∧ (x.2.1 ≤ i → answers x.1 (reply .badField i 0))) ∧
    (∀ (h : Handle) t first, h.slot < 64 → 1 ≤ h.gen → h.gen ≤ 255 → s.findTune h = some t →
      (answers (.readStateTune h) (reply .done h.slot h.gen (u8 (tuneStateCode t.state) ++ u8 t.refs)) ∧
        answers (.lookUpTune h none) (reply .done h.slot h.gen (tuneBytes t)) ∧
        (first = 0 ∨ 512 < first → answers (.lookUpTune h (some first)) (reply .badField h.slot h.gen)) ∧
        (1 ≤ first → first ≤ 512 → answers (.lookUpTune h (some first)) (reply .done h.slot h.gen
          (tuneBytes t ++ ((t.steps.drop (first - 1)).take 32).flatMap stepBytes))))) ∧
    (∀ (h : Handle) o, h.slot < 256 → 1 ≤ h.gen → h.gen ≤ 255 → s.findOccasion h = some o →
      answers (.lookUpOccasion h) (reply .done h.slot h.gen (e.occasionLookUp o)) ∧
      answers (.readStateOccasion h) (reply .done h.slot h.gen (e.occasionReport o))) ∧
    (∀ (h : Handle) x, h.slot < 32 → 1 ≤ h.gen → h.gen ≤ 255 → s.findScene h = some x →
      answers (.lookUpScene h) (reply .done h.slot h.gen (sceneConfigBytes x.config ++ u8 (sceneStateCode x.state))) ∧
      answers (.readStateScene h) (reply .done h.slot h.gen (e.sceneReport h x))) ∧
    (∀ x ∈ [(Request.lookUpTimeSettings, timeSettingsBytes s.time.settings), (.lookUpClockProgram, clockConfigBytes s.program.config),
        (.lookUpDuskSettings, duskSettingsBytes s.calendar.dusk), (.lookUpFeeder, u16 s.feeder.capacity),
        (.lookUpConditions, flagBytes s.link.enables), (.lookUpChimeMap, s.tunes.chimeMap.toList.flatMap (optional u8)),
        (.lookUpDuskTable, s.calendar.duskTable.toList.flatMap u16), (.readStateTimeBase, e.timeBaseState),
        (.readStateTuneLibrary, e.tuneLibraryReport), (.readStateChimeSequencer, e.chimeReport),
        (.readStateClockProgram, e.clockReport), (.readStateOccasionCalendar, e.calendarReport),
        (.readStateFloodlightMixer, e.mixerReport), (.readStateFeederAccount, e.feederReport)],
      answers x.1 (reply .done 0 0 x.2))) ∧
  [DialState.off, .waitTime, .run, .catchUp, .hold, .fault].map dialStateCode = [0, 1, 2, 3, 4, 5] ∧
  [LineFunction.unused, .hammerStrike, .hammerBusy, .swingSense, .restSense, .motor, .dialPositive, .dialNegative, .dialSense,
    .lamp, .ambient, .ringingSwitch, .bellKey].map functionCode = List.range 13 ∧
  [BellGroup.ring, .chime, .service].map groupCode = [0, 1, 2] ∧
  [SensorMode.none, .swingOnly, .swingAndRest].map sensorCode = [0, 1, 2] ∧
  [Feedback.busy, .none].map feedbackCode = [0, 1] ∧
  [SwingState.unknown, .atRest, .swinging, .settling, .up, .locked].map swingCode = [0, 1, 2, 3, 4, 5] ∧
  (∀ k n, [StrokeState.idle, .requested k, .striking k, .recovering k n, .fault, .outOfService].map strokeCode
    = [0, 1, 2, 3, 4, 5]) ∧
  [HammerFault.noAnswer, .stuck, .unsolicited].map hammerFaultCode = [0, 1, 2] ∧
  [MotorReport.done, .stopped, .locked, .up, .stalled, .refusedFeeder].map motorReportCode = [0, 1, 2, 3, 4, 5] ∧
  [TuneState.draft, .live, .retiring].map tuneStateCode = [0, 1, 2] ∧
  [OccasionState.armed, .firing, .suspended, .spent, .retiring].map occasionStateCode = [0, 1, 2, 3, 4] ∧
  [SceneState.live, .retiring].map sceneStateCode = [0, 1] ∧
  [OutcomeKind.pending, .started, .done, .cancelled, .refused, .skipped].map outcomeCode = [0, 1, 2, 3, 4, 5] ∧
  [Reason.none, .noRecord, .full, .bellClaimed, .noChannel, .notInService, .noMotor, .motorOutOfService, .locked, .up, .feeder,
    .expired, .preEmpted, .stalled, .interrupted, .notStanding].map reasonCode = List.range 16 ∧
  [EntryReport.queued, .gone, .notLive, .refusedFull, .expired, .started, .done, .stopped, .preEmptedDropped].map entryReportCode
    = List.range 9 ∧
  [Ending.done, .stopped, .preEmpted].map endingCode = [0, 1, 2] ∧
  (∀ s : State,
    let be (k n : Nat) : List Byte := (List.range k).map fun j => BitVec.ofNat 8 (n / 256 ^ (k - 1 - j))
    let yes (b : Bool) : List Byte := be 1 b.toNat
    let opt (x : Option (List Byte)) : List Byte := match x with | none => [0#8] | some b => 1#8 :: b
    let zeros (n : Nat) : List Byte := List.replicate n 0#8
    let two (k : Nat) (x : Int) : List Byte := be k (x % (256 ^ k : Nat)).toNat
    let many (l : List (List Byte)) : List Byte := be 1 l.length ++ l.flatten
    let lab (l : Label) : List Byte := l.take 16 ++ zeros (16 - l.length)
    let hand (h : Handle) : List Byte := be 1 h.slot ++ be 1 h.gen
    let hm (t : HourMinute) : List Byte := be 1 t.hour ++ be 1 t.minute
    let date (d : Date) : List Byte := be 2 d.year ++ be 1 d.month ++ be 1 d.day
    let instant (t : Nat) : List Byte :=
      date (dateTimeOf t).date ++ be 1 (dateTimeOf t).hour ++ be 1 (dateTimeOf t).minute ++ be 1 (dateTimeOf t).second
    let localInstant (t : Nat) : List Byte := instant (t + s.time.settings.rule.shift (summerAt s.time.settings.rule t))
    let ago (t : Nat) : List Byte := two 4 (max (-2147483648) (min 2147483647 ((t : Int) - (s.nowMs : Int))))
    (∀ x : TimeSettings, timeSettingsBytes x = two 2 x.trim ++ yes x.markEnable ++ yes x.rule.enabled ++ be 1 x.rule.offset
      ++ be 1 x.rule.startMonth ++ be 1 x.rule.startWeek ++ be 1 x.rule.startWeekday.index ++ hm x.rule.startTime
      ++ be 1 x.rule.endMonth ++ be 1 x.rule.endWeek ++ be 1 x.rule.endWeekday.index ++ hm x.rule.endTime) ∧
    [Weekday.monday, .tuesday, .wednesday, .thursday, .friday, .saturday, .sunday].map Weekday.index = List.range 7 ∧
    (∀ d : Dial, dialBytes d = lab d.label ++ be 1 (if d.service then 0 else 1) ++ be 2 d.position
      ++ be 1 (if d.nextPolarity = .positive then 0 else 1) ++ be 1 (d.impulseWidth / 10) ++ be 1 (d.spacing / 500)
      ++ be 2 d.window ++ yes d.doubt ++ opt (d.fault.map fun _ => be 1 0)) ∧
    (∀ x : LineRecord, lineBytes x = be 1 (functionCode x.function) ++ opt (x.bound.map (be 1))
      ++ be 1 (if x.activeHigh then 0 else 1) ++ be 1 x.filter) ∧
    (∀ c : BellConfig, bellBytes c = lab c.label ++ be 1 (groupCode c.group) ++ yes c.inService ++ yes c.hammerInService
      ++ yes c.motorInService ++ yes c.hostLock ++ be 1 (sensorCode c.sensorMode) ++ be 2 c.settle ++ be 2 c.lead
      ++ be 1 c.velocity0 ++ be 1 c.velocity1 ++ be 1 c.velocity2 ++ be 1 c.velocity3 ++ be 1 (feedbackCode c.feedback)
      ++ be 2 c.repeatInterval ++ be 2 c.motorRating) ∧
    (∀ t : Tune, tuneBytes t = lab t.label ++ be 1 (tuneStateCode t.state) ++ be 2 t.steps.length ++ be 3 (ownTicks t.steps)
      ++ be 1 t.refs) ∧
    (∀ (k : List Nat) (v d : Nat), k.length ≤ 4 → stepBytes (.note k v d)
      = be 1 1 ++ be 1 v ++ be 2 d ++ k.flatMap (be 1) ++ List.replicate (4 - k.length) 255#8) ∧
    (∀ d, stepBytes (.rest d) = be 1 2 ++ be 1 0 ++ be 2 d ++ zeros 4) ∧
    (∀ h n, stepBytes (.call h n) = be 1 3 ++ be 1 n ++ hand h ++ zeros 4) ∧
    (∀ c : ClockConfig, clockConfigBytes c = yes c.quartersEnabled ++ opt (c.first.map hand) ++ opt (c.second.map hand)
      ++ opt (c.third.map hand) ++ opt (c.fourth.map hand) ++ yes c.hourEnabled ++ be 1 c.hourBell ++ be 2 c.blowInterval
      ++ be 1 c.hourVelocity ++ be 2 c.strikeGap ++ be 1 c.quarterPriority ++ be 1 c.hourPriority ++ be 2 c.expiry
      ++ opt (c.nightStart.map hm) ++ opt (c.nightEnd.map hm) ++ be 1 (if c.nightMode = .all then 0 else 1)) ∧
    (∀ d : DuskSettings, duskSettingsBytes d = opt (d.line.map (be 1)) ++ be 2 d.threshold ++ be 1 d.confirm
      ++ yes d.sensorFault) ∧
    (∀ c : ChannelConfig, channelBytes c = lab c.label ++ yes c.inService ++ be 2 c.rating ++ be 2 c.ceiling ++ be 2 c.floor) ∧
    (∀ c : SceneConfig, sceneConfigBytes c = lab c.label ++ be 2 c.fadeIn ++ be 2 c.fadeOut ++ be 1 c.priority
      ++ be 1 (if c.mode = .top then 0 else 1) ++ many (c.levels.map fun x => be 1 x.1 ++ be 2 x.2)) ∧
    (∀ f : FlagSet, flagBytes f = be 2 f.toNat) ∧
    (∀ c : OccasionConfig,
      let recurrence : List Byte := match c.recurrence with
        | .once d => be 1 0 ++ date d
        | .daily => be 1 1 ++ zeros 4
        | .weekly w => be 1 2 ++ be 1 w.toNat ++ zeros 3
        | .monthlyNth week w months => be 1 3 ++ be 1 week ++ be 1 (w.index + 1) ++ be 2 months.toNat
        | .annual month day => be 1 4 ++ be 1 month ++ be 1 day ++ zeros 2
      let anchor : List Byte := match c.anchor with
        | .clock hour minute second => be 1 0 ++ be 1 hour ++ be 1 minute ++ be 1 second
        | .dusk offset => be 1 1 ++ two 2 offset ++ zeros 1
      let block (a : Action) : List Byte := match a.kind with
        | .play h x repeats yields => be 1 1 ++ be 2 a.offset ++ hand h ++ two 1 x ++ be 1 repeats ++ yes yields ++ zeros 2
        | .toll bell interval blows velocity =>
          be 1 2 ++ be 2 a.offset ++ be 1 bell ++ be 1 interval ++ be 2 blows ++ be 1 velocity ++ zeros 2
        | .swing bell minutes => be 1 3 ++ be 2 a.offset ++ be 1 bell ++ be 1 minutes ++ zeros 5
        | .sceneUp h hold => be 1 4 ++ be 2 a.offset ++ hand h ++ be 2 hold ++ zeros 3
        | .sceneDown h => be 1 5 ++ be 2 a.offset ++ hand h ++ zeros 5
        | .silence minutes => be 1 6 ++ be 2 a.offset ++ be 1 minutes ++ zeros 6
      let day (d : Option Date) : List Byte := match d with | none => zeros 4 | some x => date x
      occasionConfigBytes c = lab c.label ++ recurrence
          ++ be 1 ((if c.firstDate.isSome then 1 else 0) + (if c.lastDate.isSome then 2 else 0)) ++ day c.firstDate ++ day c.lastDate
          ++ anchor ++ be 1 c.grace ++ be 1 c.priority ++ be 1 c.actions.length ++ c.actions.flatMap block
          ++ zeros (10 * (4 - c.actions.length)) ∧
        (c.actions.length ≤ 4 → (occasionConfigBytes c).length = 77)) ∧
    (∀ o : Occasion,
      let outcome (x : Outcome) : List Byte :=
        be 1 (outcomeCode x.kind) ++ be 1 (reasonCode x.note) ++ be 2 x.skipped ++ yes x.depth
      let four : List Byte := o.outcome.flatMap outcome ++ zeros (5 * (4 - o.outcome.length))
      let due : List Byte := opt (o.due.map fun d => localInstant d.instant)
      let actions : List ContextAction := match o.context with | none => [] | some k => ((s.context k).map (·.actions)).getD []
      let phase (a : ContextAction) : List Byte := match a.phase with
        | .waiting _ => be 1 0 ++ localInstant a.start
        | .active (.entry n) => be 1 1 ++ be 1 0 ++ be 2 n
        | .active (.toll n) => be 1 1 ++ be 1 1 ++ be 1 n
        | .active (.bell n) => be 1 1 ++ be 1 2 ++ be 1 n
        | .done => be 1 2
      s.occasionLookUp o = occasionConfigBytes o.config ++ be 1 (occasionStateCode o.state) ++ due
          ++ opt (o.lastFired.map localInstant) ++ four ++ be 1 o.missed ++ opt (o.context.map (be 1)) ∧
        s.occasionReport o = be 1 (occasionStateCode o.state) ++ due ++ opt (o.context.map (be 1)) ++ many (actions.map phase)
          ++ four ++ be 1 o.missed) ∧
    s.timeBaseState = instant s.time.standard ++ instant s.localNow ++ yes s.time.summer ++ yes s.time.valid
      ++ opt ((if s.time.valid && s.time.settings.rule.enabled then nextTransition s.time.settings.rule s.time.standard
          else none).map instant)
      ++ two 2 s.time.trimInUse ++ yes s.time.settings.markEnable ++ opt (s.time.lastAlignment.map (two 2)) ∧
    (∀ i,
      let d := s.dial i
      let target : Option Nat := if s.time.valid then some (dialTarget s.localNow) else none
      s.dialReport i = be 1 (dialStateCode d.state) ++ be 2 d.position ++ be 1 (if d.nextPolarity = .positive then 0 else 1)
        ++ opt (target.map (be 2)) ++ opt (target.map fun t => be 2 (distance t d.position))
        ++ opt (d.impulse.map fun x => be 1 (if x.polarity = .positive then 0 else 1)) ++ yes d.owed ++ yes d.doubt
        ++ opt (d.fault.map fun _ => be 1 0)) ∧
    (∀ i,
      let l := s.line i
      let head : List Byte := be 1 (functionCode l.record.function) ++ opt (l.record.bound.map (be 1))
      (l.record.function = .ambient → s.lineReport i = head ++ opt (l.lastReading.map (be 2))) ∧
      (l.record.function ≠ .ambient → isOutput l.record.function = true → s.lineReport i = head ++ yes (s.outputActive i)) ∧
      (l.record.function ≠ .ambient → isOutput l.record.function = false →
        s.lineReport i = head ++ yes l.filtered ++ yes l.pinHigh)) ∧
    (∀ i k,
      let b := s.bell i
      let running (x : Stroke) : List Byte := ago x.sounding ++ be 1 x.velocity
        ++ be 1 (match x.requester with | .performance _ => 0 | .toll c _ => c + 1) ++ yes x.raised
      let stroke : List Byte := match k with
        | .requested x => running x
        | .striking x => running x
        | .recovering _ endAt => be 2 (endAt - s.nowMs)
        | _ => []
      let hammer : List Byte := opt (if s.hasMachine i then some (be 1 (strokeCode k)) else none)
        ++ opt (b.hammerFault.map fun f => be 1 (hammerFaultCode f)) ++ stroke ++ yes (s.stroke i).lineIsActive
        ++ opt (if s.hasLine .hammerBusy i then some (yes (s.lineActive .hammerBusy i)) else none)
      let motor : List Byte := (match b.motor with
          | .off => be 1 0
          | .pending _ since admitted sources => be 1 1 ++ be 4 (s.nowMs - since) ++ yes admitted ++ be 1 sources.length
          | .running _ endAt satisfied sources => be 1 2 ++ be 4 (endAt - s.nowMs) ++ yes satisfied ++ be 1 sources.length)
        ++ opt (b.lastOutcome.map fun x => be 1 (motorReportCode x))
      s.bellReport i k = be 1 (swingCode b.swing) ++ opt (b.halfSwing.map (be 2))
        ++ opt (b.lastPulse.map fun t => be 3 (min 600000 (s.nowMs - t))) ++ yes (s.restClosed i) ++ yes b.config.hostLock
        ++ yes (s.keyActive i) ++ yes (s.ringingLocks i) ++ hammer ++ if 0 < b.config.motorRating then motor else []) ∧
    (let count (x : TuneState) : Nat :=
       ((List.range 64).filter fun j => (s.tuneSlot j).record.any fun t => t.state == x).length
     s.tuneLibraryReport = be 2 s.tunes.freeSteps
       ++ be 1 ((List.range 64).filter fun j => (s.tuneSlot j).record.isNone).length
       ++ be 1 (count .draft) ++ be 1 (count .live) ++ be 1 (count .retiring)) ∧
    (let content (x : Content) : List Byte := match x with
       | .tune h => be 1 0 ++ hand h
       | .hourStrike bell blows interval velocity => be 1 1 ++ be 1 bell ++ be 1 blows ++ be 2 interval ++ be 1 velocity
     let source (x : EntrySource) : List Byte := match x with
       | .quarter _ => be 1 0
       | .hour _ => be 1 1
       | .occasion h k place => be 1 2 ++ hand h ++ be 1 k ++ be 1 (place + 1)
       | .command => be 1 3
     let entry (x : Entry) : List Byte := be 2 x.number ++ source x.source ++ content x.content ++ two 1 x.transposition
       ++ be 1 x.repeats ++ be 1 x.priority ++ yes x.yields ++ opt (x.expiry.map instant) ++ be 2 x.leadIn ++ be 4 x.arrival
       ++ yes x.resume.isSome ++ yes x.started
     let performance (p : Performance) : List Byte := be 2 p.entry.number ++ yes p.ending.isSome
       ++ opt (p.ending.map fun x => be 1 (endingCode x)) ++ yes p.stopPending ++ yes p.preemptPending ++ ago p.start
       ++ ago p.nextSounding ++ hand p.cursor.tune ++ be 2 p.cursor.step ++ be 1 p.stack.length
       ++ (match p.passes with | .left n => be 1 n | .untilStopped => be 1 255) ++ be 2 p.skipped ++ yes p.depth
     let tollFields (t : TollRun) : List Byte := be 1 t.interval ++ be 2 t.blowsLeft ++ be 1 t.velocity
       ++ (match t.source with | .action h k place => be 1 0 ++ hand h ++ be 1 k ++ be 1 (place + 1) | .command => be 1 1)
       ++ ago t.start ++ be 2 t.nextBlow ++ opt (t.scheduled.map fun x => ago x.sounding ++ ago x.requestAt) ++ be 2 t.skipped
     let toll (c : Nat) : List Byte := match s.toll c with
       | none => be 1 0 ++ be 1 0 ++ tollFields (s.lastToll c)
       | some t => be 1 1 ++ be 1 1 ++ be 1 t.bell ++ tollFields t
     let outcome (x : CommandOutcome) : List Byte :=
       (match x.what with | .entry n => be 1 0 ++ be 2 n | .toll c => be 1 1 ++ be 2 c) ++ be 1 (entryReportCode x.report)
         ++ be 2 x.skipped ++ yes x.depth
     s.chimeReport = many (s.chime.queue.map entry) ++ opt (s.chime.performance.map performance) ++ toll 0 ++ toll 1
       ++ opt (s.chime.lastOutcome.map outcome)) ∧
    (let p := s.program
     let live (h : Option Handle) : List Byte :=
       opt (h.map fun h => yes ((s.findTune h).any fun t => t.state == .live))
     s.clockReport = opt (p.silencedUntil.map localInstant) ++ yes (p.silencedUntil.any fun x => s.time.standard < x)
       ++ yes s.nightNow ++ be 2 p.quartersMissed ++ be 2 p.hoursMissed ++ opt (p.lastMark.map localInstant)
       ++ opt (p.lastOutcome.map fun x => be 1 (if x.source = .quarter then 0 else 1) ++ instant x.mark
           ++ be 1 (entryReportCode x.report) ++ be 2 x.skipped)
       ++ live p.config.first ++ live p.config.second ++ live p.config.third ++ live p.config.fourth) ∧
    (let c := s.calendar
     let name (x : Nat × Occasion) : List Byte := be 1 x.1 ++ be 1 (s.occasionSlot x.1).gen
     let waiting := s.occasionsWhere fun o => o.waiting
     s.calendarReport = be 2 ((List.range 256).filter fun j => (s.occasionSlot j).record.isNone).length
       ++ be 1 ((List.range 8).filter fun j => (s.context j).isSome).length ++ be 2 waiting.length ++ waiting.flatMap name
       ++ many ((s.dueList.take 8).map fun x => name x ++ opt (x.2.due.map fun d => localInstant d.instant))
       ++ opt (c.dusk.line.map (be 1)) ++ opt ((duskMean c.window).map (be 2)) ++ opt (c.belowSince.map localInstant)
       ++ localInstant c.tableDusk.instant ++ opt (c.confirmed.map fun x => date (dateOfDay x.day) ++ localInstant x.instant)
       ++ yes c.dusk.sensorFault) ∧
    (∀ i, s.channelReport i = be 2 (s.channel i).levels.delivered ++ be 2 (s.channel i).levels.mixed
      ++ be 2 (s.channel i).levels.capped ++ yes ((s.channel i).config.inService && s.time.power == .mains)) ∧
    (let fade (l : Layer) : List Byte := be 2 l.f ++ be 2 l.target ++ be 2 (s.framesLeft l)
     let creator (x : Creator) : List Byte := match x with | .occasion h => be 1 0 ++ hand h | .command => be 1 1
     let ending (x : StandingEntry) : List Byte := localInstant x.endAt ++ creator x.creator
     (∀ h x, s.sceneReport h x = be 1 (sceneStateCode x.state)
       ++ opt ((s.mixer.layers.find? fun l => l.scene = h).map fade)
       ++ opt ((s.mixer.standing.find? fun y => y.scene = h).map ending)) ∧
     s.mixerReport = many (s.mixer.layers.map fun l => hand l.scene ++ be 4 l.sequence ++ fade l)
       ++ many (s.mixer.standing.map fun y => hand y.scene ++ ending y) ++ be 2 s.feeder.scaleInEffect
       ++ be 1 ((List.range 32).filter fun j => (s.sceneSlot j).record.isNone).length) ∧
    (let f := s.feeder
     s.feederReport = be 2 f.capacity ++ be 2 f.load ++ be 2 f.scaleInEffect ++ yes f.shed
       ++ opt (f.record.map fun c => be 4 c.frame ++ be 2 c.capacity ++ be 2 c.load ++ be 3 c.demand ++ be 2 c.budget
           ++ be 2 c.target ++ be 2 c.scale)
       ++ many (f.asks.map fun a => be 1 a.bell ++ be 2 a.rating ++ be 3 (s.nowMs - a.since))
       ++ many (f.admitted.map fun r => be 1 r.bell ++ be 2 r.rating ++ yes r.permitted)))

end
end

