-- ==== Sys2Proof/Laws/State.lean ====
section
/-! SUPPORT. What each named update of the state leaves as it was, one lemma per field, and what it writes. -/

namespace Sys2Proof.Machine

variable (s : State)

/-! ### State.setDial -/

@[simp] theorem State.setDial_clock (i : Nat) (d : Dial) : (s.setDial i d).clock = s.clock := rfl
@[simp] theorem State.setDial_time (i : Nat) (d : Dial) : (s.setDial i d).time = s.time := rfl
@[simp] theorem State.setDial_lines (i : Nat) (d : Dial) : (s.setDial i d).lines = s.lines := rfl
@[simp] theorem State.setDial_bells (i : Nat) (d : Dial) : (s.setDial i d).bells = s.bells := rfl
@[simp] theorem State.setDial_hammers (i : Nat) (d : Dial) : (s.setDial i d).hammers = s.hammers := rfl
@[simp] theorem State.setDial_tunes (i : Nat) (d : Dial) : (s.setDial i d).tunes = s.tunes := rfl
@[simp] theorem State.setDial_chime (i : Nat) (d : Dial) : (s.setDial i d).chime = s.chime := rfl
@[simp] theorem State.setDial_program (i : Nat) (d : Dial) : (s.setDial i d).program = s.program := rfl
@[simp] theorem State.setDial_calendar (i : Nat) (d : Dial) : (s.setDial i d).calendar = s.calendar := rfl
@[simp] theorem State.setDial_mixer (i : Nat) (d : Dial) : (s.setDial i d).mixer = s.mixer := rfl
@[simp] theorem State.setDial_feeder (i : Nat) (d : Dial) : (s.setDial i d).feeder = s.feeder := rfl
@[simp] theorem State.setDial_link (i : Nat) (d : Dial) : (s.setDial i d).link = s.link := rfl
@[simp] theorem State.setDial_memory (i : Nat) (d : Dial) : (s.setDial i d).memory = s.memory := rfl
@[simp] theorem State.setDial_pending (i : Nat) (d : Dial) : (s.setDial i d).pending = s.pending := rfl

/-! ### State.setLine -/

@[simp] theorem State.setLine_clock (i : Nat) (l : Line) : (s.setLine i l).clock = s.clock := rfl
@[simp] theorem State.setLine_time (i : Nat) (l : Line) : (s.setLine i l).time = s.time := rfl
@[simp] theorem State.setLine_dials (i : Nat) (l : Line) : (s.setLine i l).dials = s.dials := rfl
@[simp] theorem State.setLine_bells (i : Nat) (l : Line) : (s.setLine i l).bells = s.bells := rfl
@[simp] theorem State.setLine_hammers (i : Nat) (l : Line) : (s.setLine i l).hammers = s.hammers := rfl
@[simp] theorem State.setLine_tunes (i : Nat) (l : Line) : (s.setLine i l).tunes = s.tunes := rfl
@[simp] theorem State.setLine_chime (i : Nat) (l : Line) : (s.setLine i l).chime = s.chime := rfl
@[simp] theorem State.setLine_program (i : Nat) (l : Line) : (s.setLine i l).program = s.program := rfl
@[simp] theorem State.setLine_calendar (i : Nat) (l : Line) : (s.setLine i l).calendar = s.calendar := rfl
@[simp] theorem State.setLine_mixer (i : Nat) (l : Line) : (s.setLine i l).mixer = s.mixer := rfl
@[simp] theorem State.setLine_feeder (i : Nat) (l : Line) : (s.setLine i l).feeder = s.feeder := rfl
@[simp] theorem State.setLine_link (i : Nat) (l : Line) : (s.setLine i l).link = s.link := rfl
@[simp] theorem State.setLine_memory (i : Nat) (l : Line) : (s.setLine i l).memory = s.memory := rfl
@[simp] theorem State.setLine_pending (i : Nat) (l : Line) : (s.setLine i l).pending = s.pending := rfl

/-! ### State.setBell -/

@[simp] theorem State.setBell_clock (i : Nat) (b : Bell) : (s.setBell i b).clock = s.clock := rfl
@[simp] theorem State.setBell_time (i : Nat) (b : Bell) : (s.setBell i b).time = s.time := rfl
@[simp] theorem State.setBell_dials (i : Nat) (b : Bell) : (s.setBell i b).dials = s.dials := rfl
@[simp] theorem State.setBell_lines (i : Nat) (b : Bell) : (s.setBell i b).lines = s.lines := rfl
@[simp] theorem State.setBell_hammers (i : Nat) (b : Bell) : (s.setBell i b).hammers = s.hammers := rfl
@[simp] theorem State.setBell_tunes (i : Nat) (b : Bell) : (s.setBell i b).tunes = s.tunes := rfl
@[simp] theorem State.setBell_chime (i : Nat) (b : Bell) : (s.setBell i b).chime = s.chime := rfl
@[simp] theorem State.setBell_program (i : Nat) (b : Bell) : (s.setBell i b).program = s.program := rfl
@[simp] theorem State.setBell_calendar (i : Nat) (b : Bell) : (s.setBell i b).calendar = s.calendar := rfl
@[simp] theorem State.setBell_mixer (i : Nat) (b : Bell) : (s.setBell i b).mixer = s.mixer := rfl
@[simp] theorem State.setBell_feeder (i : Nat) (b : Bell) : (s.setBell i b).feeder = s.feeder := rfl
@[simp] theorem State.setBell_link (i : Nat) (b : Bell) : (s.setBell i b).link = s.link := rfl
@[simp] theorem State.setBell_memory (i : Nat) (b : Bell) : (s.setBell i b).memory = s.memory := rfl
@[simp] theorem State.setBell_pending (i : Nat) (b : Bell) : (s.setBell i b).pending = s.pending := rfl

/-! ### State.setStroke -/

@[simp] theorem State.setStroke_clock (i : Nat) (k : StrokeState) : (s.setStroke i k).clock = s.clock := rfl
@[simp] theorem State.setStroke_time (i : Nat) (k : StrokeState) : (s.setStroke i k).time = s.time := rfl
@[simp] theorem State.setStroke_dials (i : Nat) (k : StrokeState) : (s.setStroke i k).dials = s.dials := rfl
@[simp] theorem State.setStroke_lines (i : Nat) (k : StrokeState) : (s.setStroke i k).lines = s.lines := rfl
@[simp] theorem State.setStroke_bells (i : Nat) (k : StrokeState) : (s.setStroke i k).bells = s.bells := rfl
@[simp] theorem State.setStroke_tunes (i : Nat) (k : StrokeState) : (s.setStroke i k).tunes = s.tunes := rfl
@[simp] theorem State.setStroke_chime (i : Nat) (k : StrokeState) : (s.setStroke i k).chime = s.chime := rfl
@[simp] theorem State.setStroke_program (i : Nat) (k : StrokeState) : (s.setStroke i k).program = s.program := rfl
@[simp] theorem State.setStroke_calendar (i : Nat) (k : StrokeState) : (s.setStroke i k).calendar = s.calendar := rfl
@[simp] theorem State.setStroke_mixer (i : Nat) (k : StrokeState) : (s.setStroke i k).mixer = s.mixer := rfl
@[simp] theorem State.setStroke_feeder (i : Nat) (k : StrokeState) : (s.setStroke i k).feeder = s.feeder := rfl
@[simp] theorem State.setStroke_link (i : Nat) (k : StrokeState) : (s.setStroke i k).link = s.link := rfl
@[simp] theorem State.setStroke_memory (i : Nat) (k : StrokeState) : (s.setStroke i k).memory = s.memory := rfl
@[simp] theorem State.setStroke_pending (i : Nat) (k : StrokeState) : (s.setStroke i k).pending = s.pending := rfl

/-! ### State.setTuneSlot -/

@[simp] theorem State.setTuneSlot_clock (i : Nat) (x : Slot Tune) : (s.setTuneSlot i x).clock = s.clock := rfl
@[simp] theorem State.setTuneSlot_time (i : Nat) (x : Slot Tune) : (s.setTuneSlot i x).time = s.time := rfl
@[simp] theorem State.setTuneSlot_dials (i : Nat) (x : Slot Tune) : (s.setTuneSlot i x).dials = s.dials := rfl
@[simp] theorem State.setTuneSlot_lines (i : Nat) (x : Slot Tune) : (s.setTuneSlot i x).lines = s.lines := rfl
@[simp] theorem State.setTuneSlot_bells (i : Nat) (x : Slot Tune) : (s.setTuneSlot i x).bells = s.bells := rfl
@[simp] theorem State.setTuneSlot_hammers (i : Nat) (x : Slot Tune) : (s.setTuneSlot i x).hammers = s.hammers := rfl
@[simp] theorem State.setTuneSlot_chime (i : Nat) (x : Slot Tune) : (s.setTuneSlot i x).chime = s.chime := rfl
@[simp] theorem State.setTuneSlot_program (i : Nat) (x : Slot Tune) : (s.setTuneSlot i x).program = s.program := rfl
@[simp] theorem State.setTuneSlot_calendar (i : Nat) (x : Slot Tune) : (s.setTuneSlot i x).calendar = s.calendar := rfl
@[simp] theorem State.setTuneSlot_mixer (i : Nat) (x : Slot Tune) : (s.setTuneSlot i x).mixer = s.mixer := rfl
@[simp] theorem State.setTuneSlot_feeder (i : Nat) (x : Slot Tune) : (s.setTuneSlot i x).feeder = s.feeder := rfl
@[simp] theorem State.setTuneSlot_link (i : Nat) (x : Slot Tune) : (s.setTuneSlot i x).link = s.link := rfl
@[simp] theorem State.setTuneSlot_memory (i : Nat) (x : Slot Tune) : (s.setTuneSlot i x).memory = s.memory := rfl
@[simp] theorem State.setTuneSlot_pending (i : Nat) (x : Slot Tune) : (s.setTuneSlot i x).pending = s.pending := rfl

/-! ### State.setToll -/

@[simp] theorem State.setToll_clock (i : Nat) (x : Option TollRun) : (s.setToll i x).clock = s.clock := rfl
@[simp] theorem State.setToll_time (i : Nat) (x : Option TollRun) : (s.setToll i x).time = s.time := rfl
@[simp] theorem State.setToll_dials (i : Nat) (x : Option TollRun) : (s.setToll i x).dials = s.dials := rfl
@[simp] theorem State.setToll_lines (i : Nat) (x : Option TollRun) : (s.setToll i x).lines = s.lines := rfl
@[simp] theorem State.setToll_bells (i : Nat) (x : Option TollRun) : (s.setToll i x).bells = s.bells := rfl
@[simp] theorem State.setToll_hammers (i : Nat) (x : Option TollRun) : (s.setToll i x).hammers = s.hammers := rfl
@[simp] theorem State.setToll_tunes (i : Nat) (x : Option TollRun) : (s.setToll i x).tunes = s.tunes := rfl
@[simp] theorem State.setToll_program (i : Nat) (x : Option TollRun) : (s.setToll i x).program = s.program := rfl
@[simp] theorem State.setToll_calendar (i : Nat) (x : Option TollRun) : (s.setToll i x).calendar = s.calendar := rfl
@[simp] theorem State.setToll_mixer (i : Nat) (x : Option TollRun) : (s.setToll i x).mixer = s.mixer := rfl
@[simp] theorem State.setToll_feeder (i : Nat) (x : Option TollRun) : (s.setToll i x).feeder = s.feeder := rfl
@[simp] theorem State.setToll_link (i : Nat) (x : Option TollRun) : (s.setToll i x).link = s.link := rfl
@[simp] theorem State.setToll_memory (i : Nat) (x : Option TollRun) : (s.setToll i x).memory = s.memory := rfl
@[simp] theorem State.setToll_pending (i : Nat) (x : Option TollRun) : (s.setToll i x).pending = s.pending := rfl

/-! ### State.setLastToll -/

@[simp] theorem State.setLastToll_clock (i : Nat) (x : TollRun) : (s.setLastToll i x).clock = s.clock := rfl
@[simp] theorem State.setLastToll_time (i : Nat) (x : TollRun) : (s.setLastToll i x).time = s.time := rfl
@[simp] theorem State.setLastToll_dials (i : Nat) (x : TollRun) : (s.setLastToll i x).dials = s.dials := rfl
@[simp] theorem State.setLastToll_lines (i : Nat) (x : TollRun) : (s.setLastToll i x).lines = s.lines := rfl
@[simp] theorem State.setLastToll_bells (i : Nat) (x : TollRun) : (s.setLastToll i x).bells = s.bells := rfl
@[simp] theorem State.setLastToll_hammers (i : Nat) (x : TollRun) : (s.setLastToll i x).hammers = s.hammers := rfl
@[simp] theorem State.setLastToll_tunes (i : Nat) (x : TollRun) : (s.setLastToll i x).tunes = s.tunes := rfl
@[simp] theorem State.setLastToll_program (i : Nat) (x : TollRun) : (s.setLastToll i x).program = s.program := rfl
@[simp] theorem State.setLastToll_calendar (i : Nat) (x : TollRun) : (s.setLastToll i x).calendar = s.calendar := rfl
@[simp] theorem State.setLastToll_mixer (i : Nat) (x : TollRun) : (s.setLastToll i x).mixer = s.mixer := rfl
@[simp] theorem State.setLastToll_feeder (i : Nat) (x : TollRun) : (s.setLastToll i x).feeder = s.feeder := rfl
@[simp] theorem State.setLastToll_link (i : Nat) (x : TollRun) : (s.setLastToll i x).link = s.link := rfl
@[simp] theorem State.setLastToll_memory (i : Nat) (x : TollRun) : (s.setLastToll i x).memory = s.memory := rfl
@[simp] theorem State.setLastToll_pending (i : Nat) (x : TollRun) : (s.setLastToll i x).pending = s.pending := rfl

/-! ### State.setOccasionSlot -/

@[simp] theorem State.setOccasionSlot_clock (i : Nat) (x : Slot Occasion) : (s.setOccasionSlot i x).clock = s.clock := rfl
@[simp] theorem State.setOccasionSlot_time (i : Nat) (x : Slot Occasion) : (s.setOccasionSlot i x).time = s.time := rfl
@[simp] theorem State.setOccasionSlot_dials (i : Nat) (x : Slot Occasion) : (s.setOccasionSlot i x).dials = s.dials := rfl
@[simp] theorem State.setOccasionSlot_lines (i : Nat) (x : Slot Occasion) : (s.setOccasionSlot i x).lines = s.lines := rfl
@[simp] theorem State.setOccasionSlot_bells (i : Nat) (x : Slot Occasion) : (s.setOccasionSlot i x).bells = s.bells := rfl
@[simp] theorem State.setOccasionSlot_hammers (i : Nat) (x : Slot Occasion) : (s.setOccasionSlot i x).hammers = s.hammers := rfl
@[simp] theorem State.setOccasionSlot_tunes (i : Nat) (x : Slot Occasion) : (s.setOccasionSlot i x).tunes = s.tunes := rfl
@[simp] theorem State.setOccasionSlot_chime (i : Nat) (x : Slot Occasion) : (s.setOccasionSlot i x).chime = s.chime := rfl
@[simp] theorem State.setOccasionSlot_program (i : Nat) (x : Slot Occasion) : (s.setOccasionSlot i x).program = s.program := rfl
@[simp] theorem State.setOccasionSlot_mixer (i : Nat) (x : Slot Occasion) : (s.setOccasionSlot i x).mixer = s.mixer := rfl
@[simp] theorem State.setOccasionSlot_feeder (i : Nat) (x : Slot Occasion) : (s.setOccasionSlot i x).feeder = s.feeder := rfl
@[simp] theorem State.setOccasionSlot_link (i : Nat) (x : Slot Occasion) : (s.setOccasionSlot i x).link = s.link := rfl
@[simp] theorem State.setOccasionSlot_memory (i : Nat) (x : Slot Occasion) : (s.setOccasionSlot i x).memory = s.memory := rfl
@[simp] theorem State.setOccasionSlot_pending (i : Nat) (x : Slot Occasion) : (s.setOccasionSlot i x).pending = s.pending := rfl

/-! ### State.setContext -/

@[simp] theorem State.setContext_clock (i : Nat) (x : Option Context) : (s.setContext i x).clock = s.clock := rfl
@[simp] theorem State.setContext_time (i : Nat) (x : Option Context) : (s.setContext i x).time = s.time := rfl
@[simp] theorem State.setContext_dials (i : Nat) (x : Option Context) : (s.setContext i x).dials = s.dials := rfl
@[simp] theorem State.setContext_lines (i : Nat) (x : Option Context) : (s.setContext i x).lines = s.lines := rfl
@[simp] theorem State.setContext_bells (i : Nat) (x : Option Context) : (s.setContext i x).bells = s.bells := rfl
@[simp] theorem State.setContext_hammers (i : Nat) (x : Option Context) : (s.setContext i x).hammers = s.hammers := rfl
@[simp] theorem State.setContext_tunes (i : Nat) (x : Option Context) : (s.setContext i x).tunes = s.tunes := rfl
@[simp] theorem State.setContext_chime (i : Nat) (x : Option Context) : (s.setContext i x).chime = s.chime := rfl
@[simp] theorem State.setContext_program (i : Nat) (x : Option Context) : (s.setContext i x).program = s.program := rfl
@[simp] theorem State.setContext_mixer (i : Nat) (x : Option Context) : (s.setContext i x).mixer = s.mixer := rfl
@[simp] theorem State.setContext_feeder (i : Nat) (x : Option Context) : (s.setContext i x).feeder = s.feeder := rfl
@[simp] theorem State.setContext_link (i : Nat) (x : Option Context) : (s.setContext i x).link = s.link := rfl
@[simp] theorem State.setContext_memory (i : Nat) (x : Option Context) : (s.setContext i x).memory = s.memory := rfl
@[simp] theorem State.setContext_pending (i : Nat) (x : Option Context) : (s.setContext i x).pending = s.pending := rfl

/-! ### State.setChannel -/

@[simp] theorem State.setChannel_clock (i : Nat) (x : Channel) : (s.setChannel i x).clock = s.clock := rfl
@[simp] theorem State.setChannel_time (i : Nat) (x : Channel) : (s.setChannel i x).time = s.time := rfl
@[simp] theorem State.setChannel_dials (i : Nat) (x : Channel) : (s.setChannel i x).dials = s.dials := rfl
@[simp] theorem State.setChannel_lines (i : Nat) (x : Channel) : (s.setChannel i x).lines = s.lines := rfl
@[simp] theorem State.setChannel_bells (i : Nat) (x : Channel) : (s.setChannel i x).bells = s.bells := rfl
@[simp] theorem State.setChannel_hammers (i : Nat) (x : Channel) : (s.setChannel i x).hammers = s.hammers := rfl
@[simp] theorem State.setChannel_tunes (i : Nat) (x : Channel) : (s.setChannel i x).tunes = s.tunes := rfl
@[simp] theorem State.setChannel_chime (i : Nat) (x : Channel) : (s.setChannel i x).chime = s.chime := rfl
@[simp] theorem State.setChannel_program (i : Nat) (x : Channel) : (s.setChannel i x).program = s.program := rfl
@[simp] theorem State.setChannel_calendar (i : Nat) (x : Channel) : (s.setChannel i x).calendar = s.calendar := rfl
@[simp] theorem State.setChannel_feeder (i : Nat) (x : Channel) : (s.setChannel i x).feeder = s.feeder := rfl
@[simp] theorem State.setChannel_link (i : Nat) (x : Channel) : (s.setChannel i x).link = s.link := rfl
@[simp] theorem State.setChannel_memory (i : Nat) (x : Channel) : (s.setChannel i x).memory = s.memory := rfl
@[simp] theorem State.setChannel_pending (i : Nat) (x : Channel) : (s.setChannel i x).pending = s.pending := rfl

/-! ### State.setSceneSlot -/

@[simp] theorem State.setSceneSlot_clock (i : Nat) (x : Slot Scene) : (s.setSceneSlot i x).clock = s.clock := rfl
@[simp] theorem State.setSceneSlot_time (i : Nat) (x : Slot Scene) : (s.setSceneSlot i x).time = s.time := rfl
@[simp] theorem State.setSceneSlot_dials (i : Nat) (x : Slot Scene) : (s.setSceneSlot i x).dials = s.dials := rfl
@[simp] theorem State.setSceneSlot_lines (i : Nat) (x : Slot Scene) : (s.setSceneSlot i x).lines = s.lines := rfl
@[simp] theorem State.setSceneSlot_bells (i : Nat) (x : Slot Scene) : (s.setSceneSlot i x).bells = s.bells := rfl
@[simp] theorem State.setSceneSlot_hammers (i : Nat) (x : Slot Scene) : (s.setSceneSlot i x).hammers = s.hammers := rfl
@[simp] theorem State.setSceneSlot_tunes (i : Nat) (x : Slot Scene) : (s.setSceneSlot i x).tunes = s.tunes := rfl
@[simp] theorem State.setSceneSlot_chime (i : Nat) (x : Slot Scene) : (s.setSceneSlot i x).chime = s.chime := rfl
@[simp] theorem State.setSceneSlot_program (i : Nat) (x : Slot Scene) : (s.setSceneSlot i x).program = s.program := rfl
@[simp] theorem State.setSceneSlot_calendar (i : Nat) (x : Slot Scene) : (s.setSceneSlot i x).calendar = s.calendar := rfl
@[simp] theorem State.setSceneSlot_feeder (i : Nat) (x : Slot Scene) : (s.setSceneSlot i x).feeder = s.feeder := rfl
@[simp] theorem State.setSceneSlot_link (i : Nat) (x : Slot Scene) : (s.setSceneSlot i x).link = s.link := rfl
@[simp] theorem State.setSceneSlot_memory (i : Nat) (x : Slot Scene) : (s.setSceneSlot i x).memory = s.memory := rfl
@[simp] theorem State.setSceneSlot_pending (i : Nat) (x : Slot Scene) : (s.setSceneSlot i x).pending = s.pending := rfl

/-! ### State.setTune -/

@[simp] theorem State.setTune_clock (i : Nat) (x : Tune) : (s.setTune i x).clock = s.clock := rfl
@[simp] theorem State.setTune_time (i : Nat) (x : Tune) : (s.setTune i x).time = s.time := rfl
@[simp] theorem State.setTune_dials (i : Nat) (x : Tune) : (s.setTune i x).dials = s.dials := rfl
@[simp] theorem State.setTune_lines (i : Nat) (x : Tune) : (s.setTune i x).lines = s.lines := rfl
@[simp] theorem State.setTune_bells (i : Nat) (x : Tune) : (s.setTune i x).bells = s.bells := rfl
@[simp] theorem State.setTune_hammers (i : Nat) (x : Tune) : (s.setTune i x).hammers = s.hammers := rfl
@[simp] theorem State.setTune_chime (i : Nat) (x : Tune) : (s.setTune i x).chime = s.chime := rfl
@[simp] theorem State.setTune_program (i : Nat) (x : Tune) : (s.setTune i x).program = s.program := rfl
@[simp] theorem State.setTune_calendar (i : Nat) (x : Tune) : (s.setTune i x).calendar = s.calendar := rfl
@[simp] theorem State.setTune_mixer (i : Nat) (x : Tune) : (s.setTune i x).mixer = s.mixer := rfl
@[simp] theorem State.setTune_feeder (i : Nat) (x : Tune) : (s.setTune i x).feeder = s.feeder := rfl
@[simp] theorem State.setTune_link (i : Nat) (x : Tune) : (s.setTune i x).link = s.link := rfl
@[simp] theorem State.setTune_memory (i : Nat) (x : Tune) : (s.setTune i x).memory = s.memory := rfl
@[simp] theorem State.setTune_pending (i : Nat) (x : Tune) : (s.setTune i x).pending = s.pending := rfl

/-! ### State.setScene -/

@[simp] theorem State.setScene_clock (i : Nat) (x : Scene) : (s.setScene i x).clock = s.clock := rfl
@[simp] theorem State.setScene_time (i : Nat) (x : Scene) : (s.setScene i x).time = s.time := rfl
@[simp] theorem State.setScene_dials (i : Nat) (x : Scene) : (s.setScene i x).dials = s.dials := rfl
@[simp] theorem State.setScene_lines (i : Nat) (x : Scene) : (s.setScene i x).lines = s.lines := rfl
@[simp] theorem State.setScene_bells (i : Nat) (x : Scene) : (s.setScene i x).bells = s.bells := rfl
@[simp] theorem State.setScene_hammers (i : Nat) (x : Scene) : (s.setScene i x).hammers = s.hammers := rfl
@[simp] theorem State.setScene_tunes (i : Nat) (x : Scene) : (s.setScene i x).tunes = s.tunes := rfl
@[simp] theorem State.setScene_chime (i : Nat) (x : Scene) : (s.setScene i x).chime = s.chime := rfl
@[simp] theorem State.setScene_program (i : Nat) (x : Scene) : (s.setScene i x).program = s.program := rfl
@[simp] theorem State.setScene_calendar (i : Nat) (x : Scene) : (s.setScene i x).calendar = s.calendar := rfl
@[simp] theorem State.setScene_feeder (i : Nat) (x : Scene) : (s.setScene i x).feeder = s.feeder := rfl
@[simp] theorem State.setScene_link (i : Nat) (x : Scene) : (s.setScene i x).link = s.link := rfl
@[simp] theorem State.setScene_memory (i : Nat) (x : Scene) : (s.setScene i x).memory = s.memory := rfl
@[simp] theorem State.setScene_pending (i : Nat) (x : Scene) : (s.setScene i x).pending = s.pending := rfl

/-! ### State.askWrite -/

@[simp] theorem State.askWrite_clock (e : WriteEffect) : (s.askWrite e).clock = s.clock := rfl
@[simp] theorem State.askWrite_time (e : WriteEffect) : (s.askWrite e).time = s.time := rfl
@[simp] theorem State.askWrite_dials (e : WriteEffect) : (s.askWrite e).dials = s.dials := rfl
@[simp] theorem State.askWrite_lines (e : WriteEffect) : (s.askWrite e).lines = s.lines := rfl
@[simp] theorem State.askWrite_bells (e : WriteEffect) : (s.askWrite e).bells = s.bells := rfl
@[simp] theorem State.askWrite_hammers (e : WriteEffect) : (s.askWrite e).hammers = s.hammers := rfl
@[simp] theorem State.askWrite_tunes (e : WriteEffect) : (s.askWrite e).tunes = s.tunes := rfl
@[simp] theorem State.askWrite_chime (e : WriteEffect) : (s.askWrite e).chime = s.chime := rfl
@[simp] theorem State.askWrite_program (e : WriteEffect) : (s.askWrite e).program = s.program := rfl
@[simp] theorem State.askWrite_calendar (e : WriteEffect) : (s.askWrite e).calendar = s.calendar := rfl
@[simp] theorem State.askWrite_mixer (e : WriteEffect) : (s.askWrite e).mixer = s.mixer := rfl
@[simp] theorem State.askWrite_feeder (e : WriteEffect) : (s.askWrite e).feeder = s.feeder := rfl
@[simp] theorem State.askWrite_link (e : WriteEffect) : (s.askWrite e).link = s.link := rfl
@[simp] theorem State.askWrite_pending (e : WriteEffect) : (s.askWrite e).pending = s.pending := rfl

/-! ### State.store -/

@[simp] theorem State.store_clock (r : RecordName) : (s.store r).clock = s.clock := rfl
@[simp] theorem State.store_time (r : RecordName) : (s.store r).time = s.time := rfl
@[simp] theorem State.store_dials (r : RecordName) : (s.store r).dials = s.dials := rfl
@[simp] theorem State.store_lines (r : RecordName) : (s.store r).lines = s.lines := rfl
@[simp] theorem State.store_bells (r : RecordName) : (s.store r).bells = s.bells := rfl
@[simp] theorem State.store_hammers (r : RecordName) : (s.store r).hammers = s.hammers := rfl
@[simp] theorem State.store_tunes (r : RecordName) : (s.store r).tunes = s.tunes := rfl
@[simp] theorem State.store_chime (r : RecordName) : (s.store r).chime = s.chime := rfl
@[simp] theorem State.store_program (r : RecordName) : (s.store r).program = s.program := rfl
@[simp] theorem State.store_calendar (r : RecordName) : (s.store r).calendar = s.calendar := rfl
@[simp] theorem State.store_mixer (r : RecordName) : (s.store r).mixer = s.mixer := rfl
@[simp] theorem State.store_feeder (r : RecordName) : (s.store r).feeder = s.feeder := rfl
@[simp] theorem State.store_link (r : RecordName) : (s.store r).link = s.link := rfl
@[simp] theorem State.store_pending (r : RecordName) : (s.store r).pending = s.pending := rfl

/-! ### State.raise -/

@[simp] theorem State.raise_clock (c : Condition) : (s.raise c).clock = s.clock := rfl
@[simp] theorem State.raise_time (c : Condition) : (s.raise c).time = s.time := rfl
@[simp] theorem State.raise_dials (c : Condition) : (s.raise c).dials = s.dials := rfl
@[simp] theorem State.raise_lines (c : Condition) : (s.raise c).lines = s.lines := rfl
@[simp] theorem State.raise_bells (c : Condition) : (s.raise c).bells = s.bells := rfl
@[simp] theorem State.raise_hammers (c : Condition) : (s.raise c).hammers = s.hammers := rfl
@[simp] theorem State.raise_tunes (c : Condition) : (s.raise c).tunes = s.tunes := rfl
@[simp] theorem State.raise_chime (c : Condition) : (s.raise c).chime = s.chime := rfl
@[simp] theorem State.raise_program (c : Condition) : (s.raise c).program = s.program := rfl
@[simp] theorem State.raise_calendar (c : Condition) : (s.raise c).calendar = s.calendar := rfl
@[simp] theorem State.raise_mixer (c : Condition) : (s.raise c).mixer = s.mixer := rfl
@[simp] theorem State.raise_feeder (c : Condition) : (s.raise c).feeder = s.feeder := rfl
@[simp] theorem State.raise_memory (c : Condition) : (s.raise c).memory = s.memory := rfl
@[simp] theorem State.raise_pending (c : Condition) : (s.raise c).pending = s.pending := rfl

/-! ### State.elapse -/

@[simp] theorem State.elapse_dials (dt : Nat) : (s.elapse dt).dials = s.dials := rfl
@[simp] theorem State.elapse_lines (dt : Nat) : (s.elapse dt).lines = s.lines := rfl
@[simp] theorem State.elapse_bells (dt : Nat) : (s.elapse dt).bells = s.bells := rfl
@[simp] theorem State.elapse_hammers (dt : Nat) : (s.elapse dt).hammers = s.hammers := rfl
@[simp] theorem State.elapse_tunes (dt : Nat) : (s.elapse dt).tunes = s.tunes := rfl
@[simp] theorem State.elapse_chime (dt : Nat) : (s.elapse dt).chime = s.chime := rfl
@[simp] theorem State.elapse_program (dt : Nat) : (s.elapse dt).program = s.program := rfl
@[simp] theorem State.elapse_calendar (dt : Nat) : (s.elapse dt).calendar = s.calendar := rfl
@[simp] theorem State.elapse_mixer (dt : Nat) : (s.elapse dt).mixer = s.mixer := rfl
@[simp] theorem State.elapse_feeder (dt : Nat) : (s.elapse dt).feeder = s.feeder := rfl
@[simp] theorem State.elapse_link (dt : Nat) : (s.elapse dt).link = s.link := rfl
@[simp] theorem State.elapse_memory (dt : Nat) : (s.elapse dt).memory = s.memory := rfl
@[simp] theorem State.elapse_pending (dt : Nat) : (s.elapse dt).pending = s.pending := rfl

/-! ### State.answer -/

@[simp] theorem State.answer_clock (r : Response) : (s.answer r).clock = s.clock := rfl
@[simp] theorem State.answer_time (r : Response) : (s.answer r).time = s.time := rfl
@[simp] theorem State.answer_dials (r : Response) : (s.answer r).dials = s.dials := rfl
@[simp] theorem State.answer_lines (r : Response) : (s.answer r).lines = s.lines := rfl
@[simp] theorem State.answer_bells (r : Response) : (s.answer r).bells = s.bells := rfl
@[simp] theorem State.answer_hammers (r : Response) : (s.answer r).hammers = s.hammers := rfl
@[simp] theorem State.answer_tunes (r : Response) : (s.answer r).tunes = s.tunes := rfl
@[simp] theorem State.answer_chime (r : Response) : (s.answer r).chime = s.chime := rfl
@[simp] theorem State.answer_program (r : Response) : (s.answer r).program = s.program := rfl
@[simp] theorem State.answer_calendar (r : Response) : (s.answer r).calendar = s.calendar := rfl
@[simp] theorem State.answer_mixer (r : Response) : (s.answer r).mixer = s.mixer := rfl
@[simp] theorem State.answer_feeder (r : Response) : (s.answer r).feeder = s.feeder := rfl
@[simp] theorem State.answer_memory (r : Response) : (s.answer r).memory = s.memory := rfl
@[simp] theorem State.answer_pending (r : Response) : (s.answer r).pending = s.pending := rfl

/-! ### State.writeThenAnswer -/

@[simp] theorem State.writeThenAnswer_clock (e : WriteEffect) (r : Response) : (s.writeThenAnswer e r).clock = s.clock := rfl
@[simp] theorem State.writeThenAnswer_time (e : WriteEffect) (r : Response) : (s.writeThenAnswer e r).time = s.time := rfl
@[simp] theorem State.writeThenAnswer_dials (e : WriteEffect) (r : Response) : (s.writeThenAnswer e r).dials = s.dials := rfl
@[simp] theorem State.writeThenAnswer_lines (e : WriteEffect) (r : Response) : (s.writeThenAnswer e r).lines = s.lines := rfl
@[simp] theorem State.writeThenAnswer_bells (e : WriteEffect) (r : Response) : (s.writeThenAnswer e r).bells = s.bells := rfl
@[simp] theorem State.writeThenAnswer_hammers (e : WriteEffect) (r : Response) : (s.writeThenAnswer e r).hammers = s.hammers := rfl
@[simp] theorem State.writeThenAnswer_tunes (e : WriteEffect) (r : Response) : (s.writeThenAnswer e r).tunes = s.tunes := rfl
@[simp] theorem State.writeThenAnswer_chime (e : WriteEffect) (r : Response) : (s.writeThenAnswer e r).chime = s.chime := rfl
@[simp] theorem State.writeThenAnswer_program (e : WriteEffect) (r : Response) : (s.writeThenAnswer e r).program = s.program := rfl
@[simp] theorem State.writeThenAnswer_calendar (e : WriteEffect) (r : Response) : (s.writeThenAnswer e r).calendar = s.calendar := rfl
@[simp] theorem State.writeThenAnswer_mixer (e : WriteEffect) (r : Response) : (s.writeThenAnswer e r).mixer = s.mixer := rfl
@[simp] theorem State.writeThenAnswer_feeder (e : WriteEffect) (r : Response) : (s.writeThenAnswer e r).feeder = s.feeder := rfl
@[simp] theorem State.writeThenAnswer_link (e : WriteEffect) (r : Response) : (s.writeThenAnswer e r).link = s.link := rfl
@[simp] theorem State.writeThenAnswer_pending (e : WriteEffect) (r : Response) : (s.writeThenAnswer e r).pending = s.pending := rfl

/-! ### State.working -/

@[simp] theorem State.working_clock (r : Request) : (s.working r).clock = s.clock := rfl
@[simp] theorem State.working_time (r : Request) : (s.working r).time = s.time := rfl
@[simp] theorem State.working_dials (r : Request) : (s.working r).dials = s.dials := rfl
@[simp] theorem State.working_lines (r : Request) : (s.working r).lines = s.lines := rfl
@[simp] theorem State.working_bells (r : Request) : (s.working r).bells = s.bells := rfl
@[simp] theorem State.working_hammers (r : Request) : (s.working r).hammers = s.hammers := rfl
@[simp] theorem State.working_tunes (r : Request) : (s.working r).tunes = s.tunes := rfl
@[simp] theorem State.working_chime (r : Request) : (s.working r).chime = s.chime := rfl
@[simp] theorem State.working_program (r : Request) : (s.working r).program = s.program := rfl
@[simp] theorem State.working_calendar (r : Request) : (s.working r).calendar = s.calendar := rfl
@[simp] theorem State.working_mixer (r : Request) : (s.working r).mixer = s.mixer := rfl
@[simp] theorem State.working_feeder (r : Request) : (s.working r).feeder = s.feeder := rfl
@[simp] theorem State.working_memory (r : Request) : (s.working r).memory = s.memory := rfl
@[simp] theorem State.working_pending (r : Request) : (s.working r).pending = s.pending := rfl

/-! ### State.writing -/

@[simp] theorem State.writing_clock (w : List Write) : (s.writing w).clock = s.clock := rfl
@[simp] theorem State.writing_time (w : List Write) : (s.writing w).time = s.time := rfl
@[simp] theorem State.writing_dials (w : List Write) : (s.writing w).dials = s.dials := rfl
@[simp] theorem State.writing_lines (w : List Write) : (s.writing w).lines = s.lines := rfl
@[simp] theorem State.writing_bells (w : List Write) : (s.writing w).bells = s.bells := rfl
@[simp] theorem State.writing_hammers (w : List Write) : (s.writing w).hammers = s.hammers := rfl
@[simp] theorem State.writing_tunes (w : List Write) : (s.writing w).tunes = s.tunes := rfl
@[simp] theorem State.writing_chime (w : List Write) : (s.writing w).chime = s.chime := rfl
@[simp] theorem State.writing_program (w : List Write) : (s.writing w).program = s.program := rfl
@[simp] theorem State.writing_calendar (w : List Write) : (s.writing w).calendar = s.calendar := rfl
@[simp] theorem State.writing_mixer (w : List Write) : (s.writing w).mixer = s.mixer := rfl
@[simp] theorem State.writing_feeder (w : List Write) : (s.writing w).feeder = s.feeder := rfl
@[simp] theorem State.writing_link (w : List Write) : (s.writing w).link = s.link := rfl
@[simp] theorem State.writing_pending (w : List Write) : (s.writing w).pending = s.pending := rfl

/-! ### What is written -/

@[simp] theorem State.elapse_clock (dt : Nat) : (s.elapse dt).clock = s.clock + dt := rfl
@[simp] theorem State.elapse_prescaler (dt : Nat) :
    (s.elapse dt).time.prescaler = min s.time.secondLength (s.time.prescaler + dt) := rfl
@[simp] theorem State.elapse_secondLength (dt : Nat) : (s.elapse dt).time.secondLength = s.time.secondLength := rfl
@[simp] theorem State.elapse_trimInUse (dt : Nat) : (s.elapse dt).time.trimInUse = s.time.trimInUse := rfl
@[simp] theorem State.elapse_trimCycle (dt : Nat) : (s.elapse dt).time.trimCycle = s.time.trimCycle := rfl
@[simp] theorem State.elapse_standard (dt : Nat) : (s.elapse dt).time.standard = s.time.standard := rfl
@[simp] theorem State.elapse_summer (dt : Nat) : (s.elapse dt).time.summer = s.time.summer := rfl
@[simp] theorem State.elapse_valid (dt : Nat) : (s.elapse dt).time.valid = s.time.valid := rfl
@[simp] theorem State.elapse_lastAlignment (dt : Nat) : (s.elapse dt).time.lastAlignment = s.time.lastAlignment := rfl
@[simp] theorem State.elapse_power (dt : Nat) : (s.elapse dt).time.power = s.time.power := rfl
@[simp] theorem State.elapse_settings (dt : Nat) : (s.elapse dt).time.settings = s.time.settings := rfl
@[simp] theorem State.elapse_setTimeWait (dt : Nat) : (s.elapse dt).time.setTimeWait = s.time.setTimeWait := rfl
@[simp] theorem State.elapse_msense (dt : Nat) : (s.elapse dt).time.msense = s.time.msense := rfl
@[simp] theorem State.elapse_qualification (dt : Nat) : (s.elapse dt).time.qualification = s.time.qualification := rfl
@[simp] theorem State.elapse_coldStartPending (dt : Nat) : (s.elapse dt).time.coldStartPending = s.time.coldStartPending := rfl
@[simp] theorem State.elapse_reserveEntry (dt : Nat) : (s.elapse dt).time.reserveEntry = s.time.reserveEntry := rfl
@[simp] theorem State.elapse_lastSecond (dt : Nat) : (s.elapse dt).time.lastSecond = s.time.lastSecond := rfl
@[simp] theorem State.elapse_localNow (dt : Nat) : (s.elapse dt).localNow = s.localNow := rfl

@[simp] theorem State.answer_waiting (r : Response) : (s.answer r).link.waiting = some r := rfl
@[simp] theorem State.answer_inProgress (r : Response) : (s.answer r).link.inProgress = none := rfl
@[simp] theorem State.answer_sel (r : Response) : (s.answer r).link.sel = s.link.sel := rfl
@[simp] theorem State.answer_frame (r : Response) : (s.answer r).link.frame = s.link.frame := rfl
@[simp] theorem State.answer_flags (r : Response) : (s.answer r).link.flags = s.link.flags := rfl
@[simp] theorem State.answer_fresh (r : Response) : (s.answer r).link.fresh = s.link.fresh := rfl
@[simp] theorem State.answer_enables (r : Response) : (s.answer r).link.enables = s.link.enables := rfl
@[simp] theorem State.answer_lastReport (r : Response) : (s.answer r).link.lastReport = s.link.lastReport := rfl

@[simp] theorem State.raise_flags (c : Condition) : (s.raise c).link.flags = s.link.flags ||| c.only := rfl
@[simp] theorem State.raise_fresh (c : Condition) : (s.raise c).link.fresh = s.link.fresh ||| c.only := rfl
@[simp] theorem State.raise_inProgress (c : Condition) : (s.raise c).link.inProgress = s.link.inProgress := rfl
@[simp] theorem State.raise_waiting (c : Condition) : (s.raise c).link.waiting = s.link.waiting := rfl
@[simp] theorem State.raise_sel (c : Condition) : (s.raise c).link.sel = s.link.sel := rfl
@[simp] theorem State.raise_frame (c : Condition) : (s.raise c).link.frame = s.link.frame := rfl
@[simp] theorem State.raise_enables (c : Condition) : (s.raise c).link.enables = s.link.enables := rfl
@[simp] theorem State.raise_lastReport (c : Condition) : (s.raise c).link.lastReport = s.link.lastReport := rfl

@[simp] theorem State.store_writes (r : RecordName) :
    (s.store r).memory.writes = s.memory.writes ++ [{ effect := .stored r, response := none }] := rfl
@[simp] theorem State.askWrite_writes (e : WriteEffect) :
    (s.askWrite e).memory.writes = s.memory.writes ++ [{ effect := e, response := none }] := rfl
@[simp] theorem State.writeThenAnswer_writes (e : WriteEffect) (r : Response) :
    (s.writeThenAnswer e r).memory.writes = s.memory.writes ++ [{ effect := e, response := some r }] := rfl

/-! ### Reading one record after writing one -/

theorem getD_setIfInBounds {α : Type} {n : Nat} (v : Vector α n) (i j : Nat) (x d : α) :
    (v.setIfInBounds i x).getD j d = if i = j ∧ i < n then x else v.getD j d := by
  simp only [Vector.getD]
  by_cases hij : i = j
  · subst hij
    by_cases hi : i < n
    · simp [hi]
    · simp [hi]
  · simp [hij]

theorem State.dial_setDial (i j : Nat) (x : Dial) :
    (s.setDial i x).dial j = if i = j ∧ i < Config.dials then x else s.dial j := getD_setIfInBounds ..

theorem State.dial_setDial_same (i : Nat) (x : Dial) (h : i < Config.dials) : (s.setDial i x).dial i = x := by
  simp [State.dial_setDial, h]

theorem State.dial_setDial_other (i j : Nat) (x : Dial) (h : i ≠ j) : (s.setDial i x).dial j = s.dial j := by
  simp [State.dial_setDial, h]

theorem State.line_setLine (i j : Nat) (x : Line) :
    (s.setLine i x).line j = if i = j ∧ i < Config.lines then x else s.line j := getD_setIfInBounds ..

theorem State.line_setLine_same (i : Nat) (x : Line) (h : i < Config.lines) : (s.setLine i x).line i = x := by
  simp [State.line_setLine, h]

theorem State.line_setLine_other (i j : Nat) (x : Line) (h : i ≠ j) : (s.setLine i x).line j = s.line j := by
  simp [State.line_setLine, h]

theorem State.bell_setBell (i j : Nat) (x : Bell) :
    (s.setBell i x).bell j = if i = j ∧ i < Config.bells then x else s.bell j := getD_setIfInBounds ..

theorem State.bell_setBell_same (i : Nat) (x : Bell) (h : i < Config.bells) : (s.setBell i x).bell i = x := by
  simp [State.bell_setBell, h]

theorem State.bell_setBell_other (i j : Nat) (x : Bell) (h : i ≠ j) : (s.setBell i x).bell j = s.bell j := by
  simp [State.bell_setBell, h]

theorem State.stroke_setStroke (i j : Nat) (x : StrokeState) :
    (s.setStroke i x).stroke j = if i = j ∧ i < Config.bells then x else s.stroke j := getD_setIfInBounds ..

theorem State.stroke_setStroke_same (i : Nat) (x : StrokeState) (h : i < Config.bells) : (s.setStroke i x).stroke i = x := by
  simp [State.stroke_setStroke, h]

theorem State.stroke_setStroke_other (i j : Nat) (x : StrokeState) (h : i ≠ j) : (s.setStroke i x).stroke j = s.stroke j := by
  simp [State.stroke_setStroke, h]

theorem State.tuneSlot_setTuneSlot (i j : Nat) (x : Slot Tune) :
    (s.setTuneSlot i x).tuneSlot j = if i = j ∧ i < Config.tunes then x else s.tuneSlot j := getD_setIfInBounds ..

theorem State.tuneSlot_setTuneSlot_same (i : Nat) (x : Slot Tune) (h : i < Config.tunes) : (s.setTuneSlot i x).tuneSlot i = x := by
  simp [State.tuneSlot_setTuneSlot, h]

theorem State.tuneSlot_setTuneSlot_other (i j : Nat) (x : Slot Tune) (h : i ≠ j) : (s.setTuneSlot i x).tuneSlot j = s.tuneSlot j := by
  simp [State.tuneSlot_setTuneSlot, h]

theorem State.toll_setToll (i j : Nat) (x : Option TollRun) :
    (s.setToll i x).toll j = if i = j ∧ i < Config.tolls then x else s.toll j := getD_setIfInBounds ..

theorem State.toll_setToll_same (i : Nat) (x : Option TollRun) (h : i < Config.tolls) : (s.setToll i x).toll i = x := by
  simp [State.toll_setToll, h]

theorem State.toll_setToll_other (i j : Nat) (x : Option TollRun) (h : i ≠ j) : (s.setToll i x).toll j = s.toll j := by
  simp [State.toll_setToll, h]

theorem State.lastToll_setLastToll (i j : Nat) (x : TollRun) :
    (s.setLastToll i x).lastToll j = if i = j ∧ i < Config.tolls then x else s.lastToll j := getD_setIfInBounds ..

@[simp] theorem State.toll_setLastToll (i j : Nat) (x : TollRun) : (s.setLastToll i x).toll j = s.toll j := rfl

@[simp] theorem State.lastToll_setToll (i j : Nat) (x : Option TollRun) : (s.setToll i x).lastToll j = s.lastToll j := rfl

theorem State.occasionSlot_setOccasionSlot (i j : Nat) (x : Slot Occasion) :
    (s.setOccasionSlot i x).occasionSlot j = if i = j ∧ i < Config.occasions then x else s.occasionSlot j := getD_setIfInBounds ..

theorem State.occasionSlot_setOccasionSlot_same (i : Nat) (x : Slot Occasion) (h : i < Config.occasions) : (s.setOccasionSlot i x).occasionSlot i = x := by
  simp [State.occasionSlot_setOccasionSlot, h]

theorem State.occasionSlot_setOccasionSlot_other (i j : Nat) (x : Slot Occasion) (h : i ≠ j) : (s.setOccasionSlot i x).occasionSlot j = s.occasionSlot j := by
  simp [State.occasionSlot_setOccasionSlot, h]

theorem State.context_setContext (i j : Nat) (x : Option Context) :
    (s.setContext i x).context j = if i = j ∧ i < Config.contexts then x else s.context j := getD_setIfInBounds ..

theorem State.context_setContext_same (i : Nat) (x : Option Context) (h : i < Config.contexts) : (s.setContext i x).context i = x := by
  simp [State.context_setContext, h]

theorem State.context_setContext_other (i j : Nat) (x : Option Context) (h : i ≠ j) : (s.setContext i x).context j = s.context j := by
  simp [State.context_setContext, h]

theorem State.channel_setChannel (i j : Nat) (x : Channel) :
    (s.setChannel i x).channel j = if i = j ∧ i < Config.channels then x else s.channel j := getD_setIfInBounds ..

theorem State.channel_setChannel_same (i : Nat) (x : Channel) (h : i < Config.channels) : (s.setChannel i x).channel i = x := by
  simp [State.channel_setChannel, h]

theorem State.channel_setChannel_other (i j : Nat) (x : Channel) (h : i ≠ j) : (s.setChannel i x).channel j = s.channel j := by
  simp [State.channel_setChannel, h]

theorem State.sceneSlot_setSceneSlot (i j : Nat) (x : Slot Scene) :
    (s.setSceneSlot i x).sceneSlot j = if i = j ∧ i < Config.scenes then x else s.sceneSlot j := getD_setIfInBounds ..

theorem State.sceneSlot_setSceneSlot_same (i : Nat) (x : Slot Scene) (h : i < Config.scenes) : (s.setSceneSlot i x).sceneSlot i = x := by
  simp [State.sceneSlot_setSceneSlot, h]

theorem State.sceneSlot_setSceneSlot_other (i j : Nat) (x : Slot Scene) (h : i ≠ j) : (s.setSceneSlot i x).sceneSlot j = s.sceneSlot j := by
  simp [State.sceneSlot_setSceneSlot, h]

end Sys2Proof.Machine
end

