-- ==== Sys2Proof/Laws/Quiet.lean ====
section
/-! SUPPORT. What every operation inside a block leaves alone, said once as a relation between the state before and after, and
shown for each operation in the other files of Laws. -/

namespace Sys2Proof.Machine

/-- A write that brings neither new time settings (R9) nor a new capacity (R170). -/
structure WriteEffect.Plain (e : WriteEffect) : Prop where
  noSettings : ∀ x, e ≠ .timeSettings x
  noCapacity : ∀ c, e ≠ .feeder c

theorem WriteEffect.plain_stored (x : RecordName) : (WriteEffect.stored x).Plain := ⟨nofun, nofun⟩

theorem WriteEffect.plain_hammerFault (b : Nat) (f : HammerFault) : (WriteEffect.hammerFault b f).Plain := ⟨nofun, nofun⟩

theorem WriteEffect.plain_motorFault (b : Nat) : (WriteEffect.motorFault b).Plain := ⟨nofun, nofun⟩

theorem WriteEffect.plain_sensorFault : WriteEffect.sensorFault.Plain := ⟨nofun, nofun⟩

/-- `t` follows `s` quietly: elapsed time, the queue, the Time Base and the restart gate are as they were, only plain writes are added, no step of the pool is lost, and sound loads and lists stay sound. With `strict`, no strike line becomes active. -/
structure Quiet (strict : Bool) (s t : State) : Prop where
  clock : t.clock = s.clock
  pending : t.pending = s.pending
  time : t.time = s.time
  gate : t.hammers.gate = s.hammers.gate
  writes : ∃ l : List WriteEffect, t.memory.writes.map (·.effect) = s.memory.writes.map (·.effect) ++ l ∧ ∀ e ∈ l, e.Plain
  pool : t.tunes.allSteps = s.tunes.allSteps
  loads : s.LoadSound → t.LoadSound
  lists : s.ListsSound → t.ListsSound
  strokes : strict = true → ∀ b, (t.stroke b).lineIsActive = true → (s.stroke b).lineIsActive = true

namespace Quiet

variable {r : Bool} {s t u : State}

theorem refl (r : Bool) (s : State) : Quiet r s s where
  clock := rfl
  pending := rfl
  time := rfl
  gate := rfl
  writes := ⟨[], by simp, nofun⟩
  pool := rfl
  loads := id
  lists := id
  strokes _ _ := id

theorem trans (h : Quiet r s t) (k : Quiet r t u) : Quiet r s u where
  clock := k.clock.trans h.clock
  pending := k.pending.trans h.pending
  time := k.time.trans h.time
  gate := k.gate.trans h.gate
  writes := by
    obtain ⟨l, hl, pl⟩ := h.writes
    obtain ⟨m, hm, pm⟩ := k.writes
    exact ⟨l ++ m, by rw [hm, hl]; simp, fun e he => (List.mem_append.1 he).elim (pl e) (pm e)⟩
  pool := k.pool.trans h.pool
  loads := k.loads ∘ h.loads
  lists := k.lists ∘ h.lists
  strokes hr b := h.strokes hr b ∘ k.strokes hr b

/-- `trans` with the later part first, from which the state in between is read. -/
theorem after (k : Quiet r t u) (h : Quiet r s t) : Quiet r s u := h.trans k

theorem loose (h : Quiet true s t) (r : Bool) : Quiet r s t :=
  { h with strokes := fun _ => h.strokes rfl }

theorem ite {c : Prop} [Decidable c] (h : c → Quiet r s t) (k : ¬c → Quiet r s u) : Quiet r s (if c then t else u) := by
  split
  · exact h ‹_›
  · exact k ‹_›

/-- A fold of quiet acts is quiet. -/
theorem foldl {α : Type} {f : State → α → State} (l : List α) (h : ∀ s, ∀ x ∈ l, Quiet r s (f s x)) (s : State) :
    Quiet r s (l.foldl f s) := by
  induction l generalizing s with
  | nil => exact refl r s
  | cons x l ih =>
    exact (h s x (by simp)).trans (ih (fun s y hy => h s y (by simp [hy])) (f s x))

theorem eachIndex {n : Nat} {act : Nat → State → State} (h : ∀ i s, Quiet r s (act i s)) (s : State) :
    Quiet r s (eachIndex n act s) := foldl _ (fun s i _ => h i s) s

/-- The parts of the state that none of the clauses reads may change freely. -/
theorem of_same (clock : t.clock = s.clock) (pending : t.pending = s.pending) (time : t.time = s.time)
    (gate : t.hammers.gate = s.hammers.gate) (memory : t.memory.writes.map (·.effect) = s.memory.writes.map (·.effect)) (tunes : t.tunes = s.tunes)
    (feeder : t.feeder = s.feeder) (queue : t.chime.queue = s.chime.queue) (layers : t.mixer.layers = s.mixer.layers)
    (standing : t.mixer.standing = s.mixer.standing)
    (strokes : ∀ b, (t.stroke b).lineIsActive = true → (s.stroke b).lineIsActive = true)
    (taken : ∀ c, t.link.takenCapacity = some c → s.link.takenCapacity = some c := by exact fun _ h => h) : Quiet r s t where
  clock := clock
  pending := pending
  time := time
  gate := gate
  writes := ⟨[], by simpa using memory, nofun⟩
  pool := by rw [tunes]
  loads h := by
    refine ⟨by rw [feeder]; exact h.capacity, fun w hw c hc => ?_, fun c hc => by rw [feeder]; exact h.taken c (taken c hc)⟩
    have : w.effect ∈ s.memory.writes.map (·.effect) := by
      rw [← memory]; exact List.mem_map_of_mem (f := fun w : Write => w.effect) hw
    obtain ⟨v, hv, he⟩ := List.mem_map.1 this
    rw [feeder]
    exact h.amends v hv c (he.trans hc)
  lists h := by
    refine ⟨?_, ?_, ?_, ?_, ?_⟩
    · rw [queue]; exact h.queue
    · rw [layers]; exact h.layers
    · rw [layers]; exact h.layerScenes
    · rw [standing]; exact h.standing
    · rw [standing]; exact h.standingScenes
  strokes _ := strokes

end Quiet

/-! ## The named updates -/

variable {r : Bool}

theorem State.setDial_quiet (s : State) (i : Nat) (d : Dial) : Quiet r s (s.setDial i d) :=
  .of_same rfl rfl rfl rfl rfl rfl rfl rfl rfl rfl fun _ => id

theorem State.setLine_quiet (s : State) (i : Nat) (l : Line) : Quiet r s (s.setLine i l) :=
  .of_same rfl rfl rfl rfl rfl rfl rfl rfl rfl rfl fun _ => id

theorem State.setBell_quiet (s : State) (i : Nat) (b : Bell) : Quiet r s (s.setBell i b) :=
  .of_same rfl rfl rfl rfl rfl rfl rfl rfl rfl rfl fun _ => id

/-- A stroke state whose line is not active may be put in any place. -/
theorem State.setStroke_quiet (s : State) (i : Nat) (k : StrokeState)
    (h : k.lineIsActive = true → (s.stroke i).lineIsActive = true) : Quiet r s (s.setStroke i k) := by
  refine .of_same rfl rfl rfl rfl rfl rfl rfl rfl rfl rfl fun b hb => ?_
  rw [State.stroke_setStroke] at hb
  split at hb
  · rename_i hi; rw [← hi.1]; exact h hb
  · exact hb

theorem State.setStroke_loose (s : State) (i : Nat) (k : StrokeState) : Quiet false s (s.setStroke i k) where
  clock := rfl
  pending := rfl
  time := rfl
  gate := rfl
  writes := ⟨[], by simp, nofun⟩
  pool := rfl
  loads h := ⟨h.capacity, h.amends, h.taken⟩
  lists h := ⟨h.queue, h.layers, h.layerScenes, h.standing, h.standingScenes⟩
  strokes h := by cases h

theorem State.setToll_quiet (s : State) (i : Nat) (x : Option TollRun) : Quiet r s (s.setToll i x) :=
  .of_same rfl rfl rfl rfl rfl rfl rfl rfl rfl rfl fun _ => id

theorem State.setLastToll_quiet (s : State) (i : Nat) (x : TollRun) : Quiet r s (s.setLastToll i x) :=
  .of_same rfl rfl rfl rfl rfl rfl rfl rfl rfl rfl fun _ => id

theorem State.setOccasionSlot_quiet (s : State) (i : Nat) (x : Slot Occasion) : Quiet r s (s.setOccasionSlot i x) :=
  .of_same rfl rfl rfl rfl rfl rfl rfl rfl rfl rfl fun _ => id

theorem State.setContext_quiet (s : State) (i : Nat) (x : Option Context) : Quiet r s (s.setContext i x) :=
  .of_same rfl rfl rfl rfl rfl rfl rfl rfl rfl rfl fun _ => id

theorem State.setChannel_quiet (s : State) (i : Nat) (x : Channel) : Quiet r s (s.setChannel i x) :=
  .of_same rfl rfl rfl rfl rfl rfl rfl rfl rfl rfl fun _ => id

theorem State.setSceneSlot_quiet (s : State) (i : Nat) (x : Slot Scene) : Quiet r s (s.setSceneSlot i x) :=
  .of_same rfl rfl rfl rfl rfl rfl rfl rfl rfl rfl fun _ => id

theorem State.setScene_quiet (s : State) (i : Nat) (x : Scene) : Quiet r s (s.setScene i x) := s.setSceneSlot_quiet ..

theorem State.raise_quiet (s : State) (c : Condition) : Quiet r s (s.raise c) :=
  .of_same rfl rfl rfl rfl rfl rfl rfl rfl rfl rfl fun _ => id

theorem State.raiseIf_quiet (s : State) (b : Bool) (c : Condition) : Quiet r s (s.raiseIf b c) :=
  .ite (fun _ => s.raise_quiet c) fun _ => .refl r s

theorem State.answer_quiet (s : State) (x : Response) : Quiet r s (s.answer x) :=
  .of_same rfl rfl rfl rfl rfl rfl rfl rfl rfl rfl (fun _ => id) nofun

theorem State.askWrite_quiet (s : State) {e : WriteEffect} (p : e.Plain) : Quiet r s (s.askWrite e) where
  clock := rfl
  pending := rfl
  time := rfl
  gate := rfl
  writes := ⟨[e], by simp, by simpa using p⟩
  pool := rfl
  loads h := by
    refine ⟨h.capacity, fun w hw c hc => ?_, h.taken⟩
    rw [State.askWrite_writes, List.mem_append, List.mem_singleton] at hw
    rcases hw with hw | rfl
    · exact h.amends w hw c hc
    · exact absurd hc (p.noCapacity c)
  lists h := ⟨h.queue, h.layers, h.layerScenes, h.standing, h.standingScenes⟩
  strokes _ _ := id

theorem State.store_quiet (s : State) (x : RecordName) : Quiet r s (s.store x) := s.askWrite_quiet (WriteEffect.plain_stored x)

theorem attachResponse_effects (x : Response) (l : List Write) :
    (attachResponse x l).map (·.effect) = l.map (·.effect) := by
  induction l with
  | nil => rfl
  | cons w l ih =>
    cases l with
    | nil => rfl
    | cons v l => simpa [attachResponse] using ih

theorem State.answerAfterWrites_quiet (s : State) (n : Nat) (x : Response) : Quiet r s (s.answerAfterWrites n x) :=
  .ite (fun _ => .of_same rfl rfl rfl rfl (attachResponse_effects ..) rfl rfl rfl rfl rfl fun _ => id) fun _ => s.answer_quiet x

/-! ## The pool (R77) -/

theorem sum_set_of_getElem {α : Type} (f : α → Nat) (l : List α) (i : Nat) (x y : α) (h : l[i]? = some x) :
    ((l.set i y).map f).sum + f x = (l.map f).sum + f y := by
  induction l generalizing i with
  | nil => simp at h
  | cons a l ih =>
    cases i with
    | zero => simp at h; subst h; simp; omega
    | succ i => have := ih i (by simpa using h); simp only [List.set_cons_succ, List.map_cons, List.sum_cons]; omega

/-- The steps held after one slot is written. -/
theorem State.setTuneSlot_heldSteps (s : State) (i : Nat) (x : Slot Tune) (h : i < Config.tunes) :
    (s.setTuneSlot i x).tunes.heldSteps + (s.tuneSlot i).record.elim 0 (fun y => y.steps.length)
      = s.tunes.heldSteps + x.record.elim 0 (fun y => y.steps.length) := by
  have hs : s.tunes.slots.toList[i]? = some (s.tuneSlot i) := by
    simp [State.tuneSlot, Vector.getD, h]
  have := sum_set_of_getElem (fun x : Slot Tune => x.record.elim 0 fun y => y.steps.length) s.tunes.slots.toList i _ x hs
  simpa [TuneLibrary.heldSteps, State.setTuneSlot, Vector.setIfInBounds, Vector.toList] using this

theorem State.setTuneSlot_outside (s : State) (i : Nat) (x : Slot Tune) (h : ¬i < Config.tunes) : s.setTuneSlot i x = s := by
  simp only [State.setTuneSlot, Vector.setIfInBounds]
  have : s.tunes.slots.toArray.setIfInBounds i x = s.tunes.slots.toArray := by
    apply Array.setIfInBounds_eq_of_size_le; simpa using h
  simp [this]

/-- A slot whose number of steps is as it was may be written. -/
theorem State.setTuneSlot_quiet (s : State) (i : Nat) (x : Slot Tune)
    (h : x.record.elim 0 (fun y => y.steps.length) = (s.tuneSlot i).record.elim 0 (fun y => y.steps.length)) :
    Quiet r s (s.setTuneSlot i x) := by
  by_cases hi : i < Config.tunes
  · have := s.setTuneSlot_heldSteps i x hi
    exact { Quiet.refl r s with
      pool := by simp only [TuneLibrary.allSteps]; change s.tunes.freeSteps + _ = _; omega
      loads := fun h => ⟨h.capacity, h.amends, h.taken⟩
      lists := fun h => ⟨h.queue, h.layers, h.layerScenes, h.standing, h.standingScenes⟩ }
  · rw [s.setTuneSlot_outside i x hi]; exact .refl r s

theorem Slot.named_some {α : Type} {x : Slot α} {h : Handle} {a : α} (e : x.named h = some a) :
    h.gen = x.gen ∧ x.record = some a := by
  unfold Slot.named at e
  split at e
  · exact ⟨‹_›, e⟩
  · cases e

theorem State.setTune_quiet (s : State) (h : Handle) (t u : Tune) (e : s.findTune h = some t)
    (hl : u.steps.length = t.steps.length) : Quiet r s (s.setTune h.slot u) := by
  apply s.setTuneSlot_quiet
  rw [(Slot.named_some e).2]
  exact hl

end Sys2Proof.Machine
end

