-- ==== Sys2Proof/Laws/Records.lean ====
section
/-! SUPPORT. The operations of the Tune Library, the Feeder Account and the Floodlight Mixer, each shown quiet (Laws/Quiet.lean). -/

namespace Sys2Proof.Machine

variable {r : Bool}

/-! ## Tune Library -/

theorem State.freeTune_quiet (s : State) (slot : Nat) : Quiet r s (s.freeTune slot) := by
  unfold State.freeTune
  split
  · exact .refl r s
  · rename_i t ht
    refine Quiet.trans ?_ (State.store_quiet ..)
    by_cases hi : slot < Config.tunes
    · have h := s.setTuneSlot_heldSteps slot { s.tuneSlot slot with record := none } hi
      rw [ht] at h
      simp only [Option.elim] at h
      exact { Quiet.refl r s with
        pool := by
          simp only [TuneLibrary.allSteps]
          change s.tunes.freeSteps + t.steps.length + (s.setTuneSlot slot _).tunes.heldSteps = _
          omega
        loads := fun h => ⟨h.capacity, h.amends, h.taken⟩
        lists := fun h => ⟨h.queue, h.layers, h.layerScenes, h.standing, h.standingScenes⟩ }
    · exfalso
      have hn : s.tunes.slots[slot]? = none := Vector.getElem?_eq_none (Nat.le_of_not_lt hi)
      simp [State.tuneSlot, Vector.getD, hn] at ht

theorem State.takeRef_quiet (s : State) (h : Handle) : Quiet r s (s.takeRef h) := by
  unfold State.takeRef
  split
  · exact .refl r s
  · rename_i t e; exact s.setTune_quiet h t _ e rfl

theorem State.dropRef_quiet (s : State) (h : Handle) : Quiet r s (s.dropRef h) := by
  unfold State.dropRef
  split
  · exact .refl r s
  · rename_i t e
    have := s.setTune_quiet (r := r) h t { t with refs := t.refs - 1 } e rfl
    exact .ite (fun _ => this.trans (State.freeTune_quiet ..)) fun _ => this

theorem State.freeIfRetiring_quiet (s : State) (slot : Nat) : Quiet r s (s.freeIfRetiring slot) :=
  .ite (fun _ => s.freeTune_quiet slot) fun _ => .refl r s

theorem State.resetTunes_quiet (s : State) : Quiet r s s.resetTunes := by
  refine Quiet.trans ?_ (Quiet.eachIndex (fun i s => s.freeIfRetiring_quiet i) _)
  exact { Quiet.refl r s with
    pool := by
      have : (s.tunes.slots.map Slot.clearRefs).toList.map (fun x => x.record.elim 0 fun y => y.steps.length)
          = s.tunes.slots.toList.map (fun x => x.record.elim 0 fun y => y.steps.length) := by
        rw [Vector.toList_map, List.map_map]
        refine List.map_congr_left fun x _ => ?_
        cases hx : x.record <;> simp [Slot.clearRefs, hx]
      simp [TuneLibrary.allSteps, TuneLibrary.heldSteps, this]
    loads := fun h => ⟨h.capacity, h.amends, h.taken⟩
    lists := fun h => ⟨h.queue, h.layers, h.layerScenes, h.standing, h.standingScenes⟩ }

/-! ## Feeder Account -/

theorem foldl_min_le (l : List Nat) (a : Nat) : l.foldl min a ≤ a ∧ ∀ x ∈ l, l.foldl min a ≤ x := by
  induction l generalizing a with
  | nil => simp
  | cons y l ih =>
    obtain ⟨h1, h2⟩ := ih (min a y)
    refine ⟨h1.trans (Nat.min_le_left ..), fun x hx => ?_⟩
    rcases List.mem_cons.1 hx with rfl | hx
    · exact h1.trans (Nat.min_le_right ..)
    · exact h2 x hx

/-- R170: admission tests against no more than the stored capacity, every capacity that waits to be written, and that of a feeder
AMEND taken. -/
theorem State.admissionCapacity_le (s : State) :
    s.admissionCapacity ≤ s.feeder.capacity ∧
      (∀ w ∈ s.memory.writes, ∀ c, w.effect = .feeder c → s.admissionCapacity ≤ c) ∧
      ∀ c, s.link.takenCapacity = some c → s.admissionCapacity ≤ c := by
  obtain ⟨h1, h2⟩ := foldl_min_le
    (s.link.takenCapacity.toList ++ s.memory.writes.filterMap fun w => w.effect.newCapacity) s.feeder.capacity
  refine ⟨h1, fun w hw c hc => h2 c (List.mem_append_right _ ?_), fun c hc => h2 c (List.mem_append_left _ ?_)⟩
  · exact List.mem_filterMap.2 ⟨w, hw, by rw [hc]; rfl⟩
  · simp [hc]

/-- A change of the Feeder Account that keeps the load within what admission allows, or lets none be added. -/
theorem Quiet.of_feeder {s : State} {f : Feeder} (h : s.LoadSound → f.load ≤ f.capacity ∧
    (∀ w ∈ s.memory.writes, ∀ c, w.effect = .feeder c → f.load ≤ c) ∧ ∀ c, s.link.takenCapacity = some c → f.load ≤ c) :
    Quiet r s { s with feeder := f } :=
  { Quiet.refl r s with
    loads := fun k => ⟨(h k).1, (h k).2.1, (h k).2.2⟩
    lists := fun h => ⟨h.queue, h.layers, h.layerScenes, h.standing, h.standingScenes⟩ }

theorem Quiet.of_feeder_le {s : State} {f : Feeder} (hc : f.capacity = s.feeder.capacity) (hl : f.load ≤ s.feeder.load) :
    Quiet r s { s with feeder := f } :=
  .of_feeder fun k => ⟨by rw [hc]; exact hl.trans k.capacity, fun w hw c h => hl.trans (k.amends w hw c h), fun c h => hl.trans (k.taken c h)⟩

theorem State.admitAsk_quiet (s : State) (a : Ask) (h : s.feeder.load + a.rating ≤ s.admissionCapacity) :
    Quiet r s (s.admitAsk a) := by
  refine Quiet.trans (Quiet.of_feeder fun _ => ?_) (State.setBell_quiet ..)
  have hl : Feeder.load { s.feeder with
      admitted := s.feeder.admitted ++ [{ bell := a.bell, rating := a.rating, awaiting := none, permitted := false }] }
      = s.feeder.load + a.rating := by simp [Feeder.load]
  obtain ⟨h1, h2, h3⟩ := s.admissionCapacity_le
  exact ⟨hl.trans_le (h.trans h1), fun w hw c hc => hl.trans_le (h.trans (h2 w hw c hc)),
    fun c hc => hl.trans_le (h.trans (h3 c hc))⟩

theorem admitHeads_quiet (l : List Ask) (s : State) : Quiet r s (admitHeads l s) := by
  induction l generalizing s with
  | nil => exact Quiet.of_feeder_le rfl (Nat.le_refl _)
  | cons a l ih =>
    exact .ite (fun h => (s.admitAsk_quiet a h).trans (ih _)) fun _ => Quiet.of_feeder_le rfl (Nat.le_refl _)

theorem State.tryAsks_quiet (s : State) : Quiet r s s.tryAsks := admitHeads_quiet ..

theorem State.ask_quiet (s : State) (bell rating : Nat) : Quiet r s (s.ask bell rating) := by
  have h : Quiet r s { s with feeder.asks := s.feeder.asks ++ [{ bell := bell, rating := rating, since := s.nowMs }] } :=
    Quiet.of_feeder_le rfl (Nat.le_refl _)
  exact .ite (fun _ => h.trans (State.tryAsks_quiet _)) fun _ => h

theorem load_filter_le (f : Feeder) (p : AdmittedRun → Bool) : Feeder.load { f with admitted := f.admitted.filter p } ≤ f.load := by
  unfold Feeder.load
  induction f.admitted with
  | nil => simp
  | cons a l ih => by_cases h : p a <;> simp [List.filter, h] <;> simp at ih <;> omega

theorem State.endClaim_quiet (s : State) (bell : Nat) : Quiet r s (s.endClaim bell) := by
  have h : Quiet r s { s with feeder.asks := s.feeder.asks.filter fun a => a.bell != bell
                              feeder.admitted := s.feeder.admitted.filter fun x => x.bell != bell } :=
    Quiet.of_feeder_le rfl (load_filter_le ..)
  exact .ite (fun _ => h.trans (State.tryAsks_quiet _)) fun _ => h

theorem State.computeScale_quiet (s : State) (k demand : Nat) : Quiet r s (s.computeScale k demand) := by
  unfold State.computeScale
  dsimp only
  refine Quiet.after (State.raiseIf_quiet _ _ _) (Quiet.of_feeder_le rfl ?_)
  simp [Feeder.load, Function.comp_def]

theorem Feeder.afterReset_load (f : Feeder) : f.afterReset.load = 0 := rfl

/-! ## Floodlight Mixer -/

/-- A change of the mixer that keeps its lists sound. -/
theorem Quiet.of_mixer {s : State} {m : Mixer} (h : s.ListsSound → m.layers.length ≤ Config.layerCapacity ∧
    (m.layers.map (·.scene)).Nodup ∧ m.standing.length ≤ Config.standingCapacity ∧ (m.standing.map (·.scene)).Nodup) :
    Quiet r s { s with mixer := m } :=
  { Quiet.refl r s with
    loads := fun k => ⟨k.capacity, k.amends, k.taken⟩
    lists := fun k => ⟨k.queue, (h k).1, (h k).2.1, (h k).2.2.1, (h k).2.2.2⟩ }

/-- The same from an earlier state the present one follows quietly. -/
theorem Quiet.of_mixer_after {s₀ s : State} (q : Quiet r s₀ s) {m : Mixer} (h : s₀.ListsSound → s.ListsSound →
    m.layers.length ≤ Config.layerCapacity ∧ (m.layers.map (·.scene)).Nodup ∧ m.standing.length ≤ Config.standingCapacity ∧
    (m.standing.map (·.scene)).Nodup) : Quiet r s₀ { s with mixer := m } where
  clock := q.clock
  pending := q.pending
  time := q.time
  gate := q.gate
  writes := q.writes
  pool := q.pool
  loads k := ⟨(q.loads k).capacity, (q.loads k).amends, (q.loads k).taken⟩
  lists k := by
    obtain ⟨h1, h2, h3, h4⟩ := h k (q.lists k)
    exact ⟨(q.lists k).queue, h1, h2, h3, h4⟩
  strokes := q.strokes

/-- Layers put as a part of the layers there were, in any order of the rest of the mixer. -/
theorem Quiet.of_layers {s : State} {m : Mixer} (hl : (m.layers.map (·.scene)).Sublist (s.mixer.layers.map (·.scene)))
    (hs : (m.standing.map (·.scene)).Sublist (s.mixer.standing.map (·.scene))) : Quiet r s { s with mixer := m } :=
  .of_mixer fun k => by
    have h1 := hl.length_le
    have h2 := hs.length_le
    simp only [List.length_map] at h1 h2
    exact ⟨h1.trans k.layers, hl.nodup k.layerScenes, h2.trans k.standing, hs.nodup k.standingScenes⟩

theorem State.freeScene_quiet (s : State) (slot : Nat) : Quiet r s (s.freeScene slot) :=
  (State.setSceneSlot_quiet ..).trans (State.store_quiet ..)

theorem State.leaveStack_quiet (s : State) (h : Handle) : Quiet r s (s.leaveStack h) := by
  have k : Quiet r s { s with mixer.layers := s.mixer.layers.filter fun l => l.scene != h } :=
    Quiet.of_layers (List.filter_sublist.map _) (List.Sublist.refl _)
  exact .ite (fun _ => k.trans (State.freeScene_quiet ..)) fun _ => k

@[simp] theorem State.freeScene_layers (s : State) (slot : Nat) : (s.freeScene slot).mixer.layers = s.mixer.layers := rfl

@[simp] theorem State.leaveStack_layers (s : State) (h : Handle) :
    (s.leaveStack h).mixer.layers = s.mixer.layers.filter fun l => l.scene != h := by
  unfold State.leaveStack
  split <;> rfl

theorem takeWhile_dropWhile_perm {α : Type} (p : α → Bool) (l : List α) (x : α) :
    (l.takeWhile p ++ x :: l.dropWhile p).Perm (x :: l) := by
  have := List.takeWhile_append_dropWhile (p := p) (l := l)
  calc (l.takeWhile p ++ x :: l.dropWhile p).Perm (x :: (l.takeWhile p ++ l.dropWhile p)) := List.perm_middle
    _ = x :: l := by rw [this]

/-- A layer is put in when there is room and its scene has none; `s₀` is a state the present one follows quietly. -/
theorem State.insertLayer_quiet {s₀ s : State} (q : Quiet r s₀ s) (l : Layer)
    (h : s₀.ListsSound → s.mixer.layers.length < Config.layerCapacity ∧ l.scene ∉ s.mixer.layers.map (·.scene)) :
    Quiet r s₀ (s.insertLayer l) := by
  refine Quiet.of_mixer_after q fun k₀ k => ?_
  have p := takeWhile_dropWhile_perm (fun x => s.stackBefore x l) s.mixer.layers l
  have q := p.map (·.scene)
  have hl := p.length_eq
  simp only [List.length_cons] at hl
  exact ⟨by have := (h k₀).1; dsimp only; omega, by
    dsimp only; rw [q.nodup_iff, List.map_cons]; exact List.nodup_cons.2 ⟨(h k₀).2, k.layerScenes⟩,
    k.standing, k.standingScenes⟩

theorem State.addLayer_quiet {s₀ s : State} (q : Quiet r s₀ s) (h : Handle) (x : Scene)
    (k : s₀.ListsSound → s.mixer.layers.length < Config.layerCapacity ∧ h ∉ s.mixer.layers.map (·.scene)) :
    Quiet r s₀ (s.addLayer h x) := by
  have q' : Quiet r s { s with mixer.raiseSequence := s.mixer.raiseSequence + 1 } :=
    Quiet.of_layers (List.Sublist.refl _) (List.Sublist.refl _)
  exact State.insertLayer_quiet (q.trans q') _ k

theorem State.turnFade_quiet (s : State) (h : Handle) (target length : Nat) : Quiet r s (s.turnFade h target length) := by
  refine Quiet.of_layers ?_ (List.Sublist.refl _)
  rw [List.map_map]
  have : (s.mixer.layers.map ((·.scene) ∘ fun (l : Layer) =>
      if l.scene = h then { l with f0 := l.f, target := target, k0 := s.nextComputed, length := length } else l))
      = s.mixer.layers.map (·.scene) := List.map_congr_left fun l _ => by simp only [Function.comp]; split <;> rfl
  rw [this]

/-- A pick made by going through a list is one of the list, or the pick it began with. -/
theorem foldl_pick_mem {α : Type} (f : Option α → α → Option α) (hf : ∀ a x, f a x = some x ∨ f a x = a) (l : List α)
    (a : Option α) (y : α) (e : l.foldl f a = some y) : y ∈ l ∨ a = some y := by
  induction l generalizing a with
  | nil => exact .inr e
  | cons x l ih =>
    rcases ih _ e with h | h
    · exact .inl (by simp [h])
    · rcases hf a x with k | k
      · rw [k] at h; cases h; exact .inl (by simp)
      · exact .inr (k.symm.trans h)

theorem reclaimable_mem (layers : List Layer) (l : Layer) (e : reclaimable layers = some l) : l ∈ layers := by
  unfold reclaimable at e
  rcases foldl_pick_mem _ (fun a x => by cases a <;> grind) _ _ _ e with h | h
  · exact (List.mem_filter.1 h).1
  · cases h

theorem State.displaceable_mem (s : State) (p : Nat) (l : Layer) (e : s.displaceable p = some l) : l ∈ s.mixer.layers := by
  unfold State.displaceable at e
  split at e
  · cases e
  · dsimp only at e
    split at e
    · rcases foldl_pick_mem _ (fun a x => by cases a <;> grind) _ _ _ e with h | h
      · exact (List.mem_filter.1 h).1
      · cases h
    · cases e

theorem filter_scene_length_lt (layers : List Layer) (l : Layer) (h : l ∈ layers) :
    (layers.filter fun x => x.scene != l.scene).length < layers.length := by
  refine lt_of_le_of_ne (List.length_filter_le ..) fun e => ?_
  have := List.filter_eq_self.1 (List.length_filter_eq_length_iff.1 e |> fun h => List.filter_eq_self.2 h) l h
  simp at this

/-- A new layer takes the room of one that leaves the stack. -/
theorem State.replaceLayer_quiet (s : State) (h : Handle) (x : Scene) (l : Layer) (hl : l ∈ s.mixer.layers)
    (hn : h ∉ s.mixer.layers.map (·.scene)) : Quiet r s ((s.leaveStack l.scene).addLayer h x) := by
  refine State.addLayer_quiet (s.leaveStack_quiet l.scene) h x fun k => ?_
  rw [State.leaveStack_layers]
  exact ⟨(filter_scene_length_lt _ _ hl).trans_le k.layers, fun m => hn ((List.filter_sublist.map _).subset m)⟩

theorem State.raiseScene_quiet (s : State) (h : Handle) : Quiet r s (s.raiseScene h).1 := by
  unfold State.raiseScene
  split
  · exact .refl r s
  · split
    · exact .refl r s
    · split
      · split
        · exact State.turnFade_quiet ..
        · exact .refl r s
      · rename_i hf
        have hn : h ∉ s.mixer.layers.map (·.scene) := by
          intro m
          obtain ⟨l, hl, e⟩ := List.mem_map.1 m
          have := List.find?_eq_none.1 hf l hl
          simp [e] at this
        split
        · rename_i hlt
          exact State.addLayer_quiet (.refl r s) h _ fun _ => ⟨hlt, hn⟩
        · split
          · rename_i l e; exact s.replaceLayer_quiet h _ l (reclaimable_mem _ _ e) hn
          · split
            · rename_i l e; exact s.replaceLayer_quiet h _ l (s.displaceable_mem _ _ e) hn
            · exact s.raise_quiet _

theorem State.lowerScene_quiet (s : State) (h : Handle) : Quiet r s (s.lowerScene h) := by
  unfold State.lowerScene
  split
  · exact .refl r s
  · exact .ite (fun _ => .refl r s) fun _ => State.turnFade_quiet ..

theorem State.removeStanding_quiet (s : State) (h : Handle) : Quiet r s (s.removeStanding h) := by
  have k : Quiet r s { s with mixer.standing := s.mixer.standing.filter fun e => e.scene != h } :=
    Quiet.of_layers (List.Sublist.refl _) (List.filter_sublist.map _)
  exact .ite (fun _ => k.trans (State.store_quiet ..)) fun _ => .refl r s

theorem State.lowerAndRemove_quiet (s : State) (h : Handle) : Quiet r s (s.lowerAndRemove h) :=
  (s.lowerScene_quiet h).trans (State.removeStanding_quiet ..)

theorem State.makeStanding_quiet (s : State) (h : Handle) (endAt : Nat) (c : Creator) :
    Quiet r s (s.makeStanding h endAt c).1 := by
  unfold State.makeStanding
  dsimp only
  split
  · refine Quiet.after (State.store_quiet _ _) (Quiet.of_layers (List.Sublist.refl _) ?_)
    rw [List.map_map]
    rw [(List.map_congr_left fun x _ => ?_ : _ = List.map (·.scene) s.mixer.standing)]
    simp only [Function.comp]
    split
    · rename_i e; exact e.symm
    · rfl
  · rename_i hs
    split
    · rename_i hlt
      refine Quiet.after (State.store_quiet _ _) (Quiet.of_mixer fun k => ⟨k.layers, k.layerScenes, ?_, ?_⟩)
      · simpa using hlt
      · rw [List.map_append, List.nodup_append]
        refine ⟨k.standingScenes, by simp, fun a ha b hb e => ?_⟩
        simp only [List.map_cons, List.map_nil, List.mem_singleton] at hb
        obtain ⟨x, hx, rfl⟩ := List.mem_map.1 ha
        apply hs
        exact List.any_eq_true.2 ⟨x, hx, by simp [e, hb]⟩
    · exact .refl r s

theorem State.endStanding_quiet (s : State) (e : StandingEntry) : Quiet r s (s.endStanding e) :=
  (s.removeStanding_quiet _).trans (State.lowerScene_quiet ..)

theorem State.endFirstStanding_quiet (s : State) : Quiet r s s.endFirstStanding := by
  unfold State.endFirstStanding
  split
  · exact .refl r s
  · exact s.endStanding_quiet _

theorem State.endStandingEntries_quiet (s : State) : Quiet r s s.endStandingEntries :=
  .foldl _ (fun s e _ => s.endStanding_quiet e) s

theorem State.removeCreatedBy_quiet (s : State) (h : Handle) : Quiet r s (s.removeCreatedBy h) :=
  .foldl _ (fun s e _ => s.endStanding_quiet e) s

theorem State.workFactors_quiet (s : State) (k : Nat) : Quiet r s (s.workFactors k) := by
  unfold State.workFactors
  dsimp only
  refine Quiet.after (Quiet.foldl _ (fun s l _ => s.leaveStack_quiet _) _) (Quiet.of_layers (s := s) ?_ (List.Sublist.refl _))
  rw [List.map_map]
  exact List.Sublist.refl _

theorem State.computeFrame_quiet (s : State) (k : Nat) : Quiet r s (s.computeFrame k) := by
  unfold State.computeFrame
  dsimp only
  refine Quiet.after (Quiet.of_layers (List.Sublist.refl _) (List.Sublist.refl _)) ?_
  exact (State.computeScale_quiet _ _ _).after (s.workFactors_quiet k)

theorem State.deliverFrame_quiet (s : State) : Quiet r s s.deliverFrame := by
  unfold State.deliverFrame
  split
  · exact .refl r s
  · exact Quiet.of_layers (List.Sublist.refl _) (List.Sublist.refl _)

theorem State.freeSceneIfRetiring_quiet (s : State) (slot : Nat) : Quiet r s (s.freeSceneIfRetiring slot) :=
  .ite (fun _ => s.freeScene_quiet slot) fun _ => .refl r s

theorem State.darken_quiet (s : State) : Quiet r s s.darken := by
  refine Quiet.trans (Quiet.of_layers (s := s) ?_ ?_) (Quiet.eachIndex (fun i s => s.freeSceneIfRetiring_quiet i) _)
  · simp
  · exact List.Sublist.refl _

theorem State.resetMixer_quiet (s : State) : Quiet r s s.resetMixer := by
  refine Quiet.trans (Quiet.of_layers (s := s) ?_ ?_) (Quiet.eachIndex (fun i s => s.freeSceneIfRetiring_quiet i) _)
  · simp
  · exact List.Sublist.refl _

theorem State.settleStanding_quiet (s : State) : Quiet r s s.settleStanding := by
  have k : Quiet r s { s with mixer.standing := s.mixer.standing.filter fun e => s.time.standard < e.endAt } :=
    Quiet.of_layers (List.Sublist.refl _) (List.filter_sublist.map _)
  exact .ite (fun _ => k.trans (State.store_quiet ..)) fun _ => .refl r s

theorem State.clearStanding_quiet (s : State) : Quiet r s s.clearStanding := by
  have k : Quiet r s { s with mixer.standing := [] } := Quiet.of_layers (List.Sublist.refl _) (by simp)
  exact .ite (fun _ => .refl r s) fun _ => k.trans (State.store_quiet ..)

theorem State.reRaise_quiet (s : State) (e : StandingEntry) : Quiet r s (s.reRaise e) := by
  unfold State.reRaise
  split
  · have h := s.raiseScene_quiet (r := r) e.scene
    generalize s.raiseScene e.scene = x at h
    obtain ⟨t, a⟩ := x
    cases a
    · exact h
    all_goals exact h.trans (State.removeStanding_quiet ..)
  · exact .refl r s

theorem State.reRaiseStanding_quiet (s : State) (l : List StandingEntry) : Quiet r s (s.reRaiseStanding l) :=
  .foldl _ (fun s e _ => s.reRaise_quiet e) s

end Sys2Proof.Machine
end

