-- ==== Sys2Proof/Laws/Bells.lean ====
section
/-! SUPPORT. The operations of the Hammer Drive, the reports and the Bell Monitor, each shown quiet (Laws/Quiet.lean). Only a raise
can make a strike line active (R60), so only what may raise one is quiet without `strict`. -/

namespace Sys2Proof.Machine

variable {r : Bool}

/-- The parts of the Chime Sequencer apart from its queue may change freely. -/
theorem Quiet.of_chime {s : State} {c : ChimeSequencer} (h : c.queue.length ≤ s.chime.queue.length) :
    Quiet r s { s with chime := c } :=
  { Quiet.refl r s with
    loads := fun k => ⟨k.capacity, k.amends, k.taken⟩
    lists := fun k => ⟨h.trans k.queue, k.layers, k.layerScenes, k.standing, k.standingScenes⟩ }

/-- The link and the Clock Program may change freely. -/
theorem Quiet.of_program {s : State} {p : ClockProgram} : Quiet r s { s with program := p } :=
  .of_same rfl rfl rfl rfl rfl rfl rfl rfl rfl rfl fun _ => id

theorem Quiet.of_calendar {s : State} {c : Calendar} : Quiet r s { s with calendar := c } :=
  .of_same rfl rfl rfl rfl rfl rfl rfl rfl rfl rfl fun _ => id

/-! ## Hammer Drive -/

theorem State.countSkip_quiet (s : State) (q : Requester) : Quiet r s (s.countSkip q) := by
  unfold State.countSkip
  split
  · split
    · exact .refl r s
    · exact .ite (fun _ => .of_chime (Nat.le_refl _)) fun _ => .refl r s
  · split
    · exact .refl r s
    · exact .ite (fun _ => s.setToll_quiet _ _) fun _ => .refl r s

theorem StrokeState.idle_line : ¬StrokeState.idle.lineIsActive = true := by simp [StrokeState.lineIsActive]

theorem State.raiseLine_loose (s : State) (i : Nat) (k : Stroke) : Quiet false s (s.raiseLine i k) :=
  .ite (fun _ => s.setStroke_loose _ _) fun _ => (s.setStroke_loose _ _).trans (State.countSkip_quiet _ _)

theorem State.strikeRequest_loose (s : State) (bell sounding velocity : Nat) (q : Requester) :
    Quiet false s (s.strikeRequest bell sounding velocity q) := by
  unfold State.strikeRequest
  dsimp only
  exact .ite (fun _ => .ite (fun _ => (s.setStroke_loose _ _).trans (State.raiseLine_loose _ _ _))
    fun _ => s.setStroke_loose _ _) fun _ => s.countSkip_quiet _

theorem State.reachRaise_loose (s : State) (bell : Nat) : Quiet false s (s.reachRaise bell) := by
  unfold State.reachRaise
  split
  · exact .ite (fun _ => s.raiseLine_loose _ _) fun _ => .refl _ s
  · exact .refl _ s

theorem State.endStroke_quiet (s : State) (i : Nat) (k : Stroke) : Quiet r s (s.endStroke i k) :=
  s.setStroke_quiet _ _ (by simp [StrokeState.lineIsActive])

theorem State.declareHammerFault_quiet (s : State) (i : Nat) (f : HammerFault) : Quiet r s (s.declareHammerFault i f) := by
  unfold State.declareHammerFault
  dsimp only
  exact ((((State.raise_quiet _ _).after (State.askWrite_quiet _ (WriteEffect.plain_hammerFault i f))).after (State.setBell_quiet _ _ _)).after
    (s.setStroke_quiet i .fault (by simp [StrokeState.lineIsActive])))

theorem State.endPulse_quiet (s : State) (i : Nat) : Quiet r s (s.endPulse i) := by
  unfold State.endPulse
  split
  · refine .ite (fun _ => .ite (fun _ => s.endStroke_quiet _ _) fun _ => s.setStroke_quiet _ _ ?_) fun _ => .refl r s
    simp [StrokeState.lineIsActive]
  · exact .ite (fun _ => s.setStroke_quiet _ _ (by simp [StrokeState.lineIsActive])) fun _ => .refl r s
  · exact .refl r s

theorem State.missAnswer_quiet (s : State) (i : Nat) : Quiet r s (s.missAnswer i) := by
  unfold State.missAnswer
  split
  · exact .ite (fun _ => s.declareHammerFault_quiet _ _) fun _ => .refl r s
  · exact .refl r s

theorem State.stickHammer_quiet (s : State) (i : Nat) : Quiet r s (s.stickHammer i) := by
  unfold State.stickHammer
  split
  · exact .ite (fun _ => s.declareHammerFault_quiet _ _) fun _ => .refl r s
  · exact .refl r s

theorem State.endRecovery_quiet (s : State) (i : Nat) : Quiet r s (s.endRecovery i) := by
  unfold State.endRecovery
  split
  · exact .ite (fun _ => s.setStroke_quiet _ _ (by simp [StrokeState.lineIsActive])) fun _ => .refl r s
  · exact .refl r s

theorem State.busyRises_quiet (s : State) (i : Nat) : Quiet r s (s.busyRises i) := by
  unfold State.busyRises
  split
  · rename_i k e
    refine .ite (fun _ => .ite (fun _ => s.setStroke_quiet _ _ ?_) fun _ => .refl r s)
      fun _ => .ite (fun _ => s.declareHammerFault_quiet _ _) fun _ => .refl r s
    rw [e]; exact id
  · exact .ite (fun _ => s.declareHammerFault_quiet _ _) fun _ => .refl r s
  · exact .ite (fun _ => s.declareHammerFault_quiet _ _) fun _ => .refl r s
  all_goals exact .refl r s

theorem State.busyFalls_quiet (s : State) (i : Nat) : Quiet r s (s.busyFalls i) := by
  unfold State.busyFalls
  split
  · exact .ite (fun _ => s.endStroke_quiet _ _) fun _ => .refl r s
  · exact .refl r s

theorem State.withdrawStroke_quiet (s : State) (i : Nat) : Quiet r s (s.withdrawStroke i) := by
  unfold State.withdrawStroke
  split
  · refine .ite (fun _ => .refl r s) fun _ => (s.setStroke_quiet _ _ ?_).trans (State.countSkip_quiet _ _)
    simp [StrokeState.lineIsActive]
  · exact .refl r s

theorem restState_line (c : BellConfig) : (restState c).lineIsActive = false := by
  unfold restState
  split
  · rfl
  · split <;> rfl

/-- No strike line is active once every machine takes its state outside a stroke (R58, R68). -/
theorem State.restStrokes_line (s : State) (b : Nat) : (s.restStrokes.stroke b).lineIsActive = false := by
  unfold State.restStrokes State.stroke
  by_cases h : b < Config.bells
  · simp [Vector.getD, h, restState_line]
  · simp [Vector.getD, h, StrokeState.lineIsActive]

theorem Quiet.of_strokes {s : State} {v : Vector StrokeState Config.bells}
    (h : ∀ b, (({ s with hammers.strokes := v } : State).stroke b).lineIsActive = true → (s.stroke b).lineIsActive = true) :
    Quiet r s { s with hammers.strokes := v } :=
  .of_same rfl rfl rfl rfl rfl rfl rfl rfl rfl rfl h

theorem State.restStrokes_quiet (s : State) : Quiet r s s.restStrokes := by
  apply Quiet.of_strokes
  intro b h
  exact absurd ((s.restStrokes_line b).symm.trans h) Bool.false_ne_true

/-! ## Reports -/

theorem State.putOccasion_quiet (s : State) (slot : Nat) (o : Occasion) : Quiet r s (s.putOccasion slot o) :=
  .ite (fun _ => .refl r s) fun _ => (s.setOccasionSlot_quiet _ _).trans (State.store_quiet _ _)

theorem State.setPhase_quiet (s : State) (context place : Nat) (x : ActionPhase) : Quiet r s (s.setPhase context place x) := by
  unfold State.setPhase
  split
  · exact .refl r s
  · split
    · exact .refl r s
    · exact s.setContext_quiet _ _

theorem State.setOutcome_quiet (s : State) (context place : Nat) (x : Outcome) : Quiet r s (s.setOutcome context place x) := by
  unfold State.setOutcome
  split
  · exact .refl r s
  · split
    · exact .refl r s
    · exact (s.putOccasion_quiet _ _).trans (State.raiseIf_quiet _ _ _)

theorem State.finishAction_quiet (s : State) (context place : Nat) (x : Outcome) :
    Quiet r s (s.finishAction context place x) := (s.setOutcome_quiet _ _ _).trans (State.setPhase_quiet _ _ _ _)

theorem State.reportToAction_quiet (s : State) (context place number : Nat) (x : EntryReport) (skipped : Nat) (depth : Bool) :
    Quiet r s (s.reportToAction context place number x skipped depth) := by
  unfold State.reportToAction
  split
  · exact (s.setPhase_quiet _ _ _).trans (State.setOutcome_quiet _ _ _ _)
  · exact s.setOutcome_quiet _ _ _
  all_goals exact s.finishAction_quiet _ _ _

theorem State.reportToClock_quiet (s : State) (source : ClockSource) (mark : Nat) (x : EntryReport) (started : Bool)
    (skipped : Nat) : Quiet r s (s.reportToClock source mark x started skipped) := by
  unfold State.reportToClock
  dsimp only
  exact (State.raiseIf_quiet _ _ _).after .of_program

theorem State.reportEntry_quiet (s : State) (e : Entry) (x : EntryReport) (skipped : Nat) (depth : Bool) :
    Quiet r s (s.reportEntry e x skipped depth) := by
  unfold State.reportEntry
  split
  · exact s.reportToClock_quiet _ _ _ _ _
  · exact s.reportToClock_quiet _ _ _ _ _
  · exact s.reportToAction_quiet _ _ _ _ _ _
  · exact .ite (fun _ => .of_chime (Nat.le_refl _)) fun _ => .refl r s

theorem State.reportToll_quiet (s : State) (channel : Nat) (t : TollRun) (x : EntryReport) :
    Quiet r s (s.reportToll channel t x) := by
  unfold State.reportToll
  split
  · exact s.reportToAction_quiet _ _ _ _ _ _
  · exact .ite (fun _ => .of_chime (Nat.le_refl _)) fun _ => .refl r s

theorem State.reportMotorStarted_quiet (s : State) (x : MotorSource) : Quiet r s (s.reportMotorStarted x) := by
  unfold State.reportMotorStarted
  split
  · exact s.setOutcome_quiet _ _ _
  · exact .refl r s

theorem State.reportMotor_quiet (s : State) (bell : Nat) (m : MotorReport) (x : MotorSource) :
    Quiet r s (s.reportMotor bell m x) := by
  unfold State.reportMotor
  split
  · exact s.finishAction_quiet _ _ _
  · exact s.setBell_quiet _ _

/-! ## Bell Monitor -/

theorem State.endRun_quiet (s : State) (bell : Nat) (m : MotorReport) : Quiet r s (s.endRun bell m) := by
  unfold State.endRun
  dsimp only
  split
  · exact .refl r s
  · exact (Quiet.foldl _ (fun s x _ => s.reportMotor_quiet _ _ x) _).after
      ((State.endClaim_quiet _ _).after (s.setBell_quiet _ _))

theorem State.acceptSwing_quiet (s : State) (bell minutes : Nat) (x : MotorSource) :
    Quiet r s (s.acceptSwing bell minutes x) := by
  unfold State.acceptSwing
  dsimp only
  split
  · exact (s.setBell_quiet _ _).trans (State.ask_quiet _ _ _)
  · exact s.setBell_quiet _ _
  · exact .ite (fun _ => s.setBell_quiet _ _) fun _ => (s.setBell_quiet _ _).trans (State.reportMotorStarted_quiet _ _)

theorem State.energise_quiet (s : State) (bell : Nat) : Quiet r s (s.energise bell) := by
  unfold State.energise
  dsimp only
  split
  · exact (Quiet.foldl _ (fun s x _ => s.reportMotorStarted_quiet x) _).after (s.setBell_quiet _ _)
  all_goals exact .refl r s

theorem State.givePermissions_quiet (s : State) (k : Nat) : Quiet r s (s.givePermissions k) := by
  unfold State.givePermissions
  dsimp only
  refine (Quiet.foldl _ (fun s x _ => s.energise_quiet x) _).after (Quiet.of_feeder_le rfl ?_)
  apply Nat.le_of_eq
  simp only [Feeder.load, List.map_map]
  congr 1
  refine List.map_congr_left fun x _ => ?_
  simp only [Function.comp]
  split <;> rfl

theorem State.timeOutPending_quiet (s : State) (bell : Nat) : Quiet r s (s.timeOutPending bell) := by
  unfold State.timeOutPending
  split
  · exact .ite (fun _ => s.endRun_quiet _ _) fun _ => .refl r s
  · exact .refl r s

theorem State.reachRunEnd_quiet (s : State) (bell : Nat) : Quiet r s (s.reachRunEnd bell) := by
  unfold State.reachRunEnd
  split
  · exact .ite (fun _ => s.endRun_quiet _ _) fun _ => .refl r s
  · exact .refl r s

theorem State.stall_quiet (s : State) (bell : Nat) : Quiet r s (s.stall bell) := by
  unfold State.stall
  dsimp only
  exact (((State.raise_quiet _ _).after (State.askWrite_quiet _ (WriteEffect.plain_motorFault bell))).after (State.setBell_quiet _ _ _)).after
    (s.endRun_quiet _ _)

theorem State.watchStall_quiet (s : State) (bell : Nat) : Quiet r s (s.watchStall bell) := by
  unfold State.watchStall
  split
  · exact .ite (fun _ => s.stall_quiet _) fun _ => .refl r s
  · exact .refl r s

theorem State.enterLocked_quiet (s : State) (bell : Nat) : Quiet r s (s.enterLocked bell) :=
  (s.setBell_quiet _ _).trans (State.endRun_quiet _ _ _)

theorem State.leaveLocked_quiet (s : State) (bell : Nat) : Quiet r s (s.leaveLocked bell) := by
  unfold State.leaveLocked
  dsimp only
  split <;> exact s.setBell_quiet _ _

theorem State.followLock_quiet (s : State) (bell : Nat) : Quiet r s (s.followLock bell) :=
  .ite (fun _ => .ite (fun _ => .refl r s) fun _ => s.enterLocked_quiet _) fun _ =>
    .ite (fun _ => s.leaveLocked_quiet _) fun _ => .refl r s

theorem State.followLocks_quiet (s : State) : Quiet r s s.followLocks := Quiet.eachIndex (fun i s => s.followLock_quiet i) s

theorem State.swingPulse_quiet (s : State) (bell : Nat) : Quiet r s (s.swingPulse bell) := by
  unfold State.swingPulse
  dsimp only
  exact .ite (fun _ => .ite (fun _ => s.setBell_quiet _ _) fun _ => s.setBell_quiet _ _) fun _ => .refl r s

theorem State.expireQuiet_quiet (s : State) (bell : Nat) : Quiet r s (s.expireQuiet bell) := by
  unfold State.expireQuiet
  dsimp only
  split
  · exact .refl r s
  · exact .ite (fun _ => .ite (fun _ => (s.setBell_quiet _ _).trans (State.endRun_quiet _ _ _)) fun _ => s.setBell_quiet _ _)
      fun _ => .refl r s

theorem State.restCloses_quiet (s : State) (bell : Nat) : Quiet r s (s.restCloses bell) :=
  .ite (fun _ => s.setBell_quiet _ _) fun _ => .refl r s

theorem State.restOpens_quiet (s : State) (bell : Nat) : Quiet r s (s.restOpens bell) :=
  .ite (fun _ => s.setBell_quiet _ _) fun _ => .refl r s

theorem State.settleBell_quiet (s : State) (bell : Nat) : Quiet r s (s.settleBell bell) :=
  .ite (fun _ => s.setBell_quiet _ _) fun _ => .refl r s

theorem State.startSwing_quiet (s : State) (bell : Nat) : Quiet r s (s.startSwing bell) := s.setBell_quiet _ _

theorem State.stopSwing_quiet (s : State) (bell : Nat) : Quiet r s (s.stopSwing bell) :=
  (s.setBell_quiet _ _).trans (State.endRun_quiet _ _ _)

/-- R67: an AMEND of a bell raises no strike line. -/
theorem strokeAfterAmend_line (old new : BellConfig) (k : StrokeState)
    (h : (strokeAfterAmend old new k).lineIsActive = true) : k.lineIsActive = true := by
  unfold strokeAfterAmend at h
  split at h
  · cases h
  · split at h
    · rw [restState_line] at h; cases h
    · split at h
      · exact h
      · rw [restState_line] at h; cases h

theorem State.applyBell_quiet (s : State) (bell : Nat) (c : BellConfig) : Quiet r s (s.applyBell bell c) := by
  unfold State.applyBell
  dsimp only
  refine (State.followLock_quiet _ _).after ?_
  refine Quiet.trans (t := (s.setBell bell { s.bell bell with config := c }).setStroke bell
    (strokeAfterAmend (s.bell bell).config c ((s.setBell bell { s.bell bell with config := c }).stroke bell))) ?_ ?_
  · exact (s.setBell_quiet _ _).trans (State.setStroke_quiet _ _ _ (strokeAfterAmend_line _ _ _))
  · exact .ite (fun _ => State.startSwing_quiet _ _) fun _ => .ite (fun _ => State.stopSwing_quiet _ _) fun _ =>
      .ite (fun _ => State.endRun_quiet _ _ _) fun _ => .refl r _

theorem State.keepHammerFault_quiet (s : State) (bell : Nat) (f : HammerFault) : Quiet r s (s.keepHammerFault bell f) :=
  .ite (fun _ => (s.setBell_quiet _ _).trans (State.applyBell_quiet _ _ _)) fun _ => .refl r s

theorem State.keepMotorFault_quiet (s : State) (bell : Nat) : Quiet r s (s.keepMotorFault bell) :=
  .ite (fun _ => s.applyBell_quiet _ _) fun _ => .refl r s

theorem State.resetBell_quiet (s : State) (bell : Nat) : Quiet r s (s.resetBell bell) := s.setBell_quiet _ _

theorem State.resetBells_quiet (s : State) : Quiet r s s.resetBells := Quiet.eachIndex (fun i s => s.resetBell_quiet i) s

theorem State.discardRuns_quiet (s : State) : Quiet r s s.discardRuns :=
  .of_same rfl rfl rfl rfl rfl rfl rfl rfl rfl rfl fun _ => id

end Sys2Proof.Machine
end

