-- ==== Sys2Proof/Laws/Chime.lean ====
section
/-! SUPPORT. The operations of the Chime Sequencer and the Clock Program, each shown quiet (Laws/Quiet.lean) but for the two strike
requests, which may raise a line (R60). -/

namespace Sys2Proof.Machine

variable {r : Bool}

theorem State.dropEntryRef_quiet (s : State) (e : Entry) : Quiet r s (s.dropEntryRef e) := by
  unfold State.dropEntryRef
  split
  · exact s.dropRef_quiet _
  · exact .refl r s

theorem insertEntry_length (q : List Entry) (e : Entry) : (insertEntry q e).length = q.length + 1 := by
  unfold insertEntry
  exact (takeWhile_dropWhile_perm (fun x : Entry => x.outranks e) q e).length_eq

/-! ## The queue (R90 to R93) -/

theorem State.beginPerformance_quiet (s : State) (e : Entry) : Quiet r s (s.beginPerformance e) := by
  unfold State.beginPerformance
  dsimp only
  exact .ite (fun _ => .of_chime (Nat.le_refl _)) fun _ => (State.reportEntry_quiet _ _ _ _ _).after (.of_chime (Nat.le_refl _))

/-- Dequeuing leaves a part of the list it works through as the queue, whatever the queue was. -/
theorem dequeueFrom_quiet {s₀ : State} (q : List Entry) (s : State) (k : Quiet r s₀ s)
    (h : s₀.ListsSound → q.length ≤ Config.queueCapacity) : Quiet r s₀ (dequeueFrom q s) := by
  have put (l : List Entry) (hl : l.length ≤ q.length) : Quiet r s₀ { s with chime.queue := l } :=
    { k with
      loads := fun x => ⟨(k.loads x).capacity, (k.loads x).amends, (k.loads x).taken⟩
      lists := fun x => ⟨hl.trans (h x), (k.lists x).layers, (k.lists x).layerScenes, (k.lists x).standing,
        (k.lists x).standingScenes⟩ }
  induction q generalizing s with
  | nil => exact put [] (Nat.le_refl _)
  | cons e rest ih =>
    refine .ite (fun _ => ?_) fun _ => (State.beginPerformance_quiet _ _).after (put rest (Nat.le_succ _))
    have k' := (k.trans (s.reportEntry_quiet e .expired 0 false)).trans (State.dropEntryRef_quiet _ e)
    refine ih _ k' (fun x => (Nat.le_succ _).trans (h x)) fun l hl => ?_
    exact { k' with
      loads := fun x => ⟨(k'.loads x).capacity, (k'.loads x).amends, (k'.loads x).taken⟩
      lists := fun x => ⟨hl.trans ((Nat.le_succ _).trans (h x)), (k'.lists x).layers, (k'.lists x).layerScenes,
        (k'.lists x).standing, (k'.lists x).standingScenes⟩ }

theorem State.dequeue_quiet (s : State) : Quiet r s s.dequeue := by
  unfold State.dequeue
  split
  · exact .refl r s
  · exact dequeueFrom_quiet _ _ (.refl r s) fun x => x.queue

theorem State.testPreemption_quiet (s : State) (e : Entry) : Quiet r s (s.testPreemption e) := by
  unfold State.testPreemption
  split
  · exact .refl r s
  · exact .ite (fun _ => .of_chime (Nat.le_refl _)) fun _ => .refl r s

/-- An entry is placed in a queue with room; `s₀` is a state the present one follows quietly. -/
theorem Quiet.of_queue {s₀ s : State} (k : Quiet r s₀ s) {q : List Entry}
    (h : s₀.ListsSound → q.length ≤ Config.queueCapacity) : Quiet r s₀ { s with chime.queue := q } :=
  { k with
    loads := fun x => ⟨(k.loads x).capacity, (k.loads x).amends, (k.loads x).taken⟩
    lists := fun x => ⟨h x, (k.lists x).layers, (k.lists x).layerScenes, (k.lists x).standing, (k.lists x).standingScenes⟩ }

theorem State.placeArrival_quiet {s₀ s : State} (k : Quiet r s₀ s) (e : Entry)
    (h : s₀.ListsSound → s.chime.queue.length < Config.queueCapacity) : Quiet r s₀ (s.placeArrival e) := by
  unfold State.placeArrival
  dsimp only
  have a : Quiet r s₀ { s with chime.queue := insertEntry s.chime.queue e } :=
    k.of_queue fun x => by rw [insertEntry_length]; exact h x
  split
  · exact (a.trans (State.reportEntry_quiet _ _ _ _ _)).trans (State.dequeue_quiet _)
  · exact (a.trans (State.reportEntry_quiet _ _ _ _ _)).trans (State.testPreemption_quiet _ _)

theorem loser_mem (q : List Entry) (x : Entry) (h : loser q = some x) : x ∈ q := by
  induction q with
  | nil => cases h
  | cons e rest ih =>
    unfold loser at h
    split at h
    · cases h; simp
    · rename_i y hy
      split at h
      · cases h; simp [ih hy]
      · cases h; simp

theorem filter_number_length_lt (q : List Entry) (x : Entry) (h : x ∈ q) :
    (q.filter fun e => e.number != x.number).length < q.length := by
  refine lt_of_le_of_ne (List.length_filter_le ..) fun e => ?_
  have := List.length_filter_eq_length_iff.1 e x h
  simp at this

theorem State.unqueue_quiet (s : State) (n : Nat) : Quiet r s (s.unqueue n) := .of_chime (List.length_filter_le ..)

theorem State.displaceEntry_quiet (s : State) (e : Entry) : Quiet r s (s.displaceEntry e) :=
  ((s.unqueue_quiet _).trans (State.reportEntry_quiet _ _ _ _ _)).trans (State.dropEntryRef_quiet _ _)

/-! The reports and the dropping of a reference leave the queue as it is. -/

@[simp] theorem State.putOccasion_chime (s : State) (slot : Nat) (o : Occasion) : (s.putOccasion slot o).chime = s.chime := by
  unfold State.putOccasion; split <;> rfl
@[simp] theorem State.setPhase_chime (s : State) (c p : Nat) (x : ActionPhase) : (s.setPhase c p x).chime = s.chime := by
  unfold State.setPhase; split
  · rfl
  · split <;> rfl
@[simp] theorem State.raiseIf_chime (s : State) (b : Bool) (c : Condition) : (s.raiseIf b c).chime = s.chime := by
  unfold State.raiseIf; split <;> rfl
@[simp] theorem State.setOutcome_chime (s : State) (c p : Nat) (x : Outcome) : (s.setOutcome c p x).chime = s.chime := by
  unfold State.setOutcome; split
  · rfl
  · split
    · rfl
    · simp
@[simp] theorem State.finishAction_chime (s : State) (c p : Nat) (x : Outcome) : (s.finishAction c p x).chime = s.chime := by
  simp [State.finishAction]
@[simp] theorem State.reportToAction_chime (s : State) (c p n : Nat) (x : EntryReport) (k : Nat) (d : Bool) :
    (s.reportToAction c p n x k d).chime = s.chime := by
  unfold State.reportToAction; split <;> simp
@[simp] theorem State.reportToClock_chime (s : State) (source : ClockSource) (mark : Nat) (x : EntryReport) (started : Bool)
    (skipped : Nat) : (s.reportToClock source mark x started skipped).chime = s.chime := by
  simp [State.reportToClock]
@[simp] theorem State.reportEntry_queue (s : State) (e : Entry) (x : EntryReport) (k : Nat) (d : Bool) :
    (s.reportEntry e x k d).chime.queue = s.chime.queue := by
  unfold State.reportEntry; split <;> try simp
  split <;> rfl
@[simp] theorem State.freeTune_chime (s : State) (slot : Nat) : (s.freeTune slot).chime = s.chime := by
  unfold State.freeTune; split <;> rfl
@[simp] theorem State.dropRef_chime (s : State) (h : Handle) : (s.dropRef h).chime = s.chime := by
  unfold State.dropRef
  split
  · rfl
  · dsimp only
    split
    · simp [State.setTune]
    · rfl
@[simp] theorem State.dropEntryRef_chime (s : State) (e : Entry) : (s.dropEntryRef e).chime = s.chime := by
  unfold State.dropEntryRef; split <;> simp

theorem State.displaceEntry_queue (s : State) (e : Entry) :
    (s.displaceEntry e).chime.queue = s.chime.queue.filter fun x => x.number != e.number := by
  simp [State.displaceEntry, State.unqueue]

/-! ## Arrivals (R89, R92, R93) -/

theorem State.settleArrival_quiet {s₀ s : State} (k : Quiet r s₀ s) (e : Entry) : Quiet r s₀ (s.settleArrival e).1 := by
  unfold State.settleArrival
  split
  · rename_i h; exact State.placeArrival_quiet k e fun _ => h
  · split
    · rename_i hn _ h
      have : s.chime.queue = [] := by
        cases hq : s.chime.queue with
        | nil => rfl
        | cons y l =>
          rw [hq] at h
          unfold loser at h
          split at h
          · cases h
          · split at h <;> cases h
      exact absurd (by simp [this, Config.queueCapacity] : s.chime.queue.length < Config.queueCapacity) hn
    · rename_i x h
      split
      · refine State.placeArrival_quiet (k.trans (s.displaceEntry_quiet x)) e fun a => ?_
        rw [State.displaceEntry_queue]
        exact (filter_number_length_lt _ _ (loser_mem _ _ h)).trans_le (k.lists a).queue
      · exact (k.trans (s.reportEntry_quiet _ _ _ _)).trans (State.dropEntryRef_quiet _ _)

theorem State.admitArrival_quiet {s₀ s : State} (k : Quiet r s₀ s) (e : Entry) : Quiet r s₀ (s.admitArrival e).1 := by
  unfold State.admitArrival
  have h := State.settleArrival_quiet k e
  generalize s.settleArrival e = x at h
  obtain ⟨t, b⟩ := x
  cases b <;> exact h

theorem State.arrive_quiet (s : State) (e : Entry) : Quiet r s (s.arrive e).1 := by
  unfold State.arrive
  dsimp only
  have c : Quiet r s s.countArrival := .of_chime (Nat.le_refl _)
  split
  · exact State.admitArrival_quiet c _
  · split
    · exact c.trans (State.reportEntry_quiet _ _ _ _ _)
    · exact State.admitArrival_quiet (c.trans (State.takeRef_quiet _ _)) _

/-! ## The performance (R96 to R105) -/

theorem State.reachBoundary_quiet (s : State) : Quiet r s s.reachBoundary := by
  unfold State.reachBoundary
  split
  · exact .refl r s
  · exact .ite (fun _ => .of_chime (Nat.le_refl _)) fun _ => .refl r s

theorem State.requestBlow_loose (s : State) : Quiet false s s.requestBlow := by
  unfold State.requestBlow
  split
  · exact .refl _ s
  · split
    · exact .refl _ s
    · refine .ite (fun _ => .ite (fun _ => .of_chime (Nat.le_refl _)) fun _ => ?_) fun _ => .refl _ s
      exact (State.strikeRequest_loose _ _ _ _ _).after (.of_chime (Nat.le_refl _))

theorem State.requeue_quiet {s₀ s : State} (k : Quiet r s₀ s) (e : Entry) : Quiet r s₀ (s.requeue e) := by
  unfold State.requeue
  have place (t : State) (k : Quiet r s₀ t) (h : s₀.ListsSound → t.chime.queue.length < Config.queueCapacity) :
      Quiet r s₀ { t with chime.queue := insertEntry t.chime.queue e } :=
    k.of_queue fun x => by rw [insertEntry_length]; exact h x
  dsimp only
  split
  · rename_i h; exact place s k fun _ => h
  · split
    · rename_i hn _ h
      have : s.chime.queue = [] := by
        cases hq : s.chime.queue with
        | nil => rfl
        | cons y l =>
          rw [hq] at h
          unfold loser at h
          split at h
          · cases h
          · split at h <;> cases h
      exact absurd (by simp [this, Config.queueCapacity] : s.chime.queue.length < Config.queueCapacity) hn
    · rename_i x h
      split
      · refine place _ (k.trans (s.displaceEntry_quiet x)) fun a => ?_
        rw [State.displaceEntry_queue]
        exact (filter_number_length_lt _ _ (loser_mem _ _ h)).trans_le (k.lists a).queue
      · exact (k.trans (s.reportEntry_quiet _ _ _ _)).trans (State.dropEntryRef_quiet _ _)

theorem State.endPerformance_quiet (s : State) (p : Performance) (e : Ending) : Quiet r s (s.endPerformance p e) := by
  unfold State.endPerformance
  dsimp only
  have h : Quiet r s { s with chime.performance := none } := .of_chime (Nat.le_refl _)
  refine (State.dequeue_quiet _).after ?_
  split
  · exact (h.trans (State.reportEntry_quiet _ _ _ _ _)).trans (State.dropEntryRef_quiet _ _)
  · exact (h.trans (State.reportEntry_quiet _ _ _ _ _)).trans (State.dropEntryRef_quiet _ _)
  · exact State.requeue_quiet h _

theorem State.reachEnd_quiet (s : State) : Quiet r s s.reachEnd := by
  unfold State.reachEnd
  split
  · exact .refl r s
  · split
    · exact .refl r s
    · exact .ite (fun _ => s.endPerformance_quiet _ _) fun _ => .refl r s

/-! ## STOP and SILENCE (R106, R118) -/

theorem State.removeEntry_quiet (s : State) (e : Entry) : Quiet r s (s.removeEntry e) :=
  ((s.unqueue_quiet _).trans (State.reportEntry_quiet _ _ _ _ _)).trans (State.dropEntryRef_quiet _ _)

theorem State.stopEntry_quiet (s : State) (n : Nat) : Quiet r s (s.stopEntry n).1 := by
  unfold State.stopEntry
  split
  · exact s.removeEntry_quiet _
  · split
    · exact .refl r s
    · split
      · exact .of_chime (Nat.le_refl _)
      · exact .refl r s

theorem State.removeClockEntries_quiet (s : State) : Quiet r s s.removeClockEntries :=
  .foldl _ (fun s e _ => s.removeEntry_quiet e) s

theorem State.silence_quiet (s : State) (minutes : Nat) : Quiet r s (s.silence minutes) := by
  unfold State.silence
  dsimp only
  exact (State.removeClockEntries_quiet _).after .of_program

/-! ## Tolls (R107 to R109) -/

section
variable (s : State)
@[simp] theorem State.countToll_clock : s.countToll.clock = s.clock := rfl
@[simp] theorem State.countToll_time : s.countToll.time = s.time := rfl
@[simp] theorem State.countToll_dials : s.countToll.dials = s.dials := rfl
@[simp] theorem State.countToll_lines : s.countToll.lines = s.lines := rfl
@[simp] theorem State.countToll_bells : s.countToll.bells = s.bells := rfl
@[simp] theorem State.countToll_hammers : s.countToll.hammers = s.hammers := rfl
@[simp] theorem State.countToll_tunes : s.countToll.tunes = s.tunes := rfl
@[simp] theorem State.countToll_program : s.countToll.program = s.program := rfl
@[simp] theorem State.countToll_calendar : s.countToll.calendar = s.calendar := rfl
@[simp] theorem State.countToll_mixer : s.countToll.mixer = s.mixer := rfl
@[simp] theorem State.countToll_feeder : s.countToll.feeder = s.feeder := rfl
@[simp] theorem State.countToll_link : s.countToll.link = s.link := rfl
@[simp] theorem State.countToll_memory : s.countToll.memory = s.memory := rfl
@[simp] theorem State.countToll_pending : s.countToll.pending = s.pending := rfl
end

theorem State.countToll_quiet (s : State) : Quiet r s s.countToll := .of_chime (Nat.le_refl _)

theorem State.acceptToll_quiet (s : State) (channel bell interval blows velocity : Nat) (source : TollSource) :
    Quiet r s (s.acceptToll channel bell interval blows velocity source) :=
  ((s.setToll_quiet _ _).trans (State.countToll_quiet _)).trans (State.reportToll_quiet _ _ _ _)

theorem State.takeUpToll_quiet (s : State) (channel : Nat) : Quiet r s (s.takeUpToll channel) := by
  unfold State.takeUpToll
  split
  · exact .refl r s
  · exact .ite (fun _ => s.setToll_quiet _ _) fun _ => .refl r s

theorem State.requestToll_loose (s : State) (channel : Nat) : Quiet false s (s.requestToll channel) := by
  unfold State.requestToll
  split
  · exact .refl _ s
  · split
    · exact .refl _ s
    · exact .ite (fun _ => (s.setToll_quiet _ _).trans (State.strikeRequest_loose _ _ _ _ _)) fun _ => .refl _ s

theorem State.endToll_quiet (s : State) (channel : Nat) (t : TollRun) (x : EntryReport) : Quiet r s (s.endToll channel t x) :=
  ((s.setToll_quiet _ _).trans (State.setLastToll_quiet _ _ _)).trans (State.reportToll_quiet _ _ _ _)

theorem State.reachTollEnd_quiet (s : State) (channel : Nat) : Quiet r s (s.reachTollEnd channel) := by
  unfold State.reachTollEnd
  split
  · exact .refl r s
  · exact .ite (fun _ => s.endToll_quiet _ _ _) fun _ => .refl r s

theorem State.stopToll_quiet (s : State) (channel : Nat) : Quiet r s (s.stopToll channel) := by
  unfold State.stopToll
  split
  · exact .refl r s
  · exact s.endToll_quiet _ _ _

theorem State.discardChime_quiet (s : State) : Quiet r s s.discardChime := .of_chime (Nat.zero_le _)

theorem State.resetChime_quiet (s : State) : Quiet r s s.resetChime := .of_chime (Nat.zero_le _)

/-! ## Marks (R113, R114, R119, R120) -/

theorem State.quarterPart_quiet (s : State) (mark local_ : Nat) : Quiet r s (s.quarterPart mark local_) := by
  unfold State.quarterPart
  dsimp only
  split
  · exact .refl r s
  · exact .ite (fun _ => .refl r s) fun _ => .ite (fun _ => .of_program) fun _ => s.arrive_quiet _

theorem State.hourPart_quiet (s : State) (mark local_ : Nat) : Quiet r s (s.hourPart mark local_) := by
  unfold State.hourPart
  dsimp only
  exact .ite (fun _ => .refl r s) fun _ => .ite (fun _ => .of_program) fun _ => s.arrive_quiet _

theorem State.handleMark_quiet (s : State) (mark local_ : Nat) : Quiet r s (s.handleMark mark local_) := by
  unfold State.handleMark
  dsimp only
  exact Quiet.of_program.after ((s.quarterPart_quiet _ _).trans (State.hourPart_quiet _ _ _))

theorem State.handleLateMark_quiet (s : State) (mark local_ : Nat) : Quiet r s (s.handleLateMark mark local_) :=
  .ite (fun _ => s.handleMark_quiet _ _) fun _ => .refl r s

theorem State.landingMark_quiet (s : State) : Quiet r s s.landingMark :=
  .ite (fun _ => s.handleLateMark_quiet _ _) fun _ => .refl r s

theorem State.owedMark_quiet (s : State) (entry : Nat) : Quiet r s (s.owedMark entry) :=
  .ite (fun _ => s.handleLateMark_quiet _ _) fun _ => .refl r s

end Sys2Proof.Machine
end

