-- ==== Sys2Proof/Laws/Calendar.lean ====
section
/-! SUPPORT. The operations of the Occasion Calendar, the Dial Drive and the Field Line Table, each shown quiet
(Laws/Quiet.lean). -/

namespace Sys2Proof.Machine

variable {r : Bool}

/-! ## Actions (R132 to R134) -/

theorem State.startPlay_quiet (s : State) (holds : Bool) (context place : Nat) (tune : Handle) (e : Entry) :
    Quiet r s (s.startPlay holds context place tune e) := by
  unfold State.startPlay
  dsimp only
  refine .ite (fun _ => s.arrive_quiet _) fun _ => (State.finishAction_quiet _ _ _ _).after ?_
  exact .ite (fun _ => s.dropRef_quiet _) fun _ => .refl r s

theorem State.startToll_quiet (s : State) (h : Handle) (context place bell interval blows velocity : Nat) :
    Quiet r s (s.startToll h context place bell interval blows velocity) := by
  unfold State.startToll
  split
  · exact s.finishAction_quiet _ _ _
  · exact (s.setPhase_quiet _ _ _).trans (State.acceptToll_quiet _ _ _ _ _ _ _)

theorem State.startSwingAction_quiet (s : State) (context place bell minutes : Nat) :
    Quiet r s (s.startSwingAction context place bell minutes) := by
  unfold State.startSwingAction
  split
  · exact s.finishAction_quiet _ _ _
  · exact (s.setPhase_quiet _ _ _).trans (State.acceptSwing_quiet _ _ _ _)

theorem State.sceneUp_quiet (s : State) (h : Handle) (context place : Nat) (scene : Handle) (hold : Nat) :
    Quiet r s (s.sceneUp h context place scene hold) := by
  unfold State.sceneUp
  split
  · have k := s.raiseScene_quiet (r := r) scene
    generalize s.raiseScene scene = x at k
    obtain ⟨t, a⟩ := x
    cases a
    · dsimp only
      exact (State.finishAction_quiet _ _ _ _).after ((State.makeStanding_quiet _ _ _ _).after k)
    all_goals exact (State.finishAction_quiet _ _ _ _).after k
  · exact s.finishAction_quiet _ _ _

theorem State.sceneDown_quiet (s : State) (context place : Nat) (scene : Handle) :
    Quiet r s (s.sceneDown context place scene) :=
  .ite (fun _ => (s.lowerAndRemove_quiet _).trans (State.finishAction_quiet _ _ _ _)) fun _ => s.finishAction_quiet _ _ _

theorem State.startAction_quiet (s : State) (c : Context) (o : Occasion) (context place : Nat) (a : ContextAction)
    (holds : Bool) : Quiet r s (s.startAction c o context place a holds) := by
  unfold State.startAction
  split
  · exact s.startPlay_quiet _ _ _ _ _
  · exact s.startToll_quiet _ _ _ _ _ _ _
  · exact s.startSwingAction_quiet _ _ _ _
  · exact s.sceneUp_quiet _ _ _ _ _
  · exact s.sceneDown_quiet _ _ _
  · exact (s.silence_quiet _).trans (State.finishAction_quiet _ _ _ _)

theorem State.startIfDue_quiet (s : State) (context place : Nat) : Quiet r s (s.startIfDue context place) := by
  unfold State.startIfDue
  split
  · exact .refl r s
  · split
    · split
      · exact .ite (fun _ => s.startAction_quiet _ _ _ _ _ _) fun _ => .refl r s
      all_goals exact .refl r s
    · exact .refl r s

theorem State.startDueActions_quiet (s : State) (context : Nat) : Quiet r s (s.startDueActions context) :=
  Quiet.eachIndex (fun i s => s.startIfDue_quiet context i) s

/-! ## Firing (R129 to R131) -/

theorem State.takeForAction_quiet (s : State) (due : Nat) (a : Action) : Quiet r s (s.takeForAction due a).1 := by
  unfold State.takeForAction
  dsimp only
  split
  · split
    · exact s.takeRef_quiet _
    · exact .refl r s
  · exact .refl r s

theorem takeActions_quiet (due : Nat) (l : List Action) (s : State) : Quiet r s (takeActions due l s).1 := by
  induction l generalizing s with
  | nil => exact .refl r s
  | cons a l ih => exact (s.takeForAction_quiet due a).trans (ih _)

theorem State.fire_quiet (s : State) (slot context : Nat) (o : Occasion) (due : Nat) :
    Quiet r s (s.fire slot context o due) := by
  unfold State.fire
  dsimp only
  exact (State.startDueActions_quiet _ _).after ((State.putOccasion_quiet _ _ _).after
    ((State.setContext_quiet _ _ _).after (takeActions_quiet _ _ s)))

theorem State.missOccasion_quiet (s : State) (slot : Nat) (o : Occasion) : Quiet r s (s.missOccasion slot o) :=
  (s.putOccasion_quiet _ _).trans (State.raise_quiet _ _)

theorem State.setWaiting_quiet (s : State) (slot : Nat) (o : Occasion) : Quiet r s (s.setWaiting slot o) :=
  s.setOccasionSlot_quiet _ _

theorem State.reach_quiet (s : State) (slot : Nat) : Quiet r s (s.reach slot) := by
  unfold State.reach
  split
  · exact .refl r s
  · split
    · exact .refl r s
    · refine .ite (fun _ => s.missOccasion_quiet _ _) fun _ => .ite (fun _ => .ite (fun _ => s.missOccasion_quiet _ _)
        fun _ => ?_) fun _ => .refl r s
      split
      · exact s.fire_quiet _ _ _ _
      · exact s.setWaiting_quiet _ _

theorem State.reachFirst_quiet (s : State) : Quiet r s s.reachFirst := by
  unfold State.reachFirst
  split
  · exact .refl r s
  · exact s.reach_quiet _

theorem State.expireGrace_quiet (s : State) : Quiet r s s.expireGrace := by
  unfold State.expireGrace
  split
  · exact .refl r s
  · exact s.missOccasion_quiet _ _

theorem State.startFirstDue_quiet (s : State) (context : Nat) : Quiet r s (s.startFirstDue context) := by
  unfold State.startFirstDue
  split
  · exact .refl r s
  · split
    · exact .refl r s
    · exact s.startIfDue_quiet _ _

/-! ## Freeing a context (R136) -/

theorem State.freeOccasion_quiet (s : State) (slot : Nat) : Quiet r s (s.freeOccasion slot) :=
  (s.setOccasionSlot_quiet _ _).trans (State.store_quiet _ _)

theorem State.leaveContext_quiet (s : State) (h : Handle) : Quiet r s (s.leaveContext h) := by
  unfold State.leaveContext
  split
  · exact .refl r s
  · split
    · exact s.freeOccasion_quiet _
    all_goals exact s.putOccasion_quiet _ _

theorem State.releaseContext_quiet (s : State) (context : Nat) : Quiet r s (s.releaseContext context) := by
  unfold State.releaseContext
  split
  · exact .refl r s
  · exact (s.setContext_quiet _ _).trans (State.leaveContext_quiet _ _)

theorem State.offerContext_quiet (s : State) (context : Nat) : Quiet r s (s.offerContext context) := by
  unfold State.offerContext
  split
  · exact .refl r s
  · refine .ite (fun _ => s.missOccasion_quiet _ _) fun _ => ?_
    split
    · exact s.fire_quiet _ _ _ _
    · exact .refl r s

theorem settleLoop_quiet (fuel : Nat) (s : State) : Quiet r s (settleLoop fuel s) := by
  induction fuel generalizing s with
  | zero => exact .refl r s
  | succ fuel ih =>
    unfold settleLoop
    split
    · exact (s.releaseContext_quiet _).trans (ih _)
    · split
      · exact (s.offerContext_quiet _).trans (ih _)
      · exact .refl r s

theorem State.settleContexts_quiet (s : State) : Quiet r s s.settleContexts := settleLoop_quiet ..

/-! ## Jumps (R140, R145) -/

theorem State.startAllDue_quiet (s : State) : Quiet r s s.startAllDue :=
  Quiet.eachIndex (fun i s => s.startDueActions_quiet i) s

theorem State.recomputeSlot_quiet (s : State) (spent : Bool) (reached : List Nat) (slot : Nat) :
    Quiet r s (s.recomputeSlot spent reached slot) := by
  unfold State.recomputeSlot
  split
  · exact .refl r s
  · refine .ite (fun _ => s.putOccasion_quiet _ _) fun _ => .ite (fun _ => ?_) fun _ => .refl r s
    split
    · exact s.putOccasion_quiet _ _
    · exact .refl r s

theorem State.workTableDusk_quiet (s : State) : Quiet r s s.workTableDusk := .of_calendar

section
variable (s : State)
@[simp] theorem State.passDusk_clock : s.passDusk.clock = s.clock := rfl
@[simp] theorem State.passDusk_time : s.passDusk.time = s.time := rfl
@[simp] theorem State.passDusk_dials : s.passDusk.dials = s.dials := rfl
@[simp] theorem State.passDusk_lines : s.passDusk.lines = s.lines := rfl
@[simp] theorem State.passDusk_bells : s.passDusk.bells = s.bells := rfl
@[simp] theorem State.passDusk_hammers : s.passDusk.hammers = s.hammers := rfl
@[simp] theorem State.passDusk_tunes : s.passDusk.tunes = s.tunes := rfl
@[simp] theorem State.passDusk_chime : s.passDusk.chime = s.chime := rfl
@[simp] theorem State.passDusk_program : s.passDusk.program = s.program := rfl
@[simp] theorem State.passDusk_mixer : s.passDusk.mixer = s.mixer := rfl
@[simp] theorem State.passDusk_feeder : s.passDusk.feeder = s.feeder := rfl
@[simp] theorem State.passDusk_link : s.passDusk.link = s.link := rfl
@[simp] theorem State.passDusk_memory : s.passDusk.memory = s.memory := rfl
@[simp] theorem State.passDusk_pending : s.passDusk.pending = s.pending := rfl
end

theorem State.passDusk_quiet (s : State) : Quiet r s s.passDusk := .of_calendar

theorem State.calendarJump_quiet (s : State) (spent : Bool) : Quiet r s (s.calendarJump spent) := by
  unfold State.calendarJump
  dsimp only
  exact (State.startAllDue_quiet _).after ((Quiet.eachIndex (fun i s => s.recomputeSlot_quiet _ _ i) _).after
    ((Quiet.foldl _ (fun s x _ => s.reach_quiet x) _).after
      ((State.passDusk_quiet _).after ((State.workTableDusk_quiet _).after s.passDusk_quiet))))

theorem State.armSlot_quiet (s : State) (slot : Nat) : Quiet r s (s.armSlot slot) := by
  unfold State.armSlot
  split
  · exact .refl r s
  · exact .ite (fun _ => s.putOccasion_quiet _ _) fun _ => .refl r s

theorem State.calendarFirstValidity_quiet (s : State) : Quiet r s s.calendarFirstValidity :=
  (State.startAllDue_quiet _).after ((Quiet.eachIndex (fun i s => s.armSlot_quiet i) _).after
    ((State.passDusk_quiet _).after s.workTableDusk_quiet))

theorem State.loseDue_quiet (s : State) (slot : Nat) : Quiet r s (s.loseDue slot) := by
  unfold State.loseDue
  split
  · exact .refl r s
  · exact .ite (fun _ => s.putOccasion_quiet _ _) fun _ => .refl r s

theorem State.calendarTimeLost_quiet (s : State) : Quiet r s s.calendarTimeLost :=
  Quiet.eachIndex (fun i s => s.loseDue_quiet i) s

/-! ## Dusk (R141 to R144) -/

theorem State.sampleAmbient_quiet (s : State) : Quiet r s s.sampleAmbient := by
  unfold State.sampleAmbient
  split
  · exact .refl r s
  · dsimp only
    exact Quiet.of_calendar.after (s.setLine_quiet _ _)

theorem State.emptyWindow_quiet (s : State) : Quiet r s s.emptyWindow := .of_calendar

theorem State.moveDusk_quiet (s : State) (slot : Nat) : Quiet r s (s.moveDusk slot) := by
  unfold State.moveDusk
  split
  · exact .refl r s
  · split
    · exact s.putOccasion_quiet _ _
    · exact .refl r s

theorem State.confirmDusk_quiet (s : State) : Quiet r s s.confirmDusk := by
  unfold State.confirmDusk
  dsimp only
  exact (Quiet.foldl _ (fun s x _ => s.reach_quiet x) _).after ((Quiet.foldl _ (fun s x _ => s.moveDusk_quiet x) _).after
    .of_calendar)

theorem State.faultSensor_quiet (s : State) : Quiet r s s.faultSensor := by
  unfold State.faultSensor
  dsimp only
  exact (State.raise_quiet _ _).after ((State.askWrite_quiet _ WriteEffect.plain_sensorFault).after .of_calendar)

theorem State.recomputeDusk_quiet (s : State) (slot : Nat) : Quiet r s (s.recomputeDusk slot) := by
  unfold State.recomputeDusk
  split
  · exact .refl r s
  · split
    · exact s.putOccasion_quiet _ _
    · exact .refl r s

theorem State.recomputeDuskAll_quiet (s : State) : Quiet r s s.recomputeDuskAll :=
  Quiet.eachIndex (fun i s => s.recomputeDusk_quiet i) s

/-! ## Retiring an occasion (R138, R139) -/

theorem State.cancelWaiting_quiet (s : State) (context place : Nat) : Quiet r s (s.cancelWaiting context place) := by
  unfold State.cancelWaiting
  split
  · exact .refl r s
  · split
    · exact .refl r s
    · split
      · refine (State.finishAction_quiet _ _ _ _).after ?_
        split
        · exact .ite (fun _ => s.dropRef_quiet _) fun _ => .refl r s
        · exact .refl r s
      all_goals exact .refl r s

theorem State.endActive_quiet (s : State) (context place : Nat) : Quiet r s (s.endActive context place) := by
  unfold State.endActive
  split
  · exact .refl r s
  · split
    · exact .refl r s
    · split
      · exact s.stopEntry_quiet _
      · exact s.stopToll_quiet _
      · exact s.endRun_quiet _ _
      all_goals exact .refl r s

theorem State.beginRetiring_quiet (s : State) (slot context : Nat) (o : Occasion) :
    Quiet r s (s.beginRetiring slot context o) := by
  unfold State.beginRetiring
  dsimp only
  exact (Quiet.eachIndex (fun i s => s.cancelWaiting_quiet context i) _).after (s.putOccasion_quiet _ _)

/-! ## Resets (R145, R146) -/

theorem State.resetOccasion_quiet (s : State) (cold keepDue : Bool) (slot : Nat) :
    Quiet r s (s.resetOccasion cold keepDue slot) := by
  unfold State.resetOccasion
  split
  · exact .refl r s
  · exact .ite (fun _ => s.freeOccasion_quiet _) fun _ => s.putOccasion_quiet _ _

theorem State.resetCalendar_quiet (s : State) (cold : Bool) : Quiet r s (s.resetCalendar cold) := by
  unfold State.resetCalendar
  dsimp only
  exact (State.passDusk_quiet _).after <| (State.workTableDusk_quiet _).after ((State.emptyWindow_quiet _).after (Quiet.of_calendar.after
    (Quiet.eachIndex (fun i s => s.resetOccasion_quiet _ _ i) _)))

theorem State.reachHeld_quiet (s : State) : Quiet r s s.reachHeld := .foldl _ (fun s x _ => s.reach_quiet x) s

/-! ## Dials (chapter 2) -/

theorem State.startImpulse_quiet (s : State) (i : Nat) : Quiet r s (s.startImpulse i) := s.setDial_quiet _ _

theorem State.tryImpulse_quiet (s : State) (i : Nat) : Quiet r s (s.tryImpulse i) :=
  .ite (fun _ => .ite (fun _ => s.startImpulse_quiet _) fun _ => s.setDial_quiet _ _) fun _ => .refl r s

theorem State.reconcile_quiet (s : State) (i : Nat) : Quiet r s (s.reconcile i) := by
  unfold State.reconcile
  dsimp only
  exact .ite (fun _ => .refl r s) fun _ => .ite (fun _ => s.setDial_quiet _ _) fun _ =>
    .ite (fun _ => (s.setDial_quiet _ _).trans (State.tryImpulse_quiet _ _)) fun _ => s.setDial_quiet _ _

theorem State.reconcileOrOwe_quiet (s : State) (i : Nat) : Quiet r s (s.reconcileOrOwe i) := by
  unfold State.reconcileOrOwe
  dsimp only
  split
  · exact s.setDial_quiet _ _
  · exact s.reconcile_quiet _

theorem State.reconcileDials_quiet (s : State) : Quiet r s s.reconcileDials :=
  Quiet.eachIndex (fun i s => s.reconcileOrOwe_quiet i) s

theorem State.settleOwed_quiet (s : State) (i : Nat) : Quiet r s (s.settleOwed i) :=
  .ite (fun _ => (s.setDial_quiet _ _).trans (State.reconcile_quiet _ _)) fun _ => .refl r s

theorem State.halfMinute_quiet (s : State) (i : Nat) : Quiet r s (s.halfMinute i) := by
  unfold State.halfMinute
  dsimp only
  split
  · exact .refl r s
  · exact .refl r s
  · exact .refl r s
  · exact .ite (fun _ => .refl r s) fun _ => .ite (fun _ => s.tryImpulse_quiet _) fun _ =>
      (s.setDial_quiet _ _).trans (State.tryImpulse_quiet _ _)
  · exact s.tryImpulse_quiet _
  · exact .ite (fun _ => s.setDial_quiet _ _) fun _ => .refl r s

theorem State.halfMinutes_quiet (s : State) : Quiet r s s.halfMinutes := Quiet.eachIndex (fun i s => s.halfMinute_quiet i) s

theorem State.afterDelivery_quiet (s : State) (i : Nat) : Quiet r s (s.afterDelivery i) := by
  unfold State.afterDelivery
  dsimp only
  exact .ite (fun _ => .refl r s) fun _ => .ite (fun _ => .ite (fun _ => s.setDial_quiet _ _) fun _ =>
    s.tryImpulse_quiet _) fun _ => .refl r s

theorem State.deliverImpulse_quiet (s : State) (i : Nat) : Quiet r s (s.deliverImpulse i) := by
  unfold State.deliverImpulse
  dsimp only
  exact (State.afterDelivery_quiet _ _).after ((State.store_quiet _ _).after (s.setDial_quiet _ _))

theorem State.endImpulse_quiet (s : State) (i : Nat) : Quiet r s (s.endImpulse i) := by
  unfold State.endImpulse
  dsimp only
  split
  · exact .refl r s
  · exact .ite (fun _ => s.deliverImpulse_quiet _) fun _ => .refl r s

theorem State.missCurrent_quiet (s : State) (i : Nat) : Quiet r s (s.missCurrent i) := by
  unfold State.missCurrent
  dsimp only
  split
  · exact .refl r s
  · exact .ite (fun _ => (State.raise_quiet _ _).after ((State.store_quiet _ _).after (s.setDial_quiet _ _)))
      fun _ => .refl r s

theorem State.senseCurrent_quiet (s : State) (i : Nat) : Quiet r s (s.senseCurrent i) := by
  unfold State.senseCurrent
  dsimp only
  split
  · exact .refl r s
  · exact .ite (fun _ => s.setDial_quiet _ _) fun _ => .refl r s

theorem State.applyDial_quiet (s : State) (i : Nat) (a : DialAmend) : Quiet r s (s.applyDial i a) := by
  unfold State.applyDial
  dsimp only
  exact .ite (fun _ => s.setDial_quiet _ _) fun _ => .ite
    (fun _ => (State.reconcileOrOwe_quiet _ _).after (s.setDial_quiet _ _)) fun _ =>
    (State.reconcileOrOwe_quiet _ _).after (s.setDial_quiet _ _)

theorem State.applySetDial_quiet (s : State) (i position : Nat) : Quiet r s (s.applySetDial i position) := by
  unfold State.applySetDial
  dsimp only
  refine (State.store_quiet _ _).after ?_
  exact .ite (fun _ => s.setDial_quiet _ _) fun _ => .ite
    (fun _ => (State.reconcileOrOwe_quiet _ _).after (s.setDial_quiet _ _)) fun _ =>
    (State.reconcileOrOwe_quiet _ _).after (s.setDial_quiet _ _)

theorem State.cutImpulse_quiet (s : State) (i : Nat) : Quiet r s (s.cutImpulse i) := by
  unfold State.cutImpulse
  dsimp only
  split
  · exact s.setDial_quiet _ _
  · exact (State.raise_quiet _ _).after ((State.store_quiet _ _).after (s.setDial_quiet _ _))

theorem State.cutImpulses_quiet (s : State) : Quiet r s s.cutImpulses := Quiet.eachIndex (fun i s => s.cutImpulse_quiet i) s

theorem State.resetDials_quiet (s : State) (keep : Bool) : Quiet r s (s.resetDials keep) :=
  .of_same rfl rfl rfl rfl rfl rfl rfl rfl rfl rfl fun _ => id

/-! ## Field lines (chapter 3) -/

theorem State.onEdge_quiet (s : State) (x : LineRecord) (active : Bool) : Quiet r s (s.onEdge x active) := by
  unfold State.onEdge
  split
  · exact .ite (fun _ => s.busyRises_quiet _) fun _ => s.busyFalls_quiet _
  · exact .ite (fun _ => s.swingPulse_quiet _) fun _ => .refl r s
  · exact .ite (fun _ => s.restCloses_quiet _) fun _ => s.restOpens_quiet _
  · exact .ite (fun _ => s.senseCurrent_quiet _) fun _ => .refl r s
  · exact s.followLocks_quiet
  · exact s.followLock_quiet _
  · exact .refl r s

theorem State.takeEdge_quiet (s : State) (i : Nat) : Quiet r s (s.takeEdge i) := by
  unfold State.takeEdge
  dsimp only
  exact (State.settleContexts_quiet _).after ((State.onEdge_quiet _ _ _).after (s.setLine_quiet _ _))

theorem State.changePin_quiet (s : State) (i : Nat) (high : Bool) (reading : Nat) : Quiet r s (s.changePin i high reading) := by
  unfold State.changePin
  dsimp only
  exact .ite (fun _ => .ite (fun _ => s.setLine_quiet _ _) fun _ => .ite
    (fun _ => (State.takeEdge_quiet _ _).after (s.setLine_quiet _ _)) fun _ => .ite (fun _ => s.setLine_quiet _ _)
    fun _ => s.setLine_quiet _ _) fun _ => s.setLine_quiet _ _

theorem State.resetLines_quiet (s : State) : Quiet r s s.resetLines :=
  .of_same rfl rfl rfl rfl rfl rfl rfl rfl rfl rfl fun _ => id

theorem State.applyLine_quiet (s : State) (i : Nat) (x : LineRecord) : Quiet r s (s.applyLine i x) := by
  unfold State.applyLine
  dsimp only
  refine (State.settleContexts_quiet _).after (.ite (fun _ => ?_) fun _ => (State.emptyWindow_quiet _).after ?_) <;>
  exact (State.followLocks_quiet _).after (s.setLine_quiet _ _)

/-- A walk of the table finds nothing when no occasion passes its test. -/
theorem State.occasionsWhere_eq_nil {s : State} {test : Occasion → Bool}
    (h : ∀ j o, (s.occasionSlot j).record = some o → test o = false) : s.occasionsWhere test = [] := by
  unfold State.occasionsWhere
  induction List.range Config.occasions with
  | nil => rfl
  | cons i l ih =>
    rw [List.foldl_cons]
    split
    · next o ho => rw [h i o ho]; exact ih
    · exact ih

/-- R129: no occasion waits for a context when none that has a due is marked waiting. -/
theorem State.firstWaiting_eq_none {s : State}
    (h : ∀ j o, (s.occasionSlot j).record = some o → (o.waiting && o.due.isSome) = false) : s.firstWaiting = none := by
  rw [State.firstWaiting, State.occasionsWhere_eq_nil h]
  rfl

end Sys2Proof.Machine
end

