-- ==== Sys2Proof/Laws/Exec.lean ====
section
/-! SUPPORT. What the common parts of a command come to: a host request taken at once, an event of a record the part has, and the
settling of contexts where none is to be settled, and the end of a motor run. -/

namespace Sys2Proof.Machine

variable {s t : State}

/-- R179 to R182: with the link OPEN and SEL released, a request is taken and worked at once. -/
theorem State.hostRequest_ready (h : s.HostReady) (dt : Nat) (r : Request) :
    (s.elapse dt).hostRequest r = ((s.elapse dt).working r).work r := by
  have h1 : s.time.power = .mains := h.mains
  have h2 : s.link.sel = false := h.notSelected
  have h3 : s.link.inProgress = none := h.noRequest
  have h4 : s.memory.writes = [] := h.noWrite
  have h5 : s.hammers.gate = .closed := h.gateClosed
  unfold State.hostRequest
  rw [if_pos ⟨h1, h2⟩, if_pos]
  · unfold State.takeTask
    rw [if_pos (by simp [State.elapse, h4])]
    rfl
  · simp [State.linkOpen, State.elapse, h3, h4, h5]

theorem happen_hostRequest (h : s.HostReady) (dt : Nat) (r : Request) :
    happen dt (fun s => s.hostRequest r) s = .next (((s.elapse dt).working r).work r) := by
  exact congrArg Host.Outcome.next (State.hostRequest_ready h dt r)

/-- An event of a record the part has, in MAINS. -/
theorem happenAt_mains {act : State → State} {i bound : Nat} (dt : Nat) (hi : i < bound) (h : s.time.power = .mains) :
    happenAt dt i bound (fun s => s.whenMains act) s = .next (act (s.elapse dt)) := by
  unfold happenAt State.whenMains
  rw [if_pos hi]
  exact congrArg Host.Outcome.next (if_pos (show (s.elapse dt).inMains from h))

theorem happen_mains {act : State → State} (dt : Nat) (h : s.time.power = .mains) :
    happen dt (fun s => s.whenMains act) s = .next (act (s.elapse dt)) := by
  exact congrArg Host.Outcome.next (if_pos (show (s.elapse dt).inMains from h))

/-- R136, R129: where no context is to be freed or offered, the settling at the end of a command changes nothing. -/
theorem State.settleContexts_settled (h : s.Settled) : s.settleContexts = s := by
  unfold State.settleContexts
  rw [show (1024 : Nat) = 1023 + 1 from rfl, settleLoop, h.1]
  dsimp only
  rcases h.2 with k | k <;> rw [k]
  split
  · rename_i e; cases e
  · rfl

/-- The same of a state whose calendar is that of a settled one. -/
theorem State.settleContexts_of_calendar (h : s.Settled) (k : t.calendar = s.calendar) : t.settleContexts = t := by
  apply State.settleContexts_settled
  have h1 : t.doneContext = s.doneContext := by simp only [State.doneContext, State.context, k]
  have h2 : t.freeContext = s.freeContext := by simp only [State.freeContext, State.context, k]
  have h3 : t.firstWaiting = s.firstWaiting := by
    simp only [State.firstWaiting, State.occasionsWhere, State.occasionSlot, k]
  rw [State.Settled, h1, h2, h3]
  exact h

/-! ## The end of a motor run -/

/-- R171, R173: what ending a claim does. -/
theorem State.endClaim_eq (s : State) (b : Nat) : s.endClaim b = s.claimEnded b := by
  unfold State.endClaim State.claimEnded
  have : (s.feeder.admitted.any (fun r => r.bell == b) || s.feeder.asks.head?.any (fun a => a.bell == b)) = true ↔
     ((∃ r ∈ s.feeder.admitted, r.bell = b) ∨ (∃ a ∈ s.feeder.asks.head?, a.bell = b)) := by
    simp [Option.any_eq_true]
  by_cases h : (∃ r ∈ s.feeder.admitted, r.bell = b) ∨ (∃ a ∈ s.feeder.asks.head?, a.bell = b)
  · simp only [if_pos h, if_pos (this.2 h)]
  · simp only [if_neg h, if_neg (fun k => h (this.1 k))]

theorem State.outcomeTold_context (s : State) (c : Context) (j : Nat) (x : Outcome) (k : Nat) :
    (s.outcomeTold c j x).context k = s.context k := by
  unfold State.outcomeTold
  cases s.findOccasion c.occasion with
  | none => rfl
  | some o => dsimp only; split_ifs <;> rfl

/-- R135: what setting an outcome entry does, in a context that stands. -/
theorem State.setOutcome_eq {s : State} {k : Nat} {c : Context} (h : s.context k = some c) (j : Nat) (x : Outcome) :
    s.setOutcome k j x = s.outcomeTold c j x := by
  unfold State.setOutcome State.outcomeTold
  rw [h]
  dsimp only
  cases hf : s.findOccasion c.occasion with
  | none => rfl
  | some o =>
    have hg : c.occasion.gen = (s.occasionSlot c.occasion.slot).gen ∧ (s.occasionSlot c.occasion.slot).record = some o := by
      rw [State.findOccasion, Slot.named] at hf
      by_cases e : c.occasion.gen = (s.occasionSlot c.occasion.slot).gen
      · exact ⟨e, (if_pos e).symm.trans hf⟩
      · rw [if_neg e] at hf; cases hf
    have e (y : Occasion) : o = y ↔ y = o := eq_comm
    simp only [State.raiseIf, State.putOccasion, Outcome.isRaised, hg.2, ← hg.1, Option.some.injEq, e, Bool.or_eq_true, beq_iff_eq]

/-- R135: what a final report does to an action and its outcome entry. -/
theorem State.finishAction_eq (s : State) (k j : Nat) (x : Outcome) : s.finishAction k j x = s.actionTold k j x := by
  unfold State.finishAction State.actionTold
  cases hc : s.context k with
  | none => simp only [State.setOutcome, State.setPhase, hc]
  | some c =>
    have ht : (s.outcomeTold c j x).context k = some c := (s.outcomeTold_context _ _ _ _).trans hc
    cases ha : c.actions[j]? <;> simp only [State.setOutcome_eq hc, State.setPhase, ht, ha]

/-- R57, R135: what a final report of a motor run does to one source. -/
theorem State.reportMotor_eq (s : State) (b : Nat) (r : MotorReport) (x : MotorSource) : s.reportMotor b r x = s.sourceTold b r x := by
  cases x with
  | command => rfl
  | action k j =>
    have hx : r.outcome = motorOutcome r := by cases r <;> rfl
    exact (congrArg (s.finishAction k j) hx).trans (s.finishAction_eq k j _)

/-- R54, R56: what ending a run that is not OFF does. -/
theorem State.endRun_eq (s : State) (b : Nat) (r : MotorReport) (h : (s.bell b).motor ≠ .off) :
    s.endRun b r = s.runEnded b (s.bell b).motor.sources r := by
  have k : (fun (t : State) x => t.sourceTold b r x) = fun t x => t.reportMotor b r x := by
    funext t x; exact (State.reportMotor_eq t b r x).symm
  unfold State.endRun State.runEnded
  rw [← State.endClaim_eq, k]
  dsimp only
  cases hm : (s.bell b).motor with
  | off => exact absurd hm h
  | pending => rfl
  | running => rfl

end Sys2Proof.Machine
end

