-- ==== Sys2Proof/Laws/Contexts.lean ====
section
/-! SUPPORT. The settling of contexts (R136, R129): each pass of `settleLoop` ends the wait of an occasion or frees a context, so the
loop comes to its end long before its fuel does. -/

namespace Sys2Proof.Machine

variable {s t u : State}

/-- The occasion of a slot waits for a context with a due (R129). -/
def State.waitsAt (s : State) (j : Nat) : Bool := (s.occasionSlot j).record.any fun o => o.waiting && o.due.isSome

/-- `t` follows `s` with no occasion waiting anew and the same contexts held. -/
structure Held (s t : State) : Prop where
  waits : ∀ j, t.waitsAt j = true → s.waitsAt j = true
  contexts : ∀ k, (t.context k).isSome = (s.context k).isSome

namespace Held

theorem refl (s : State) : Held s s := ⟨fun _ => id, fun _ => rfl⟩
theorem trans (h : Held s t) (k : Held t u) : Held s u :=
  ⟨fun j => h.waits j ∘ k.waits j, fun j => (k.contexts j).trans (h.contexts j)⟩
theorem after (k : Held t u) (h : Held s t) : Held s u := h.trans k

theorem of_calendar (h : t.calendar = s.calendar) : Held s t :=
  ⟨fun j => by simp only [State.waitsAt, State.occasionSlot, h]; exact id, fun k => by simp only [State.context, h]⟩

theorem ite {c : Prop} [Decidable c] (h : c → Held s t) (k : ¬c → Held s u) : Held s (if c then t else u) := by
  split
  · exact h ‹_›
  · exact k ‹_›

theorem foldl {α : Type} {f : State → α → State} (l : List α) (h : ∀ s x, Held s (f s x)) (s : State) : Held s (l.foldl f s) := by
  induction l generalizing s with
  | nil => exact refl s
  | cons x l ih => exact (h s x).trans (ih _)

end Held

/-! ## Reports and the blocks (R94, R135) -/

/-- A record put in the place of one that waits as it does. -/
theorem State.putOccasion_held (s : State) (slot : Nat) (o : Occasion)
    (h : (o.waiting && o.due.isSome) = true → s.waitsAt slot = true) : Held s (s.putOccasion slot o) := by
  unfold State.putOccasion
  refine .ite (fun _ => .refl s) fun _ => ⟨fun j hj => ?_, fun k => rfl⟩
  simp only [State.store, State.askWrite, State.waitsAt, State.occasionSlot] at hj
  change ((s.setOccasionSlot slot _).occasionSlot j).record.any _ = true at hj
  rw [State.occasionSlot_setOccasionSlot] at hj
  split at hj
  · rename_i e
    rw [← e.1]
    exact h (by simpa using hj)
  · exact hj

theorem State.setContext_held (s : State) (k : Nat) (x : Option Context) (h : x.isSome = (s.context k).isSome) :
    Held s (s.setContext k x) := by
  refine ⟨fun j => id, fun j => ?_⟩
  rw [State.context_setContext]
  split
  · rename_i e; rw [h, e.1]
  · rfl

theorem State.setPhase_held (s : State) (k j : Nat) (x : ActionPhase) : Held s (s.setPhase k j x) := by
  unfold State.setPhase
  split
  · exact .refl s
  · rename_i c hc
    split
    · exact .refl s
    · exact s.setContext_held _ _ (by rw [hc]; rfl)

theorem State.waitsAt_named {h : Handle} {o : Occasion} (e : s.findOccasion h = some o) :
    s.waitsAt h.slot = (o.waiting && o.due.isSome) := by
  rw [State.findOccasion, Slot.named] at e
  by_cases g : h.gen = (s.occasionSlot h.slot).gen
  · rw [State.waitsAt, (if_pos g).symm.trans e]; rfl
  · rw [if_neg g] at e; cases e

theorem State.raiseIf_held (s : State) (b : Bool) (c : Condition) : Held s (s.raiseIf b c) := by
  unfold State.raiseIf
  exact .ite (fun _ => .of_calendar rfl) fun _ => .refl s

theorem State.setOutcome_held (s : State) (k j : Nat) (x : Outcome) : Held s (s.setOutcome k j x) := by
  unfold State.setOutcome
  split
  · exact .refl s
  · split
    · exact .refl s
    · rename_i o ho
      exact (State.raiseIf_held _ _ _).after (s.putOccasion_held _ _ fun h => (State.waitsAt_named ho).trans h)

theorem State.finishAction_held (s : State) (k j : Nat) (x : Outcome) : Held s (s.finishAction k j x) :=
  (s.setOutcome_held k j x).trans (State.setPhase_held _ _ _ _)

theorem State.reportToAction_held (s : State) (k j n : Nat) (x : EntryReport) (m : Nat) (d : Bool) :
    Held s (s.reportToAction k j n x m d) := by
  cases x with
  | queued => exact (s.setPhase_held _ _ _).trans (State.setOutcome_held _ _ _ _)
  | started => exact s.setOutcome_held _ _ _
  | _ => exact s.finishAction_held _ _ _

theorem State.reportToClock_calendar (s : State) (source : ClockSource) (mark : Nat) (x : EntryReport) (started : Bool) (m : Nat) :
    (s.reportToClock source mark x started m).calendar = s.calendar := by
  unfold State.reportToClock State.raiseIf
  dsimp only
  split <;> rfl

theorem State.reportEntry_held (s : State) (e : Entry) (x : EntryReport) (m : Nat) (d : Bool) : Held s (s.reportEntry e x m d) := by
  unfold State.reportEntry
  split
  · exact .of_calendar (s.reportToClock_calendar _ _ _ _ _)
  · exact .of_calendar (s.reportToClock_calendar _ _ _ _ _)
  · exact s.reportToAction_held _ _ _ _ _ _
  · exact .ite (fun _ => .of_calendar rfl) fun _ => .refl s

theorem State.reportToll_held (s : State) (c : Nat) (r : TollRun) (x : EntryReport) : Held s (s.reportToll c r x) := by
  unfold State.reportToll
  split
  · exact s.reportToAction_held _ _ _ _ _ _
  · exact .ite (fun _ => .of_calendar rfl) fun _ => .refl s

theorem State.reportMotorStarted_held (s : State) (x : MotorSource) : Held s (s.reportMotorStarted x) := by
  unfold State.reportMotorStarted
  split
  · exact s.setOutcome_held _ _ _
  · exact .refl s

/-! ## Tunes and the sequencer (R81, R82, R89 to R95) -/

theorem State.freeTune_calendar (s : State) (slot : Nat) : (s.freeTune slot).calendar = s.calendar := by
  unfold State.freeTune; split <;> rfl

theorem State.dropRef_calendar (s : State) (h : Handle) : (s.dropRef h).calendar = s.calendar := by
  unfold State.dropRef
  split
  · rfl
  · dsimp only
    split
    · rw [State.freeTune_calendar]; rfl
    · rfl

theorem State.dropEntryRef_calendar (s : State) (e : Entry) : (s.dropEntryRef e).calendar = s.calendar := by
  unfold State.dropEntryRef
  split <;> first | exact s.dropRef_calendar _ | rfl

theorem State.takeRef_calendar (s : State) (h : Handle) : (s.takeRef h).calendar = s.calendar := by
  unfold State.takeRef; split <;> rfl

theorem State.beginPerformance_held (s : State) (e : Entry) : Held s (s.beginPerformance e) := by
  unfold State.beginPerformance
  exact .ite (fun _ => .of_calendar rfl) fun _ => (State.reportEntry_held _ _ _ _ _).after (.of_calendar rfl)

theorem dequeueFrom_held (q : List Entry) (s : State) : Held s (dequeueFrom q s) := by
  induction q generalizing s with
  | nil => exact .of_calendar rfl
  | cons e rest ih =>
    unfold dequeueFrom
    refine .ite (fun _ => ?_) fun _ => (State.beginPerformance_held _ _).after (.of_calendar rfl)
    exact (ih _).after ((s.reportEntry_held _ _ _ _).trans (.of_calendar (State.dropEntryRef_calendar _ _)))

theorem State.dequeue_held (s : State) : Held s s.dequeue := by
  unfold State.dequeue
  split
  · exact .refl s
  · exact dequeueFrom_held _ s

theorem State.placeArrival_held (s : State) (e : Entry) : Held s (s.placeArrival e) := by
  unfold State.placeArrival
  dsimp only
  have h : Held s (State.reportEntry { s with chime.queue := insertEntry s.chime.queue e } e .queued) :=
    (State.reportEntry_held _ _ _ _ _).after (.of_calendar rfl)
  split
  · exact h.trans (State.dequeue_held _)
  · refine h.trans (.of_calendar ?_)
    unfold State.testPreemption
    split
    · rfl
    · split <;> rfl

theorem State.unqueue_held (s : State) (n : Nat) : Held s (s.unqueue n) := .of_calendar rfl

theorem State.displaceEntry_held (s : State) (e : Entry) : Held s (s.displaceEntry e) :=
  ((s.unqueue_held _).trans (State.reportEntry_held _ _ _ _ _)).trans (.of_calendar (State.dropEntryRef_calendar _ _))

theorem State.settleArrival_held (s : State) (e : Entry) : Held s (s.settleArrival e).1 := by
  unfold State.settleArrival
  split
  · exact s.placeArrival_held e
  · split
    · exact s.placeArrival_held e
    · split
      · exact (s.displaceEntry_held _).trans (State.placeArrival_held _ _)
      · exact (s.reportEntry_held _ _ _ _).trans (.of_calendar (State.dropEntryRef_calendar _ _))

theorem State.admitArrival_held (s : State) (e : Entry) : Held s (s.admitArrival e).1 := by
  unfold State.admitArrival
  have h := s.settleArrival_held e
  generalize s.settleArrival e = x at h
  obtain ⟨t, b⟩ := x
  cases b <;> exact h

theorem State.arrive_held (s : State) (e : Entry) : Held s (s.arrive e).1 := by
  unfold State.arrive
  dsimp only
  have c : Held s s.countArrival := .of_calendar rfl
  split
  · exact c.trans (State.admitArrival_held _ _)
  · split
    · exact c.trans (State.reportEntry_held _ _ _ _ _)
    · exact (c.trans (.of_calendar (State.takeRef_calendar _ _))).trans (State.admitArrival_held _ _)

theorem State.removeEntry_held (s : State) (e : Entry) : Held s (s.removeEntry e) :=
  ((s.unqueue_held _).trans (State.reportEntry_held _ _ _ _ _)).trans (.of_calendar (State.dropEntryRef_calendar _ _))

theorem State.silence_held (s : State) (minutes : Nat) : Held s (s.silence minutes) := by
  unfold State.silence
  dsimp only
  exact (Held.foldl _ (fun s e => s.removeEntry_held e) _).after (.of_calendar rfl)

theorem State.acceptToll_held (s : State) (c bell interval blows velocity : Nat) (x : TollSource) :
    Held s (s.acceptToll c bell interval blows velocity x) := by
  have h : Held s (s.setToll c (some (newToll (s.chime.tollsTaken + 1) s.nowMs bell interval blows velocity x))).countToll :=
    .of_calendar rfl
  exact h.trans (State.reportToll_held _ _ _ _)

/-! ## Motors and scenes (R52, R152 to R154, R162) -/

theorem admitHeads_calendar (l : List Ask) (s : State) : (admitHeads l s).calendar = s.calendar := by
  induction l generalizing s with
  | nil => rfl
  | cons a rest ih =>
    unfold admitHeads
    split
    · rw [ih]; rfl
    · rfl

theorem State.acceptSwing_held (s : State) (bell minutes : Nat) (x : MotorSource) : Held s (s.acceptSwing bell minutes x) := by
  unfold State.acceptSwing
  dsimp only
  split
  · refine .of_calendar ?_
    unfold State.ask
    dsimp only
    split
    · exact admitHeads_calendar _ _
    · rfl
  · exact .of_calendar rfl
  · exact .ite (fun _ => .of_calendar rfl) fun _ => (State.reportMotorStarted_held _ _).after (.of_calendar rfl)

theorem State.leaveStack_calendar (s : State) (h : Handle) : (s.leaveStack h).calendar = s.calendar := by
  unfold State.leaveStack
  dsimp only
  split <;> rfl

theorem State.raiseScene_calendar (s : State) (h : Handle) : (s.raiseScene h).1.calendar = s.calendar := by
  unfold State.raiseScene
  split
  · rfl
  · split
    · rfl
    · split
      · split <;> rfl
      · split
        · rfl
        · split
          · exact s.leaveStack_calendar _
          · split
            · exact s.leaveStack_calendar _
            · rfl

theorem State.makeStanding_calendar (s : State) (h : Handle) (m : Nat) (c : Creator) :
    (s.makeStanding h m c).1.calendar = s.calendar := by
  unfold State.makeStanding
  dsimp only
  split
  · rfl
  · split <;> rfl

theorem State.lowerAndRemove_calendar (s : State) (h : Handle) : (s.lowerAndRemove h).calendar = s.calendar := by
  have l : (s.lowerScene h).calendar = s.calendar := by
    unfold State.lowerScene
    split
    · rfl
    · split <;> rfl
  unfold State.lowerAndRemove State.removeStanding
  split
  · exact l
  · exact l

/-! ## Actions (R132 to R134) -/

theorem State.startAction_held (s : State) (c : Context) (o : Occasion) (k j : Nat) (a : ContextAction) (holds : Bool) :
    Held s (s.startAction c o k j a holds) := by
  unfold State.startAction
  split
  · unfold State.startPlay
    dsimp only
    refine .ite (fun _ => s.arrive_held _) fun _ => (State.finishAction_held _ _ _ _).after ?_
    exact .ite (fun _ => .of_calendar (s.dropRef_calendar _)) fun _ => .refl s
  · unfold State.startToll
    split
    · exact s.finishAction_held _ _ _
    · exact (s.setPhase_held _ _ _).trans (State.acceptToll_held _ _ _ _ _ _ _)
  · unfold State.startSwingAction
    split
    · exact s.finishAction_held _ _ _
    · exact (s.setPhase_held _ _ _).trans (State.acceptSwing_held _ _ _ _)
  · unfold State.sceneUp
    split
    · rename_i scene hold _ _
      have h := s.raiseScene_calendar scene
      generalize s.raiseScene scene = x at h
      obtain ⟨t, r⟩ := x
      cases r
      · dsimp only
        exact (State.finishAction_held _ _ _ _).after (.of_calendar ((State.makeStanding_calendar _ _ _ _).trans h))
      all_goals exact (State.finishAction_held _ _ _ _).after (.of_calendar h)
    · exact s.finishAction_held _ _ _
  · unfold State.sceneDown
    exact .ite (fun _ => (State.finishAction_held _ _ _ _).after (.of_calendar (s.lowerAndRemove_calendar _)))
      fun _ => s.finishAction_held _ _ _
  · exact (s.silence_held _).trans (State.finishAction_held _ _ _ _)

theorem State.startIfDue_held (s : State) (k j : Nat) : Held s (s.startIfDue k j) := by
  unfold State.startIfDue
  split
  · exact .refl s
  · split
    · split
      · exact .ite (fun _ => s.startAction_held _ _ _ _ _ _) fun _ => .refl s
      all_goals exact .refl s
    · exact .refl s

/-- R132: starting the actions of a context makes no occasion wait and neither takes nor frees a context. -/
theorem State.startDueActions_held (s : State) (k : Nat) : Held s (s.startDueActions k) :=
  Held.foldl _ (fun s j => s.startIfDue_held k j) s

/-! ## The loop (R136, R129) -/

theorem mem_insertDue {x y : Nat × Occasion} {l : List (Nat × Occasion)} (h : x ∈ insertDue y l) : x = y ∨ x ∈ l := by
  induction l with
  | nil => exact .inl (List.mem_singleton.1 h)
  | cons z rest ih =>
    unfold insertDue at h
    split at h
    · exact List.mem_cons.1 h
    · rcases List.mem_cons.1 h with rfl | h
      · exact .inr (List.mem_cons_self ..)
      · exact (ih h).imp_right (List.mem_cons_of_mem _)

/-- What stands in a due-list selection is the record of an occupied slot that passes the test. -/
theorem State.mem_occasionsWhere {test : Occasion → Bool} {x : Nat × Occasion} (h : x ∈ s.occasionsWhere test) :
    x.1 < Config.occasions ∧ (s.occasionSlot x.1).record = some x.2 ∧ test x.2 = true := by
  unfold State.occasionsWhere at h
  have go (l : List Nat) (acc : List (Nat × Occasion))
      (h : x ∈ l.foldl (fun acc i => match (s.occasionSlot i).record with
        | some o => if test o then insertDue (i, o) acc else acc
        | none => acc) acc) :
      x ∈ acc ∨ (x.1 ∈ l ∧ (s.occasionSlot x.1).record = some x.2 ∧ test x.2 = true) := by
    induction l generalizing acc with
    | nil => exact .inl h
    | cons i rest ih =>
      rcases ih _ h with h | ⟨a, b⟩
      · dsimp only at h
        split at h
        · rename_i o ho
          split at h
          · rename_i ht
            rcases mem_insertDue h with rfl | h
            · exact .inr ⟨List.mem_cons_self .., ho, ht⟩
            · exact .inl h
          · exact .inl h
        · exact .inl h
      · exact .inr ⟨List.mem_cons_of_mem _ a, b⟩
  rcases go _ _ h with h | ⟨a, b⟩
  · cases h
  · exact ⟨List.mem_range.1 a, b⟩

theorem State.firstWaiting_spec {i : Nat} {o : Occasion} (h : s.firstWaiting = some (i, o)) :
    i < Config.occasions ∧ (s.occasionSlot i).record = some o ∧ o.waiting = true ∧ o.due.isSome = true := by
  have := State.mem_occasionsWhere (List.mem_of_mem_head? h)
  simpa using this

/-- Twice the occasions that wait, and the contexts that are held: each pass of `settleLoop` lowers it. -/
def State.unsettled (s : State) : Nat :=
  2 * ((Finset.range Config.occasions).filter fun j => s.waitsAt j = true).card
    + ((Finset.range Config.contexts).filter fun k => (s.context k).isSome = true).card

theorem State.unsettled_le (s : State) : s.unsettled ≤ 520 := by
  have a := Finset.card_filter_le (Finset.range Config.occasions) fun j => s.waitsAt j = true
  have b := Finset.card_filter_le (Finset.range Config.contexts) fun k => (s.context k).isSome = true
  simp only [Finset.card_range, Config.occasions, Config.contexts] at a b
  unfold State.unsettled
  simp only [Config.occasions, Config.contexts]
  omega

theorem Held.unsettled_le (h : Held s t) : t.unsettled ≤ s.unsettled := by
  unfold State.unsettled
  simp only [h.contexts]
  have := Finset.card_le_card (Finset.monotone_filter_right (Finset.range Config.occasions)
    (p := fun j => t.waitsAt j = true) (q := fun j => s.waitsAt j = true) fun j _ => h.waits j)
  omega

theorem State.putOccasion_context (s : State) (slot : Nat) (o : Occasion) (k : Nat) : (s.putOccasion slot o).context k = s.context k := by
  unfold State.putOccasion; split <;> rfl

theorem State.putOccasion_waitsAt (s : State) {slot : Nat} (h : slot < Config.occasions) (o : Occasion) :
    (s.putOccasion slot o).waitsAt slot = (o.waiting && o.due.isSome) := by
  unfold State.putOccasion
  split
  · rename_i e; rw [State.waitsAt, e]; rfl
  · change ((s.setOccasionSlot slot _).occasionSlot slot).record.any _ = _
    rw [State.occasionSlot_setOccasionSlot_same _ _ _ h]
    rfl

/-- A context that stood is freed and nothing begins to wait. -/
theorem unsettled_lt_of_freed {k : Nat} (hk : k < Config.contexts) (h : (s.context k).isSome = true) (f : t.context k = none)
    (o : ∀ m, m ≠ k → t.context m = s.context m) (w : ∀ j, t.waitsAt j = true → s.waitsAt j = true) : t.unsettled < s.unsettled := by
  have a := Finset.card_le_card (Finset.monotone_filter_right (Finset.range Config.occasions)
    (p := fun j => t.waitsAt j = true) (q := fun j => s.waitsAt j = true) fun j _ => w j)
  have b : ((Finset.range Config.contexts).filter fun m => (t.context m).isSome = true).card
      < ((Finset.range Config.contexts).filter fun m => (s.context m).isSome = true).card := by
    refine Finset.card_lt_card ((Finset.ssubset_iff_of_subset fun m hm => ?_).2 ⟨k, by simp [hk, h], by simp [f]⟩)
    have := Finset.mem_filter.1 hm
    rcases Decidable.em (m = k) with rfl | e
    · rw [f] at this; exact absurd this.2 nofun
    · exact Finset.mem_filter.2 ⟨this.1, (o m e) ▸ this.2⟩
  unfold State.unsettled
  omega

/-- An occasion that waited waits no longer and at most one context more is held. -/
theorem unsettled_lt_of_served {i k : Nat} (hi : i < Config.occasions) (h : s.waitsAt i = true) (f : t.waitsAt i = false)
    (w : ∀ j, t.waitsAt j = true → s.waitsAt j = true) (o : ∀ m, m ≠ k → t.context m = s.context m) : t.unsettled < s.unsettled := by
  have a : ((Finset.range Config.occasions).filter fun j => t.waitsAt j = true).card
      < ((Finset.range Config.occasions).filter fun j => s.waitsAt j = true).card := by
    refine Finset.card_lt_card ((Finset.ssubset_iff_of_subset fun j hj => ?_).2 ⟨i, by simp [hi, h], by simp [f]⟩)
    have := Finset.mem_filter.1 hj
    exact Finset.mem_filter.2 ⟨this.1, w j this.2⟩
  have b : ((Finset.range Config.contexts).filter fun m => (t.context m).isSome = true).card
      ≤ ((Finset.range Config.contexts).filter fun m => (s.context m).isSome = true).card + 1 := by
    refine (Finset.card_le_card (t := insert k _) fun m hm => ?_).trans (Finset.card_insert_le k _)
    have := Finset.mem_filter.1 hm
    rcases Decidable.em (m = k) with rfl | e
    · exact Finset.mem_insert_self ..
    · exact Finset.mem_insert_of_mem (Finset.mem_filter.2 ⟨this.1, (o m e) ▸ this.2⟩)
  unfold State.unsettled
  omega

theorem State.releaseContext_unsettled {k : Nat} (h : s.doneContext = some k) : (s.releaseContext k).unsettled < s.unsettled := by
  obtain ⟨hk, hc⟩ : k < Config.contexts ∧ (s.context k).any Context.isDone = true :=
    ⟨List.mem_range.1 (List.mem_of_find?_eq_some h), List.find?_some (p := fun i => (s.context i).any Context.isDone) h⟩
  obtain ⟨c, hc, -⟩ := Option.any_eq_true _ _ |>.1 hc
  unfold State.releaseContext
  rw [hc]
  dsimp only
  have e : ∀ m, ((s.setContext k none).leaveContext c.occasion).context m = (s.setContext k none).context m := fun m => by
    unfold State.leaveContext
    split
    · rfl
    · split <;> first | rfl | exact State.putOccasion_context _ _ _ _
  refine unsettled_lt_of_freed hk (by rw [hc]; rfl) ?_ (fun m hm => ?_) fun j hj => ?_
  · rw [e, State.context_setContext_same _ _ _ hk]
  · rw [e, State.context_setContext_other _ _ _ _ (Ne.symm hm)]
  · change (s.setContext k none).waitsAt j = true
    unfold State.leaveContext at hj
    split at hj
    · exact hj
    · rename_i o ho
      have put (x : Occasion) (hx : (x.waiting && x.due.isSome) = (o.waiting && o.due.isSome))
          (hj : ((s.setContext k none).putOccasion c.occasion.slot x).waitsAt j = true) : (s.setContext k none).waitsAt j = true :=
        (State.putOccasion_held _ _ _ fun h => (State.waitsAt_named ho).trans (hx.symm.trans h)).waits j hj
      split at hj
      · change (((s.setContext k none).setOccasionSlot _ _).occasionSlot j).record.any _ = true at hj
        rw [State.occasionSlot_setOccasionSlot] at hj
        split at hj
        · cases hj
        · exact hj
      all_goals exact put _ (by rfl) hj

theorem takeActions_calendar (due : Nat) (l : List Action) (s : State) : (takeActions due l s).1.calendar = s.calendar := by
  induction l generalizing s with
  | nil => rfl
  | cons a rest ih =>
    unfold takeActions
    dsimp only
    rw [ih]
    unfold State.takeForAction
    dsimp only
    split
    · split
      · exact s.takeRef_calendar _
      · rfl
    · rfl

/-- A record that waits no longer is put in the place of one that waited. -/
theorem State.putOccasion_unsettled {i k : Nat} (o : Occasion) (hi : i < Config.occasions) (h : s.waitsAt i = true)
    (hu : ∀ j, u.waitsAt j = s.waitsAt j) (hc : ∀ m, m ≠ k → u.context m = s.context m) (ho : o.waiting = false) :
    (u.putOccasion i o).unsettled < s.unsettled := by
  refine unsettled_lt_of_served hi h ?_ (fun j hj => ?_) fun m hm => (State.putOccasion_context _ _ _ _).trans (hc m hm)
  · rw [State.putOccasion_waitsAt _ hi, ho]; rfl
  · rw [← hu]
    exact (State.putOccasion_held _ _ _ fun _ => (hu i).trans h).waits j hj

theorem State.withNextDue_waiting (s : State) (o : Occasion) : (s.withNextDue o).waiting = false := rfl

theorem State.missOccasion_unsettled {i : Nat} (o : Occasion) (hi : i < Config.occasions) (h : s.waitsAt i = true) :
    (s.missOccasion i o).unsettled < s.unsettled := by
  unfold State.missOccasion
  exact (Held.unsettled_le (.of_calendar rfl)).trans_lt
    (State.putOccasion_unsettled (k := 0) _ hi h (fun _ => rfl) (fun _ _ => rfl) (s.withNextDue_waiting _))

theorem State.fire_unsettled {i : Nat} (k : Nat) (o : Occasion) (due : Nat) (hi : i < Config.occasions) (h : s.waitsAt i = true) :
    (s.fire i k o due).unsettled < s.unsettled := by
  unfold State.fire
  have c := takeActions_calendar due o.config.actions s
  generalize takeActions due o.config.actions s = x at c
  obtain ⟨u, l⟩ := x
  dsimp only at c ⊢
  refine (Held.unsettled_le (State.startDueActions_held _ _)).trans_lt
    (State.putOccasion_unsettled (k := k) _ hi h (fun j => ?_) (fun m hm => ?_) (State.withNextDue_waiting _ _))
  · change u.waitsAt j = s.waitsAt j
    simp only [State.waitsAt, State.occasionSlot, c]
  · rw [State.context_setContext_other _ _ _ _ (Ne.symm hm)]
    simp only [State.context, c]

theorem State.offerContext_unsettled (k : Nat) {i : Nat} {o : Occasion} (h : s.firstWaiting = some (i, o)) :
    (s.offerContext k).unsettled < s.unsettled := by
  obtain ⟨hi, hr, hw, hd⟩ := State.firstWaiting_spec h
  have waits : s.waitsAt i = true := by rw [State.waitsAt, hr]; simp [hw, hd]
  obtain ⟨d, hd⟩ := Option.isSome_iff_exists.1 hd
  unfold State.offerContext
  rw [h]
  dsimp only
  rw [hd]
  dsimp only
  split
  · exact State.missOccasion_unsettled o hi waits
  · exact State.fire_unsettled k o d.instant hi waits

/-- The loop comes to its end before its fuel does, so any fuel that is enough answers the same. -/
theorem settleLoop_enough {n m : Nat} (hn : s.unsettled < n) (hm : s.unsettled < m) : settleLoop n s = settleLoop m s := by
  induction n generalizing s m with
  | zero => omega
  | succ n ih =>
    obtain ⟨m, rfl⟩ : ∃ k, m = k + 1 := ⟨m - 1, by omega⟩
    rw [settleLoop, settleLoop]
    split
    · rename_i k hk
      have := State.releaseContext_unsettled hk
      exact ih (by omega) (by omega)
    · split
      · rename_i k x _ hx
        have := State.offerContext_unsettled (i := x.1) (o := x.2) k hx
        exact ih (by omega) (by omega)
      · rfl

/-- R136, R129: one pass less of the loop settles the contexts as well. -/
theorem settleLoop_settles (s : State) : settleLoop 1023 s = s.settleContexts :=
  settleLoop_enough (by have := s.unsettled_le; omega) (by have := s.unsettled_le; omega)

end Sys2Proof.Machine
end

