-- ==== Sys2Proof/Laws/Decode.lean ====
section
/-! SUPPORT. What each reader of a payload can read (R184, section 11.5): a reader that answers a field has read exactly that field's
bytes, and the field fits them. -/

namespace Sys2Proof

open Machine

/-- A reader answers only fields that fit, each from its own bytes, and leaves the bytes after them. -/
def ReadsOnly {α : Type} (f : List Byte → Option (α × List Byte)) (bytes : α → List Byte) (fits : α → Bool) : Prop :=
  ∀ {b x c}, f b = some (x, c) → b = bytes x ++ c ∧ fits x = true

/-! ## Fields -/

theorem read8_only : ReadsOnly read8 u8 byteOk := by
  intro b n c h
  match b, h with
  | x :: b, h =>
    simp only [read8, readNat, Option.map_some, pow_zero, mul_one, add_zero, Option.some.injEq, Prod.mk.injEq] at h
    obtain ⟨rfl, rfl⟩ := h
    have := x.isLt
    simp [u8, byteOk]; omega

theorem read16_only : ReadsOnly read16 u16 wordOk := by
  intro b n c h
  match b, h with
  | [x], h => simp [read16, readNat] at h
  | x :: y :: b, h =>
    simp only [read16, readNat, Option.map_some, pow_zero, pow_one, mul_one, add_zero, Option.some.injEq, Prod.mk.injEq] at h
    obtain ⟨rfl, rfl⟩ := h
    have h1 := x.isLt
    have h2 := y.isLt
    refine ⟨?_, by simp [wordOk]; omega⟩
    simp only [u16, bytesOf, List.nil_append, List.cons_append, List.cons.injEq, and_true]
    constructor <;> apply BitVec.eq_of_toNat_eq <;> simp <;> omega

theorem readSigned1_only : ReadsOnly (readSigned 1) (signed 1) signedByteOk := by
  intro b x c h
  obtain ⟨⟨n, d⟩, h1, he⟩ := Option.map_eq_some_iff.1 h
  obtain ⟨rfl, hn⟩ := read8_only h1
  simp only [Prod.mk.injEq] at he
  obtain ⟨rfl, rfl⟩ := he
  simp only [byteOk, decide_eq_true_eq] at hn
  refine ⟨?_, by simp only [signedByteOk, decide_eq_true_eq]; split <;> omega⟩
  have : ((if 2 * n < 256 ^ 1 then (n : Int) else (n : Int) - (256 ^ 1 : Nat)) % (256 ^ 1 : Nat)).toNat = n := by split <;> omega
  simp only [signed, this, u8, bytesOf, List.nil_append]

theorem readSigned2_only : ReadsOnly (readSigned 2) (signed 2) signedWordOk := by
  intro b x c h
  obtain ⟨⟨n, d⟩, h1, he⟩ := Option.map_eq_some_iff.1 h
  obtain ⟨rfl, hn⟩ := read16_only h1
  simp only [Prod.mk.injEq] at he
  obtain ⟨rfl, rfl⟩ := he
  simp only [wordOk, decide_eq_true_eq] at hn
  refine ⟨?_, by simp only [signedWordOk, decide_eq_true_eq]; split <;> omega⟩
  have : ((if 2 * n < 256 ^ 2 then (n : Int) else (n : Int) - (256 ^ 2 : Nat)) % (256 ^ 2 : Nat)).toNat = n := by split <;> omega
  simp only [signed, this, u16]

/-- An enumerated field is read from the code of its value alone. -/
theorem readEnum_only {α : Type} {values : List α} {code : α → Nat} (h : ∀ n x, values[n]? = some x → code x = n) :
    ReadsOnly (readEnum values) (fun x => u8 (code x)) fun _ => true := by
  intro b x c e
  unfold readEnum at e
  match h1 : read8 b, e with
  | some (n, d), e =>
    obtain ⟨y, hy, he⟩ := Option.map_eq_some_iff.1 e
    cases he
    exact ⟨(read8_only h1).1.trans (congrArg (fun k => u8 k ++ c) (h n x hy).symm), rfl⟩

/-- The codes of a list of values are their places. -/
theorem codes_are_places {α : Type} {values : List α} {code : α → Nat} (h : values.map code = List.range values.length) :
    ∀ n x, values[n]? = some x → code x = n := by
  intro n x e
  have e' : (values.map code)[n]? = some (code x) := by rw [List.getElem?_map, e]; rfl
  rw [h, List.getElem?_range (List.getElem?_eq_some_iff.1 e).1] at e'
  exact (Option.some.inj e').symm

theorem readYesNo_only : ReadsOnly readYesNo yesNo fun _ => true :=
  readEnum_only (code := fun x : Bool => if x then 1 else 0) (codes_are_places rfl)

theorem readOptional_only {α : Type} {f : List Byte → Option (α × List Byte)} {bytes : α → List Byte} {fits : α → Bool}
    (hf : ReadsOnly f bytes fits) : ReadsOnly (readOptional f) (optional bytes) (Option.all fits) := by
  intro b x c h
  unfold readOptional at h
  match h1 : readYesNo b, h with
  | some (false, d), h => cases h; exact ⟨(readYesNo_only h1).1, rfl⟩
  | some (true, d), h =>
    obtain ⟨⟨y, e⟩, hy, he⟩ := Option.map_eq_some_iff.1 h
    cases he
    obtain ⟨rfl, hp⟩ := hf hy
    refine ⟨?_, hp⟩
    rw [(readYesNo_only h1).1]
    simp [yesNo, Machine.optional]

theorem readMany_only {α : Type} {f : List Byte → Option (α × List Byte)} {bytes : α → List Byte} {fits : α → Bool}
    (hf : ReadsOnly f bytes fits) (n : Nat) :
    ReadsOnly (readMany f n) (fun l => l.flatMap bytes) fun l => l.length == n && l.all fits := by
  induction n with
  | zero => intro b x c h; cases h; exact ⟨rfl, rfl⟩
  | succ n ih =>
    intro b x c h
    simp only [readMany, Option.bind_eq_bind, Option.bind_eq_some_iff] at h
    obtain ⟨⟨y, d⟩, hy, ⟨l, e⟩, hl, he⟩ := h
    cases he
    obtain ⟨rfl, hp⟩ := hf hy
    obtain ⟨rfl, hq⟩ := ih hl
    simp at hq
    simp [hp, hq]
    exact hq.2

theorem readAll_only {α : Type} {f : List Byte → Option (α × List Byte)} {bytes : α → List Byte} {fits : α → Bool}
    (hf : ReadsOnly f bytes fits) (fuel : Nat) (b : List Byte) (l : List α) (h : readAll f fuel b = some l) :
    b = l.flatMap bytes ∧ l.all fits = true := by
  induction fuel generalizing b l with
  | zero =>
    match b, h with
    | [], h => cases h; exact ⟨rfl, rfl⟩
  | succ n ih =>
    match b, h with
    | [], h => cases h; exact ⟨rfl, rfl⟩
    | z :: b, h =>
      simp only [readAll, Option.bind_eq_bind, Option.bind_eq_some_iff] at h
      obtain ⟨⟨y, d⟩, hy, k, hk, he⟩ := h
      cases he
      obtain ⟨hb, hp⟩ := hf hy
      obtain ⟨rfl, hq⟩ := ih _ _ hk
      rw [hb]
      simp at hq
      simp [hp]
      exact hq

/-- A label is read without the zeros at its end. -/
theorem readLabel_only : ReadsOnly readLabel labelBytes fun l => labelFits l && l.getLast? != some 0#8 := by
  intro b l c h
  unfold readLabel at h
  split at h
  · rename_i hb
    simp only [Option.some.injEq, Prod.mk.injEq] at h
    obtain ⟨rfl, rfl⟩ := h
    have hl : (b.take 16).length = 16 := by simp; omega
    generalize hk : b.take 16 = l at hl
    have hr : l = (l.reverse.dropWhile (· == 0)).reverse ++ List.replicate (l.reverse.takeWhile (· == 0)).length 0 := by
      have hz : (l.reverse.takeWhile (· == 0)).reverse = List.replicate (l.reverse.takeWhile (· == 0)).length 0 := by
        rw [List.eq_replicate_iff]
        exact ⟨List.length_reverse, fun x hx => by simpa using List.mem_takeWhile_imp (List.mem_reverse.1 hx)⟩
      rw [← hz, ← List.reverse_append, List.takeWhile_append_dropWhile, List.reverse_reverse]
    have hn := congrArg List.length hr
    simp only [List.length_append, List.length_reverse, List.length_replicate] at hn
    refine ⟨?_, ?_⟩
    · rw [labelBytes, List.take_of_length_le (by simp only [List.length_reverse]; omega), List.length_reverse,
        show 16 - (l.reverse.dropWhile (· == 0)).length = (l.reverse.takeWhile (· == 0)).length by omega, ← hr, ← hk,
        List.take_append_drop]
    · simp only [Bool.and_eq_true, labelFits, decide_eq_true_eq, List.length_reverse, List.getLast?_reverse, bne_iff_ne]
      refine ⟨by omega, fun h => ?_⟩
      have := List.head?_dropWhile_not (p := fun x : Byte => x == 0) l.reverse
      rw [h] at this
      simp at this
  · cases h

theorem readHandle_only : ReadsOnly readHandle handleBytes handleFits := by
  intro b x c h
  simp only [readHandle, Option.bind_eq_bind, Option.bind_eq_some_iff] at h
  obtain ⟨⟨slot, b0⟩, h0, ⟨gen, b1⟩, h1, he⟩ := h
  cases he
  obtain ⟨rfl, p0⟩ := read8_only h0
  obtain ⟨rfl, p1⟩ := read8_only h1
  simp [handleBytes, handleFits, p0, p1]

theorem readDate_only : ReadsOnly readDate dateBytes dateFits := by
  intro b x c h
  simp only [readDate, Option.bind_eq_bind, Option.bind_eq_some_iff] at h
  obtain ⟨⟨y, b0⟩, h0, ⟨m, b1⟩, h1, ⟨d, b2⟩, h2, he⟩ := h
  cases he
  obtain ⟨rfl, p0⟩ := read16_only h0
  obtain ⟨rfl, p1⟩ := read8_only h1
  obtain ⟨rfl, p2⟩ := read8_only h2
  simp [dateBytes, dateFits, p0, p1, p2]

theorem readHourMinute_only : ReadsOnly readHourMinute hourMinuteBytes hourMinuteFits := by
  intro b x c h
  simp only [readHourMinute, Option.bind_eq_bind, Option.bind_eq_some_iff] at h
  obtain ⟨⟨hour, b0⟩, h0, ⟨minute, b1⟩, h1, he⟩ := h
  cases he
  obtain ⟨rfl, p0⟩ := read8_only h0
  obtain ⟨rfl, p1⟩ := read8_only h1
  simp [hourMinuteBytes, hourMinuteFits, p0, p1]

theorem readInstant_only : ReadsOnly readInstant (fun d => dateBytes d.date ++ u8 d.hour ++ u8 d.minute ++ u8 d.second) dateTimeFits := by
  intro b x c h
  simp only [readInstant, Option.bind_eq_bind, Option.bind_eq_some_iff] at h
  obtain ⟨⟨d, b0⟩, h0, ⟨h, b1⟩, h1, ⟨m, b2⟩, h2, ⟨s, b3⟩, h3, he⟩ := h
  cases he
  obtain ⟨rfl, p0⟩ := readDate_only h0
  obtain ⟨rfl, p1⟩ := read8_only h1
  obtain ⟨rfl, p2⟩ := read8_only h2
  obtain ⟨rfl, p3⟩ := read8_only h3
  simp [dateTimeFits, p0, p1, p2, p3]

/-! ## Records -/

theorem readTimeSettings_only : ReadsOnly readTimeSettings timeSettingsBytes TimeSettings.fits := by
  intro b x c h
  unfold readTimeSettings at h
  obtain ⟨⟨trim, b0⟩, h0, h⟩ := Option.bind_eq_some_iff.1 h
  obtain ⟨⟨mark, b1⟩, h1, h⟩ := Option.bind_eq_some_iff.1 h
  obtain ⟨⟨enabled, b2⟩, h2, h⟩ := Option.bind_eq_some_iff.1 h
  obtain ⟨⟨off, b3⟩, h3, h⟩ := Option.bind_eq_some_iff.1 h
  obtain ⟨⟨sm, b4⟩, h4, h⟩ := Option.bind_eq_some_iff.1 h
  obtain ⟨⟨sw, b5⟩, h5, h⟩ := Option.bind_eq_some_iff.1 h
  obtain ⟨⟨sd, b6⟩, h6, h⟩ := Option.bind_eq_some_iff.1 h
  obtain ⟨⟨st, b7⟩, h7, h⟩ := Option.bind_eq_some_iff.1 h
  obtain ⟨⟨em, b8⟩, h8, h⟩ := Option.bind_eq_some_iff.1 h
  obtain ⟨⟨ew, b9⟩, h9, h⟩ := Option.bind_eq_some_iff.1 h
  obtain ⟨⟨ed, b10⟩, h10, h⟩ := Option.bind_eq_some_iff.1 h
  obtain ⟨⟨et, b11⟩, h11, h⟩ := Option.bind_eq_some_iff.1 h
  cases h
  obtain ⟨rfl, p0⟩ := readSigned2_only h0
  obtain ⟨rfl, p1⟩ := readYesNo_only h1
  obtain ⟨rfl, p2⟩ := readYesNo_only h2
  obtain ⟨rfl, p3⟩ := read8_only h3
  obtain ⟨rfl, p4⟩ := read8_only h4
  obtain ⟨rfl, p5⟩ := read8_only h5
  obtain ⟨rfl, p6⟩ := (readEnum_only (codes_are_places (code := Weekday.index) rfl)) h6
  obtain ⟨rfl, p7⟩ := readHourMinute_only h7
  obtain ⟨rfl, p8⟩ := read8_only h8
  obtain ⟨rfl, p9⟩ := read8_only h9
  obtain ⟨rfl, p10⟩ := (readEnum_only (codes_are_places (code := Weekday.index) rfl)) h10
  obtain ⟨rfl, p11⟩ := readHourMinute_only h11
  exact ⟨by simp only [timeSettingsBytes, List.append_assoc], by simp [TimeSettings.fits, p0, p3, p4, p5, p7, p8, p9, p11]⟩

theorem readLineRecord_only : ReadsOnly readLineRecord lineBytes LineRecord.fits := by
  intro b x c h
  simp only [readLineRecord, Option.bind_eq_bind, Option.bind_eq_some_iff] at h
  obtain ⟨⟨f, b0⟩, h0, ⟨bound, b1⟩, h1, ⟨high, b2⟩, h2, ⟨filter, b3⟩, h3, he⟩ := h
  cases he
  obtain ⟨rfl, p0⟩ := (readEnum_only (codes_are_places (code := functionCode) rfl)) h0
  obtain ⟨rfl, p1⟩ := (readOptional_only read8_only) h1
  obtain ⟨rfl, p2⟩ := (readEnum_only (codes_are_places (code := fun x : Bool => if x then 0 else 1) rfl)) h2
  obtain ⟨rfl, p3⟩ := read8_only h3
  simp [lineBytes, LineRecord.fits, p1, p3]

theorem readBellConfig_only : ReadsOnly readBellConfig bellBytes (fun c => c.fits && c.label.getLast? != some 0#8) := by
  intro b x c h
  unfold readBellConfig at h
  obtain ⟨⟨label, b0⟩, h0, h⟩ := Option.bind_eq_some_iff.1 h
  obtain ⟨⟨g, b1⟩, h1, h⟩ := Option.bind_eq_some_iff.1 h
  obtain ⟨⟨s, b2⟩, h2, h⟩ := Option.bind_eq_some_iff.1 h
  obtain ⟨⟨hs, b3⟩, h3, h⟩ := Option.bind_eq_some_iff.1 h
  obtain ⟨⟨ms, b4⟩, h4, h⟩ := Option.bind_eq_some_iff.1 h
  obtain ⟨⟨lock, b5⟩, h5, h⟩ := Option.bind_eq_some_iff.1 h
  obtain ⟨⟨mode, b6⟩, h6, h⟩ := Option.bind_eq_some_iff.1 h
  obtain ⟨⟨settle, b7⟩, h7, h⟩ := Option.bind_eq_some_iff.1 h
  obtain ⟨⟨lead, b8⟩, h8, h⟩ := Option.bind_eq_some_iff.1 h
  obtain ⟨⟨v0, b9⟩, h9, h⟩ := Option.bind_eq_some_iff.1 h
  obtain ⟨⟨v1, b10⟩, h10, h⟩ := Option.bind_eq_some_iff.1 h
  obtain ⟨⟨v2, b11⟩, h11, h⟩ := Option.bind_eq_some_iff.1 h
  obtain ⟨⟨v3, b12⟩, h12, h⟩ := Option.bind_eq_some_iff.1 h
  obtain ⟨⟨fb, b13⟩, h13, h⟩ := Option.bind_eq_some_iff.1 h
  obtain ⟨⟨rep, b14⟩, h14, h⟩ := Option.bind_eq_some_iff.1 h
  obtain ⟨⟨rating, b15⟩, h15, h⟩ := Option.bind_eq_some_iff.1 h
  cases h
  obtain ⟨rfl, p0⟩ := readLabel_only h0
  obtain ⟨rfl, p1⟩ := (readEnum_only (codes_are_places (code := groupCode) rfl)) h1
  obtain ⟨rfl, p2⟩ := readYesNo_only h2
  obtain ⟨rfl, p3⟩ := readYesNo_only h3
  obtain ⟨rfl, p4⟩ := readYesNo_only h4
  obtain ⟨rfl, p5⟩ := readYesNo_only h5
  obtain ⟨rfl, p6⟩ := (readEnum_only (codes_are_places (code := sensorCode) rfl)) h6
  obtain ⟨rfl, p7⟩ := read16_only h7
  obtain ⟨rfl, p8⟩ := read16_only h8
  obtain ⟨rfl, p9⟩ := read8_only h9
  obtain ⟨rfl, p10⟩ := read8_only h10
  obtain ⟨rfl, p11⟩ := read8_only h11
  obtain ⟨rfl, p12⟩ := read8_only h12
  obtain ⟨rfl, p13⟩ := (readEnum_only (codes_are_places (code := feedbackCode) rfl)) h13
  obtain ⟨rfl, p14⟩ := read16_only h14
  obtain ⟨rfl, p15⟩ := read16_only h15
  simp only [Bool.and_eq_true] at p0
  refine ⟨by simp only [bellBytes, List.append_assoc], ?_⟩
  simp only [BellConfig.fits, p0.1, p0.2, p7, p8, p9, p10, p11, p12, p14, p15, Bool.and_self]

theorem readClockConfig_only : ReadsOnly readClockConfig clockConfigBytes ClockConfig.fits := by
  intro b x c h
  unfold readClockConfig at h
  obtain ⟨⟨q, b0⟩, h0, h⟩ := Option.bind_eq_some_iff.1 h
  obtain ⟨⟨t1, b1⟩, h1, h⟩ := Option.bind_eq_some_iff.1 h
  obtain ⟨⟨t2, b2⟩, h2, h⟩ := Option.bind_eq_some_iff.1 h
  obtain ⟨⟨t3, b3⟩, h3, h⟩ := Option.bind_eq_some_iff.1 h
  obtain ⟨⟨t4, b4⟩, h4, h⟩ := Option.bind_eq_some_iff.1 h
  obtain ⟨⟨he1, b5⟩, h5, h⟩ := Option.bind_eq_some_iff.1 h
  obtain ⟨⟨hb, b6⟩, h6, h⟩ := Option.bind_eq_some_iff.1 h
  obtain ⟨⟨bi, b7⟩, h7, h⟩ := Option.bind_eq_some_iff.1 h
  obtain ⟨⟨hv, b8⟩, h8, h⟩ := Option.bind_eq_some_iff.1 h
  obtain ⟨⟨sg, b9⟩, h9, h⟩ := Option.bind_eq_some_iff.1 h
  obtain ⟨⟨qp, b10⟩, h10, h⟩ := Option.bind_eq_some_iff.1 h
  obtain ⟨⟨hp, b11⟩, h11, h⟩ := Option.bind_eq_some_iff.1 h
  obtain ⟨⟨ex, b12⟩, h12, h⟩ := Option.bind_eq_some_iff.1 h
  obtain ⟨⟨ns, b13⟩, h13, h⟩ := Option.bind_eq_some_iff.1 h
  obtain ⟨⟨ne, b14⟩, h14, h⟩ := Option.bind_eq_some_iff.1 h
  obtain ⟨⟨nm, b15⟩, h15, h⟩ := Option.bind_eq_some_iff.1 h
  cases h
  obtain ⟨rfl, p0⟩ := readYesNo_only h0
  obtain ⟨rfl, p1⟩ := (readOptional_only readHandle_only) h1
  obtain ⟨rfl, p2⟩ := (readOptional_only readHandle_only) h2
  obtain ⟨rfl, p3⟩ := (readOptional_only readHandle_only) h3
  obtain ⟨rfl, p4⟩ := (readOptional_only readHandle_only) h4
  obtain ⟨rfl, p5⟩ := readYesNo_only h5
  obtain ⟨rfl, p6⟩ := read8_only h6
  obtain ⟨rfl, p7⟩ := read16_only h7
  obtain ⟨rfl, p8⟩ := read8_only h8
  obtain ⟨rfl, p9⟩ := read16_only h9
  obtain ⟨rfl, p10⟩ := read8_only h10
  obtain ⟨rfl, p11⟩ := read8_only h11
  obtain ⟨rfl, p12⟩ := read16_only h12
  obtain ⟨rfl, p13⟩ := (readOptional_only readHourMinute_only) h13
  obtain ⟨rfl, p14⟩ := (readOptional_only readHourMinute_only) h14
  obtain ⟨rfl, p15⟩ := (readEnum_only (codes_are_places (code := nightModeCode) rfl)) h15
  refine ⟨by simp only [clockConfigBytes, List.flatMap_cons, List.flatMap_nil, List.append_nil, List.append_assoc], ?_⟩
  simp only [ClockConfig.fits, List.all_cons, List.all_nil, p1, p2, p3, p4, p6, p7, p8, p9, p10, p11, p12, p13, p14, Bool.and_self]

theorem readChannelConfig_only : ReadsOnly readChannelConfig channelBytes (fun c => c.fits && c.label.getLast? != some 0#8) := by
  intro b x c h
  simp only [readChannelConfig, Option.bind_eq_bind, Option.bind_eq_some_iff] at h
  obtain ⟨⟨label, b0⟩, h0, ⟨s, b1⟩, h1, ⟨r, b2⟩, h2, ⟨ce, b3⟩, h3, ⟨fl, b4⟩, h4, he⟩ := h
  cases he
  obtain ⟨rfl, p0⟩ := readLabel_only h0
  obtain ⟨rfl, p1⟩ := readYesNo_only h1
  obtain ⟨rfl, p2⟩ := read16_only h2
  obtain ⟨rfl, p3⟩ := read16_only h3
  obtain ⟨rfl, p4⟩ := read16_only h4
  simp only [Bool.and_eq_true] at p0
  exact ⟨by simp only [channelBytes, List.append_assoc],
    by simp only [ChannelConfig.fits, p0.1, p0.2, p2, p3, p4, Bool.and_self]⟩

theorem readLevel_only : ReadsOnly readLevel (fun x => u8 x.1 ++ u16 x.2) (fun x => byteOk x.1 && wordOk x.2) := by
  intro b x c h
  simp only [readLevel, Option.bind_eq_bind, Option.bind_eq_some_iff] at h
  obtain ⟨⟨ch, b0⟩, h0, ⟨lv, b1⟩, h1, he⟩ := h
  cases he
  obtain ⟨rfl, p0⟩ := read8_only h0
  obtain ⟨rfl, p1⟩ := read16_only h1
  simp [p0, p1]

theorem readDuskPair_only : ReadsOnly readDuskPair (fun x => u8 x.1 ++ u16 x.2) (fun x => byteOk x.1 && wordOk x.2) := by
  intro b x c h
  simp only [readDuskPair, Option.bind_eq_bind, Option.bind_eq_some_iff] at h
  obtain ⟨⟨wk, b0⟩, h0, ⟨mi, b1⟩, h1, he⟩ := h
  cases he
  obtain ⟨rfl, p0⟩ := read8_only h0
  obtain ⟨rfl, p1⟩ := read16_only h1
  simp [p0, p1]

theorem readMapPair_only : ReadsOnly readMapPair (fun x => u8 x.1 ++ Machine.optional u8 x.2) (fun x => byteOk x.1 && x.2.all byteOk) := by
  intro b x c h
  simp only [readMapPair, Option.bind_eq_bind, Option.bind_eq_some_iff] at h
  obtain ⟨⟨dg, b0⟩, h0, ⟨bl, b1⟩, h1, he⟩ := h
  cases he
  obtain ⟨rfl, p0⟩ := read8_only h0
  obtain ⟨rfl, p1⟩ := (readOptional_only read8_only) h1
  simp [p0, p1]

/-- A dial amend is read from the bytes of some dial with its fields: position, polarity, doubt and fault are read past (R20). -/
theorem readDialAmend_only {b : List Byte} {a : DialAmend} {c : List Byte} (h : readDialAmend b = some (a, c)) :
    ∃ d : Dial, b = dialBytes d ++ c ∧ d.label.getLast? ≠ some 0#8 ∧ a.fits = true ∧
      a = { label := d.label, service := d.service, impulseWidth := d.impulseWidth, spacing := d.spacing, window := d.window } := by
  unfold readDialAmend at h
  obtain ⟨⟨label, b0⟩, h0, h⟩ := Option.bind_eq_some_iff.1 h
  obtain ⟨⟨service, b1⟩, h1, h⟩ := Option.bind_eq_some_iff.1 h
  obtain ⟨⟨position, b2⟩, h2, h⟩ := Option.bind_eq_some_iff.1 h
  obtain ⟨⟨q, b3⟩, h3, h⟩ := Option.bind_eq_some_iff.1 h
  obtain ⟨⟨width, b4⟩, h4, h⟩ := Option.bind_eq_some_iff.1 h
  obtain ⟨⟨spacing, b5⟩, h5, h⟩ := Option.bind_eq_some_iff.1 h
  obtain ⟨⟨window, b6⟩, h6, h⟩ := Option.bind_eq_some_iff.1 h
  obtain ⟨⟨doubt, b7⟩, h7, h⟩ := Option.bind_eq_some_iff.1 h
  obtain ⟨⟨fault, b8⟩, h8, h⟩ := Option.bind_eq_some_iff.1 h
  cases h
  obtain ⟨rfl, p0⟩ := readLabel_only h0
  obtain ⟨rfl, -⟩ := readEnum_only (codes_are_places (code := fun x : Bool => if x then 0 else 1) rfl) h1
  obtain ⟨rfl, p2⟩ := read16_only h2
  obtain ⟨pol, rfl⟩ : ∃ pol, b2 = u8 (polarityCode pol) ++ b3 := by
    unfold readEnum at h3
    match hn : read8 b2, h3 with
    | some (n, d), h3 =>
      obtain ⟨u, hy, he⟩ := Option.map_eq_some_iff.1 h3
      cases he
      match n, hn, hy with
      | 0, hn, _ => exact ⟨.positive, (read8_only hn).1⟩
      | 1, hn, _ => exact ⟨.negative, (read8_only hn).1⟩
  obtain ⟨rfl, p4⟩ := read8_only h4
  obtain ⟨rfl, p5⟩ := read8_only h5
  obtain ⟨rfl, p6⟩ := read16_only h6
  obtain ⟨rfl, -⟩ := readYesNo_only h7
  obtain ⟨rfl, -⟩ := readOptional_only (readEnum_only (code := fun _ => 0) (codes_are_places rfl)) h8
  simp only [Bool.and_eq_true, bne_iff_ne] at p0
  refine ⟨{ label := label, service := service, state := .off, position := position, nextPolarity := pol
            impulseWidth := width * 10, spacing := spacing * 500, window := window, doubt := doubt
            fault := fault.map fun _ => .noCurrent, impulse := none, lastStart := none, owed := false }, ?_, p0.2, ?_, rfl⟩
  · have hf : Machine.optional (fun _ => u8 0) (fault.map fun _ => DialFault.noCurrent) = Machine.optional (fun _ => u8 0) fault := by
      cases fault <;> rfl
    simp only [dialBytes, hf, Nat.mul_div_cancel _ (show 0 < 10 by decide), Nat.mul_div_cancel _ (show 0 < 500 by decide),
      List.append_assoc]
  · simp [DialAmend.fits, p0.1, p4, p5, p6]

theorem readScene_only {b : List Byte} {x : SceneConfig} {c : List Byte} (hb : b.length ≤ 512) (h : readScene b = some (x, c)) :
    b = sceneConfigBytes x ++ c ∧ x.fits = true ∧ x.label.getLast? ≠ some 0#8 := by
  unfold readScene at h
  obtain ⟨⟨label, b0⟩, h0, h⟩ := Option.bind_eq_some_iff.1 h
  obtain ⟨⟨fadeIn, b1⟩, h1, h⟩ := Option.bind_eq_some_iff.1 h
  obtain ⟨⟨fadeOut, b2⟩, h2, h⟩ := Option.bind_eq_some_iff.1 h
  obtain ⟨⟨priority, b3⟩, h3, h⟩ := Option.bind_eq_some_iff.1 h
  obtain ⟨⟨mode, b4⟩, h4, h⟩ := Option.bind_eq_some_iff.1 h
  obtain ⟨⟨count, b5⟩, h5, h⟩ := Option.bind_eq_some_iff.1 h
  obtain ⟨⟨levels, b6⟩, h6, h⟩ := Option.bind_eq_some_iff.1 h
  cases h
  obtain ⟨rfl, p0⟩ := readLabel_only h0
  obtain ⟨rfl, p1⟩ := read16_only h1
  obtain ⟨rfl, p2⟩ := read16_only h2
  obtain ⟨rfl, p3⟩ := read8_only h3
  obtain ⟨rfl, -⟩ := readEnum_only (codes_are_places (code := modeCode) rfl) h4
  obtain ⟨rfl, p5⟩ := read8_only h5
  obtain ⟨rfl, p6⟩ := readMany_only readLevel_only count h6
  simp only [Bool.and_eq_true, bne_iff_ne, beq_iff_eq] at p0 p6
  refine ⟨by simp only [sceneConfigBytes, listed, p6.1, List.append_assoc], ?_, p0.2⟩
  have hs : (levels.flatMap fun x => u8 x.1 ++ u16 x.2).length = 3 * levels.length := by
    simp [List.length_flatMap, u8, u16, bytesOf, Nat.mul_comm]
  have hl : 3 * levels.length ≤ 512 := by
    rw [← hs]; refine le_trans ?_ hb; simp only [List.length_append]; omega
  simp [SceneConfig.fits, p0.1, p1, p2, p3, payloadFits, hl]
  simpa using p6.2

end Sys2Proof
end

