-- ==== Sys2Proof/Laws/Time.lean ====
section
/-! SUPPORT. Where the Time Base changes, and what follows quietly from the state in which only it has changed. -/

namespace Sys2Proof.Machine

variable {r : Bool} {s t : State}

/-! ## Changes that a quiet stretch may stand between -/

theorem Quiet.withTime (h : Quiet r s t) (x : TimeBase) : Quiet r { s with time := x } { t with time := x } :=
  { clock := h.clock, pending := h.pending, time := rfl, gate := h.gate, writes := h.writes, pool := h.pool
    loads := fun k =>
      have a := h.loads ⟨k.capacity, k.amends, k.taken⟩
      ⟨a.capacity, a.amends, a.taken⟩
    lists := fun k =>
      have a := h.lists ⟨k.queue, k.layers, k.layerScenes, k.standing, k.standingScenes⟩
      ⟨a.queue, a.layers, a.layerScenes, a.standing, a.standingScenes⟩
    strokes := h.strokes }

theorem Quiet.withGate (h : Quiet r s t) (g : GateState) :
    Quiet r { s with hammers.gate := g } { t with hammers.gate := g } :=
  { clock := h.clock, pending := h.pending, time := h.time, gate := rfl, writes := h.writes, pool := h.pool
    loads := fun k =>
      have a := h.loads ⟨k.capacity, k.amends, k.taken⟩
      ⟨a.capacity, a.amends, a.taken⟩
    lists := fun k =>
      have a := h.lists ⟨k.queue, k.layers, k.layerScenes, k.standing, k.standingScenes⟩
      ⟨a.queue, a.layers, a.layerScenes, a.standing, a.standingScenes⟩
    strokes := h.strokes }

/-- The link may change freely, but for a feeder AMEND newly taken (R170). -/
theorem Quiet.of_link {x : Link}
    (taken : ∀ c, x.takenCapacity = some c → s.link.takenCapacity = some c := by exact fun _ h => h) :
    Quiet r s { s with link := x } :=
  .of_same rfl rfl rfl rfl rfl rfl rfl rfl rfl rfl (fun _ => id) taken

/-- The flags, the fresh marks and the last report set may change freely. -/
theorem Quiet.of_flags {f g l : FlagSet} :
    Quiet r s { s with link.flags := f, link.fresh := g, link.lastReport := l } := .of_link

/-! ## Announcements -/

theorem State.announceTimeOfDay_quiet (s : State) : Quiet r s s.announceTimeOfDay := by
  unfold State.announceTimeOfDay
  dsimp only
  have a : Quiet r s (if s.localNow % 30 = 0 then s.halfMinutes else s) :=
    .ite (fun _ => s.halfMinutes_quiet) fun _ => .refl r s
  generalize (if s.localNow % 30 = 0 then s.halfMinutes else s) = u at a
  have b : Quiet r u (if s.localNow % Config.quarterSeconds = 0 then
      (u.handleMark u.time.standard s.localNow).settleContexts else u) :=
    .ite (fun _ => (u.handleMark_quiet _ _).trans (State.settleContexts_quiet _)) fun _ => .refl r u
  refine (a.trans b).trans ?_
  exact .ite (fun _ => State.workTableDusk_quiet _) fun _ => .refl r _

theorem State.announceSummer_quiet (s : State) : Quiet r s s.announceSummer :=
  (State.settleContexts_quiet _).after ((State.calendarJump_quiet _ _).after ((State.landingMark_quiet _).after
    s.reconcileDials_quiet))

theorem State.announceTimeSet_quiet (s : State) (first : Bool) : Quiet r s (s.announceTimeSet first) := by
  unfold State.announceTimeSet
  dsimp only
  refine (State.settleContexts_quiet _).after ((State.endStandingEntries_quiet _).after ?_)
  exact .ite (fun _ => (State.calendarFirstValidity_quiet _).after ((State.landingMark_quiet _).after s.reconcileDials_quiet))
    fun _ => (State.calendarJump_quiet _ _).after ((State.landingMark_quiet _).after s.reconcileDials_quiet)

theorem State.announceRuleChanged_quiet (s : State) : Quiet r s s.announceRuleChanged :=
  (s.calendarJump_quiet _).trans (State.settleContexts_quiet _)

theorem State.announceTimeLost_quiet (s : State) : Quiet r s s.announceTimeLost :=
  s.reconcileDials_quiet.trans (State.calendarTimeLost_quiet _)

/-! ## Counting a second (R1, R4, R8) -/

theorem State.raiseIf_time (s : State) (b : Bool) (c : Condition) (x : TimeBase) :
    { s.raiseIf b c with time := x } = ({ s with time := x } : State).raiseIf b c := by
  cases b <;> rfl

@[simp] theorem State.raiseIf_time_eq (s : State) (b : Bool) (c : Condition) : (s.raiseIf b c).time = s.time := by
  cases b <;> rfl

/-- R1: a counted second advances the time, records its moment in MAINS, and leads quietly to what is announced. -/
theorem State.countSecond_quiet (s : State) :
    ∃ m, Quiet r { s with time := { s.time.advance with lastSecond := m } } s.countSecond := by
  unfold State.countSecond
  dsimp only
  split
  · exact ⟨s.time.lastSecond, State.raiseIf_quiet _ _ _⟩
  · refine ⟨some s.clock, ?_⟩
    have hs : Quiet r { s with time := { s.time.advance with lastSecond := some s.clock } }
        (State.announceSecond (({ s with time := s.time.advance } : State).raiseIf s.time.atRangeEnd .timeInvalid)) := by
      unfold State.announceSecond
      dsimp only
      refine (State.passDusk_quiet _).after ((State.sampleAmbient_quiet _).after ?_)
      rw [State.raiseIf_time]
      have e : (({ s with time := s.time.advance } : State).raiseIf s.time.atRangeEnd .timeInvalid).time
          = s.time.advance := State.raiseIf_time_eq _ _ _
      have e' : (({ s with time := s.time.advance } : State).raiseIf s.time.atRangeEnd .timeInvalid).clock = s.clock := by
        cases s.time.atRangeEnd <;> rfl
      rw [e, e']
      exact State.raiseIf_quiet _ _ _
    refine hs.trans ?_
    split
    · exact State.announceTimeLost_quiet _
    · split
      · exact .refl r _
      · split
        · exact State.announceTimeOfDay_quiet _
        · exact State.announceSummer_quiet _

/-! ## SET TIME and the time settings (R11, R9) -/

/-- R11: the Time Base as a SET TIME that takes effect leaves it. -/
def TimeBase.setTo (t : TimeBase) (instant : Nat) : TimeBase :=
  { t.beginSecond t.trimCycle with
      standard := instant, summer := summerAt t.settings.rule instant, valid := true, setTimeWait := none, lastSecond := none }

theorem State.takeSetTime_quiet (s : State) (instant : Nat) :
    Quiet r { s with time := s.time.setTo instant } (s.takeSetTime instant) :=
  State.announceTimeSet_quiet _ _

/-- R9: the Time Base as new time settings leave it. -/
def TimeBase.resettle (t : TimeBase) (x : TimeSettings) : TimeBase :=
  { t with settings := x, summer := summerAt x.rule t.standard }

theorem State.applyTimeSettings_quiet (s : State) (x : TimeSettings) :
    Quiet r { s with time := s.time.resettle x } (s.applyTimeSettings x) := by
  unfold State.applyTimeSettings
  dsimp only
  split
  · exact .refl r _
  · split
    · exact State.announceRuleChanged_quiet _
    · exact State.announceTimeSet_quiet _ _

/-! ## Resets (chapter by chapter) -/

/-- A response that is dropped leaves every write as it is. -/
theorem dropResponses_effects (l : List Write) :
    (l.map fun (w : Write) => { w with response := none }).map (·.effect) = l.map (·.effect) := by
  simp [Function.comp_def]

theorem State.dropLink_quiet (s : State) : Quiet r s s.dropLink :=
  .of_same rfl rfl rfl rfl (dropResponses_effects _) rfl rfl rfl rfl rfl (fun _ => id) nofun

theorem State.resetLink_quiet (s : State) : Quiet r { s with time.setTimeWait := none } s.resetLink :=
  .of_same rfl rfl rfl rfl (dropResponses_effects _) rfl rfl rfl rfl rfl (fun _ => id) nofun

/-- R15: the Time Base at RESERVE ENTRY. -/
def TimeBase.enterReserve (t : TimeBase) : TimeBase :=
  { t with power := .reserve, reserveEntry := t.standard, setTimeWait := none, msense := false, qualification := none }

/-- R15: RESERVE ENTRY follows quietly from the Time Base's change, with the gate CLOSED. -/
theorem State.enterReserve_quiet (s : State) :
    Quiet r { s with time := s.time.enterReserve, hammers.gate := .closed } s.enterReserve := by
  unfold State.enterReserve TimeBase.enterReserve
  dsimp only
  generalize ({ s.time with power := .reserve, reserveEntry := s.time.standard, setTimeWait := none, msense := false,
                            qualification := none } : TimeBase) = x
  have k := ((State.restStrokes_quiet (r := r) _).after (State.cutImpulses_quiet { s with time := x })).withGate .closed
  generalize ({ s with time := x } : State).cutImpulses.restStrokes = u at k
  refine (State.dropLink_quiet _).after ((State.darken_quiet _).after ?_)
  refine Quiet.after (Quiet.of_feeder fun k => ⟨Nat.zero_le _, fun _ _ _ _ => Nat.zero_le _, fun _ _ => Nat.zero_le _⟩) ?_
  refine (State.discardRuns_quiet _).after ((State.discardChime_quiet _).after ?_)
  exact k

theorem Quiet.withNoWait (h : Quiet r s t) :
    Quiet r { s with time.setTimeWait := none } { t with time.setTimeWait := none } := by
  have k := h.withTime { t.time with setTimeWait := none }
  have e := congrArg (fun x : TimeBase => { s with time := { x with setTimeWait := none } }) h.time
  exact (show { s with time := { t.time with setTimeWait := none } } = _ from e) ▸ k

/-- R71 and the other resets: every block's values follow quietly, with the gate CLOSED and no SET TIME waiting. -/
theorem State.takeResetValues_quiet (s : State) (cold keepStart : Bool) :
    Quiet r { s with time.setTimeWait := none, hammers.gate := .closed } (s.takeResetValues cold keepStart) := by
  unfold State.takeResetValues
  dsimp only
  refine (State.resetLink_quiet _).after ?_
  refine Quiet.withNoWait (s := { s with hammers.gate := .closed }) ?_
  refine Quiet.after (Quiet.of_feeder fun k => ⟨Nat.zero_le _, fun _ _ _ _ => Nat.zero_le _, fun _ _ => Nat.zero_le _⟩) ?_
  refine (State.resetMixer_quiet _).after ((State.resetCalendar_quiet _ _).after (Quiet.of_program.after
    ((State.resetChime_quiet _).after ((State.resetTunes_quiet _).after ?_))))
  exact Quiet.withGate ((State.restStrokes_quiet _).after ((State.resetBells_quiet _).after ((State.resetDials_quiet _ _).after
    s.resetLines_quiet))) .closed

theorem State.resume_quiet (s : State) (kept : List StandingEntry) : Quiet r s (s.resume kept) :=
  (State.settleContexts_quiet _).after ((State.reRaiseStanding_quiet _ _).after s.reachHeld_quiet)

theorem State.coldStart_quiet (s : State) : Quiet r
    { s with time := { s.time with power := .mains, qualification := none, coldStartPending := false, setTimeWait := none },
             hammers.gate := .closed } s.coldStart := by
  unfold State.coldStart
  dsimp only
  exact Quiet.of_flags.after ((State.clearStanding_quiet _).after (State.takeResetValues_quiet
    { s with time := { s.time with power := .mains, qualification := none, coldStartPending := false } } _ _))

theorem State.supplyReturn_quiet (s : State) : Quiet r
    { s with time := { s.time with power := .mains, qualification := none, setTimeWait := none }, hammers.gate := .closed }
    s.supplyReturn := by
  unfold State.supplyReturn
  dsimp only
  exact (State.resume_quiet _ _).after ((State.owedMark_quiet _ _).after ((State.reconcileDials_quiet _).after
    ((State.raise_quiet _ _).after ((State.settleStanding_quiet _).after (State.takeResetValues_quiet
      { s with time := { s.time with power := .mains, qualification := none } } _ _)))))

theorem State.restartReset_quiet (s : State) : Quiet r { s with time.setTimeWait := none, hammers.gate := .closed }
    s.restartReset := by
  unfold State.restartReset
  dsimp only
  exact (State.resume_quiet _ _).after ((State.reconcileDials_quiet _).after ((State.settleStanding_quiet _).after
    (State.takeResetValues_quiet _ _ _)))

theorem State.requestRestart_quiet (s : State) : Quiet r { s with hammers.gate := .holding } s.requestRestart := by
  unfold State.requestRestart
  split
  · rename_i h
    have e : ({ s with hammers.gate := .holding } : State) = s := by rw [← h]
    rw [e]
    exact .refl r s
  · exact Quiet.eachIndex (fun i s => s.withdrawStroke_quiet i) _

end Sys2Proof.Machine
end

