-- ==== Sys2Proof/Laws/Requests.lean ====
section
/-! SUPPORT. What working a host request and ending a write can do, said once: it follows quietly, asks for one write of an AMEND,
sets the time, or requests a RESTART. -/

namespace Sys2Proof.Machine

variable {r : Bool} {s t : State}

/-! ## Answers -/

theorem State.badField_quiet (s : State) (slot gen : Nat) : Quiet r s (s.badField slot gen) := s.answer_quiet _
theorem State.noRecord_quiet (s : State) (slot gen : Nat) : Quiet r s (s.noRecord slot gen) := s.answer_quiet _
theorem State.wrongState_quiet (s : State) (slot gen : Nat) : Quiet r s (s.wrongState slot gen) := s.answer_quiet _
/-- A request in another phase is the same request (R170). -/
theorem State.setPhaseOfRequest_taken (s : State) (x : RequestPhase) :
    (s.setPhaseOfRequest x).link.takenCapacity = s.link.takenCapacity := by
  unfold State.setPhaseOfRequest Link.takenCapacity
  cases s.link.inProgress <;> rfl

theorem State.setPhaseOfRequest_quiet (s : State) (x : RequestPhase) : Quiet r s (s.setPhaseOfRequest x) :=
  .of_link fun _ h => (s.setPhaseOfRequest_taken x).symm.trans h

theorem State.deferRequest_quiet (s : State) : Quiet r s s.deferRequest := s.setPhaseOfRequest_quiet _

theorem State.answerWith_quiet (s : State) (p : List Byte) (slot gen : Nat) : Quiet r s (s.answerWith p slot gen) :=
  s.answer_quiet _

theorem State.answerIndex_quiet (s : State) (i bound : Nat) (p : List Byte) : Quiet r s (s.answerIndex i bound p) :=
  .ite (fun _ => s.answerWith_quiet _ _ _) fun _ => s.badField_quiet _ _

theorem State.answerNext_quiet (s : State) (h : Option Handle) : Quiet r s (s.answerNext h) := by
  unfold State.answerNext
  split
  · exact s.answerWith_quiet _ _ _
  · exact s.noRecord_quiet _ _

theorem State.withTune_quiet (s : State) (h : Handle) (act : Tune → State)
    (k : ∀ t, s.findTune h = some t → Quiet r s (act t)) : Quiet r s (s.withTune h act) := by
  unfold State.withTune
  split
  · split
    · exact s.noRecord_quiet _ _
    · exact k _ ‹_›
  · exact s.badField_quiet _ _

theorem State.withOccasion_quiet (s : State) (h : Handle) (act : Occasion → State) (k : ∀ o, Quiet r s (act o)) :
    Quiet r s (s.withOccasion h act) := by
  unfold State.withOccasion
  split
  · split
    · exact s.noRecord_quiet _ _
    · exact k _
  · exact s.badField_quiet _ _

theorem State.withScene_quiet (s : State) (h : Handle) (act : Scene → State) (k : ∀ x, Quiet r s (act x)) :
    Quiet r s (s.withScene h act) := by
  unfold State.withScene
  split
  · split
    · exact s.noRecord_quiet _ _
    · exact k _
  · exact s.badField_quiet _ _

/-! ## Requests that follow quietly -/

theorem State.doSetDial_quiet (s : State) (i position : Nat) : Quiet r s (s.doSetDial i position) := by
  unfold State.doSetDial
  dsimp only
  exact (State.answerAfterWrites_quiet _ _ _).after (s.applySetDial_quiet _ _)

theorem State.workSetDial_quiet (s : State) (i position : Nat) : Quiet r s (s.workSetDial i position) :=
  .ite (fun _ => .ite (fun _ => s.deferRequest_quiet) fun _ => s.doSetDial_quiet _ _) fun _ => s.badField_quiet _ _

theorem State.workSwing_quiet (s : State) (i minutes : Nat) : Quiet r s (s.workSwing i minutes) := by
  refine .ite (fun _ => ?_) fun _ => s.badField_quiet _ _
  split
  · exact s.answer_quiet _
  · dsimp only
    exact (State.answer_quiet _ _).after (s.acceptSwing_quiet _ _ _)

theorem State.workStopBell_quiet (s : State) (i : Nat) : Quiet r s (s.workStopBell i) :=
  .ite (fun _ => (State.answer_quiet _ _).after ((State.settleContexts_quiet _).after (s.endRun_quiet _ _)))
    fun _ => s.badField_quiet _ _

theorem lowestFree_some {α : Type} {n : Nat} {v : Vector (Slot α) n} {i : Nat} (h : lowestFree v = some i) :
    i < n ∧ (v.getD i ⟨0, none⟩).record = none := by
  have a := List.mem_of_find?_eq_some h
  have b := List.find?_some h
  exact ⟨List.mem_range.1 a, by simpa using b⟩

theorem State.workOpenTune_quiet (s : State) (label : Label) : Quiet r s (s.workOpenTune label) := by
  refine .ite (fun _ => ?_) fun _ => s.badField_quiet _ _
  split
  · exact s.answer_quiet _
  · rename_i i hi
    dsimp only
    refine (State.answerAfterWrites_quiet _ _ _).after ((State.store_quiet _ _).after (s.setTuneSlot_quiet _ _ ?_))
    rw [State.tuneSlot, (lowestFree_some hi).2]
    rfl

/-- The pool is kept when steps are linked, as long as it held them (R76, R77). -/
theorem State.linkSteps_quiet (s : State) (h : Handle) (t : Tune) (batch : List Step) (e : s.findTune h = some t)
    (hb : batch.length ≤ s.tunes.freeSteps) : Quiet r s (s.linkSteps h t batch) := by
  unfold State.linkSteps
  dsimp only
  refine (State.store_quiet _ _).after ?_
  have hr := (Slot.named_some e).2
  by_cases hi : h.slot < Config.tunes
  · have k := s.setTuneSlot_heldSteps h.slot { s.tuneSlot h.slot with record := some { t with steps := t.steps ++ batch } } hi
    rw [hr] at k
    have k' : (s.setTune h.slot { t with steps := t.steps ++ batch }).tunes.heldSteps + t.steps.length
        = s.tunes.heldSteps + (t.steps.length + batch.length) := by
      simp only [Option.elim, List.length_append] at k
      exact k
    refine { Quiet.refl r s with
      pool := ?_
      loads := fun h => ⟨h.capacity, h.amends, h.taken⟩
      lists := fun h => ⟨h.queue, h.layers, h.layerScenes, h.standing, h.standingScenes⟩ }
    simp only [TuneLibrary.allSteps]
    change s.tunes.freeSteps - batch.length + (s.setTune h.slot { t with steps := t.steps ++ batch }).tunes.heldSteps = s.tunes.freeSteps + s.tunes.heldSteps
    omega
  · exfalso
    have hn : s.tunes.slots[h.slot]? = none := Vector.getElem?_eq_none (Nat.le_of_not_lt hi)
    simp [State.tuneSlot, Vector.getD, hn] at hr

theorem State.workAppend_quiet (s : State) (h : Handle) (batch : List Step) : Quiet r s (s.workAppend h batch) := by
  refine s.withTune_quiet _ _ fun t ht => ?_
  split
  · exact s.answer_quiet _
  · rename_i hn
    dsimp only
    refine (State.answerAfterWrites_quiet _ _ _).after (s.linkSteps_quiet h t batch ht ?_)
    unfold State.appendRefusal at hn
    split at hn
    · cases hn
    · split at hn
      · cases hn
      · split at hn
        · cases hn
        · split at hn
          · cases hn
          · omega

theorem State.workCloseTune_quiet (s : State) (h : Handle) : Quiet r s (s.workCloseTune h) := by
  refine s.withTune_quiet _ _ fun t ht => .ite (fun _ => s.wrongState_quiet _ _) fun _ => .ite (fun _ => s.badField_quiet _ _)
    fun _ => ?_
  exact (State.answerAfterWrites_quiet _ _ _).after ((State.store_quiet _ _).after (s.setTune_quiet h t _ ht rfl))

theorem State.workAmendTune_quiet (s : State) (h : Handle) (label : Label) : Quiet r s (s.workAmendTune h label) := by
  refine s.withTune_quiet _ _ fun t ht => .ite (fun _ => s.wrongState_quiet _ _) fun _ => .ite (fun _ => ?_)
    fun _ => s.badField_quiet _ _
  exact (State.answerAfterWrites_quiet _ _ _).after ((State.store_quiet _ _).after (s.setTune_quiet h t _ ht rfl))

theorem State.workRetireTune_quiet (s : State) (h : Handle) : Quiet r s (s.workRetireTune h) := by
  refine s.withTune_quiet _ _ fun t ht => .ite (fun _ => s.wrongState_quiet _ _) fun _ => .ite (fun _ => ?_) fun _ => ?_
  · exact (State.answerAfterWrites_quiet _ _ _).after (s.freeTune_quiet _)
  · exact (State.answerAfterWrites_quiet _ _ _).after ((State.store_quiet _ _).after (s.setTune_quiet h t _ ht rfl))

theorem State.workPlay_quiet (s : State) (h : Handle) (transposition : Int) (repeats priority : Nat) (yields : Bool) :
    Quiet r s (s.workPlay h transposition repeats priority yields) := by
  refine .ite (fun _ => ?_) fun _ => s.badField_quiet _ _
  have k := s.arrive_quiet (r := r) (offer .command (.tune h) transposition repeats priority yields none 0)
  generalize s.arrive (offer .command (.tune h) transposition repeats priority yields none 0) = x at k
  obtain ⟨u, a⟩ := x
  cases a <;> exact (State.answer_quiet _ _).after ((State.settleContexts_quiet _).after k)

theorem State.workStopEntry_quiet (s : State) (n : Nat) : Quiet r s (s.workStopEntry n) := by
  unfold State.workStopEntry
  have k := s.stopEntry_quiet (r := r) n
  generalize s.stopEntry n = x at k
  obtain ⟨u, a⟩ := x
  cases a
  · exact (State.noRecord_quiet _ _ _).after k
  · exact (State.answer_quiet _ _).after ((State.settleContexts_quiet _).after k)

theorem State.workToll_quiet (s : State) (bell interval blows velocity : Nat) :
    Quiet r s (s.workToll bell interval blows velocity) := by
  refine .ite (fun _ => ?_) fun _ => s.badField_quiet _ _
  split
  · exact s.answer_quiet _
  · exact (State.answer_quiet _ _).after (s.acceptToll_quiet _ _ _ _ _ _)

theorem State.workStopToll_quiet (s : State) (c : Nat) : Quiet r s (s.workStopToll c) :=
  .ite (fun _ => (State.answer_quiet _ _).after ((State.settleContexts_quiet _).after (s.stopToll_quiet _)))
    fun _ => s.badField_quiet _ _

theorem State.workStoreOccasion_quiet (s : State) (c : OccasionConfig) : Quiet r s (s.workStoreOccasion c) := by
  refine .ite (fun _ => ?_) fun _ => s.badField_quiet _ _
  split
  · exact s.answer_quiet _
  · dsimp only
    exact (State.answerAfterWrites_quiet _ _ _).after ((State.store_quiet _ _).after (s.setOccasionSlot_quiet _ _))

theorem State.workAmendOccasion_quiet (s : State) (h : Handle) (c : OccasionConfig) : Quiet r s (s.workAmendOccasion h c) :=
  s.withOccasion_quiet _ _ fun _ => .ite (fun _ => s.wrongState_quiet _ _) fun _ => .ite
    (fun _ => (State.answerAfterWrites_quiet _ _ _).after (s.putOccasion_quiet _ _)) fun _ => s.badField_quiet _ _

theorem State.workSuspend_quiet (s : State) (h : Handle) : Quiet r s (s.workSuspend h) :=
  s.withOccasion_quiet _ _ fun _ => .ite (fun _ => s.wrongState_quiet _ _) fun _ =>
    (State.answerAfterWrites_quiet _ _ _).after (s.putOccasion_quiet _ _)

theorem State.workResume_quiet (s : State) (h : Handle) : Quiet r s (s.workResume h) :=
  s.withOccasion_quiet _ _ fun _ => .ite (fun _ => (State.answerAfterWrites_quiet _ _ _).after (s.putOccasion_quiet _ _))
    fun _ => s.wrongState_quiet _ _

theorem State.answerRetired_quiet (s : State) (before : Nat) (h : Handle) : Quiet r s (s.answerRetired before h) :=
  (State.answerAfterWrites_quiet _ _ _).after s.settleContexts_quiet

theorem State.workRetireGentle_quiet (s : State) (h : Handle) : Quiet r s (s.workRetireGentle h) := by
  refine s.withOccasion_quiet _ _ fun o => .ite (fun _ => s.wrongState_quiet _ _) fun _ => ?_
  split
  · exact (State.answerRetired_quiet _ _ _).after (s.freeOccasion_quiet _)
  · exact (State.answerRetired_quiet _ _ _).after (s.beginRetiring_quiet _ _ _)

theorem State.workRetireAbrupt_quiet (s : State) (h : Handle) : Quiet r s (s.workRetireAbrupt h) := by
  refine s.withOccasion_quiet _ _ fun o => ?_
  dsimp only
  split
  · exact (State.answerRetired_quiet _ _ _).after ((State.freeOccasion_quiet _ _).after (s.removeCreatedBy_quiet _))
  · exact (State.answerRetired_quiet _ _ _).after ((State.removeCreatedBy_quiet _ _).after
      ((Quiet.eachIndex (fun i s => s.endActive_quiet _ i) _).after (s.beginRetiring_quiet _ _ _)))

theorem State.workStoreScene_quiet (s : State) (c : SceneConfig) : Quiet r s (s.workStoreScene c) := by
  refine .ite (fun _ => ?_) fun _ => s.badField_quiet _ _
  split
  · exact s.answer_quiet _
  · dsimp only
    exact (State.answerAfterWrites_quiet _ _ _).after ((State.store_quiet _ _).after (s.setSceneSlot_quiet _ _))

theorem State.workRetireScene_quiet (s : State) (h : Handle) : Quiet r s (s.workRetireScene h) := by
  refine s.withScene_quiet _ _ fun x => .ite (fun _ => s.wrongState_quiet _ _) fun _ => .ite (fun _ => ?_) fun _ => ?_
  · exact (State.answerAfterWrites_quiet _ _ _).after ((State.lowerScene_quiet _ _).after ((State.removeStanding_quiet _ _).after
      ((State.store_quiet _ _).after (s.setScene_quiet _ _))))
  · exact (State.answerAfterWrites_quiet _ _ _).after ((State.freeScene_quiet _ _).after (s.removeStanding_quiet _))

theorem State.holdScene_quiet (s : State) (h : Handle) (hold : Option Nat) : Quiet r s (s.holdScene h hold).1 := by
  unfold State.holdScene
  split
  · exact .refl r s
  · rename_i m
    have k := s.makeStanding_quiet (r := r) h (s.time.standard + m * 60) .command
    generalize s.makeStanding h (s.time.standard + m * 60) .command = x at k
    obtain ⟨u, b⟩ := x
    cases b <;> exact k

theorem State.workRaiseScene_quiet (s : State) (h : Handle) (hold : Option Nat) : Quiet r s (s.workRaiseScene h hold) := by
  refine .ite (fun _ => s.withScene_quiet _ _ fun _ => ?_) fun _ => s.badField_quiet _ _
  dsimp only
  have k := s.raiseScene_quiet (r := r) h
  generalize s.raiseScene h = x at k
  obtain ⟨u, a⟩ := x
  cases a
  · dsimp only
    exact (State.answerAfterWrites_quiet _ _ _).after ((State.holdScene_quiet _ _ _).after k)
  all_goals exact (State.answerAfterWrites_quiet _ _ _).after k

theorem State.workLowerScene_quiet (s : State) (h : Handle) : Quiet r s (s.workLowerScene h) :=
  s.withScene_quiet _ _ fun _ => (State.answerAfterWrites_quiet _ _ _).after (s.lowerAndRemove_quiet _)

theorem State.workReadConditions_quiet (s : State) : Quiet r s s.workReadConditions := by
  unfold State.workReadConditions
  dsimp only
  exact (State.answer_quiet _ _).after .of_link

theorem State.workAcknowledge_quiet (s : State) (named : FlagSet) : Quiet r s (s.workAcknowledge named) := by
  unfold State.workAcknowledge
  dsimp only
  exact (State.answer_quiet _ _).after .of_link

theorem State.workLookUpTune_quiet (s : State) (h : Handle) (first : Option Nat) : Quiet r s (s.workLookUpTune h first) :=
  s.withTune_quiet _ _ fun _ _ => .ite (fun _ => s.answerWith_quiet _ _ _) fun _ => s.badField_quiet _ _

/-! ## Every request -/

/-- A write an AMEND may ask for: its trim is clamped (R2), its capacity is no less than the load (R170). -/
structure EffectOk (s : State) (e : WriteEffect) : Prop where
  trim : ∀ x, e = .timeSettings x → -255 ≤ x.trim ∧ x.trim ≤ 255
  capacity : ∀ c, e = .feeder c → s.LoadSound → s.feeder.load ≤ c

/-- What working a request can do. -/
inductive Worked (s : State) : State → Prop
  | quietly {t : State} (h : Quiet true s t) : Worked s t
  | asks (e : WriteEffect) (x : Response) (h : EffectOk s e) : Worked s (s.writeThenAnswer e x)
  | waits (basis : TimeBasis) (d : DateTime) (instant : Nat) (h : setTimeInstant s.time.settings.rule basis d = some instant) :
      Worked s (State.deferRequest { s with time.setTimeWait := some { since := s.takenAt, instant := instant } })
  | sets (basis : TimeBasis) (d : DateTime) (instant : Nat) (h : setTimeInstant s.time.settings.rule basis d = some instant) :
      Worked s ((s.takeSetTime instant).answerSetTime false)
  | restarts : Worked s s.requestRestart

theorem EffectOk.plain {e : WriteEffect} (h : ∀ x, e ≠ .timeSettings x) (k : ∀ c, e ≠ .feeder c) : EffectOk s e :=
  ⟨fun x y => absurd y (h x), fun c y => absurd y (k c)⟩

theorem Worked.ite {c : Prop} [Decidable c] {u : State} (h : c → Worked s t) (k : ¬c → Worked s u) :
    Worked s (if c then t else u) := by
  split
  · exact h ‹_›
  · exact k ‹_›

theorem Worked.asksPlain {e : WriteEffect} {x : Response} (h : ∀ x, e ≠ .timeSettings x) (k : ∀ c, e ≠ .feeder c) :
    Worked s (s.writeThenAnswer e x) := .asks e x (.plain h k)

/-- R170: where the load seen at the taking of a feeder AMEND does not refuse it, the load is at most its capacity still. -/
theorem State.load_le_of_loadSeen (s : State) (c : Nat) (hq : ∀ p, s.link.inProgress = some p → p.task = .request (.amendFeeder c))
    (ok : capacityOk c) (h : s.loadSeen ≤ c) (k : s.LoadSound) : s.feeder.load ≤ c := by
  unfold State.loadSeen State.seen at h
  cases hp : s.link.inProgress with
  | none => rw [hp] at h; exact h
  | some p =>
    rw [hp] at h
    cases hs : p.seen with
    | load m =>
      rw [Option.elim_some, hs] at h
      refine k.taken c ?_
      simp only [Link.takenCapacity, hp, Option.bind_some, InProgress.newCapacity, hq p hp, hs, if_pos (⟨ok, h⟩ : _ ∧ _)]
    | nothing => rw [Option.elim_some, hs] at h; exact h
    | stroke x => rw [Option.elim_some, hs] at h; exact h

/-- R184: what working the request in progress can do. -/
theorem State.work_worked (s : State) (q : Request) (hq : ∀ p, s.link.inProgress = some p → p.task = .request q) :
    Worked s (s.work q) := by
  have bad (slot gen : Nat) : Worked s (s.badField slot gen) := .quietly (s.badField_quiet _ _)
  have wrong (slot gen : Nat) : Worked s (s.wrongState slot gen) := .quietly (s.wrongState_quiet _ _)
  cases q with
  | setTime basis d =>
    unfold State.work State.workSetTime
    dsimp only
    split
    · exact bad _ _
    · rename_i i hi
      exact .ite (fun _ => .waits basis d i hi) fun _ => .sets basis d i hi
  | restart => exact .restarts
  | amendTimeSettings x =>
    refine .ite (fun _ => .asks _ _ ⟨fun y hy => ?_, fun c hc => by cases hc⟩) fun _ => bad _ _
    cases hy
    simp only [storedSettings, clampTrim]
    omega
  | amendDial i a =>
    refine .ite (fun _ => .ite (fun _ => .quietly s.deferRequest_quiet) fun _ => ?_) fun _ => bad _ _
    exact .asksPlain (fun x h => by cases h) fun x h => by cases h
  | amendLine i x =>
    refine .ite (fun _ => .ite (fun _ => wrong _ _) fun _ => .ite (fun _ => .quietly (s.answer_quiet _)) fun _ => ?_)
      fun _ => bad _ _
    exact .asksPlain (fun x h => by cases h) fun x h => by cases h
  | amendBell i c =>
    refine .ite (fun _ => .ite (fun _ => wrong _ _) fun _ => ?_) fun _ => bad _ _
    exact .asksPlain (fun x h => by cases h) fun x h => by cases h
  | amendChimeMap p => exact .ite (fun _ => .asksPlain (fun x h => by cases h) fun x h => by cases h) fun _ => bad _ _
  | amendClockProgram c => exact .ite (fun _ => .asksPlain (fun x h => by cases h) fun x h => by cases h) fun _ => bad _ _
  | amendDuskSettings l a b => exact .ite (fun _ => .asksPlain (fun x h => by cases h) fun x h => by cases h) fun _ => bad _ _
  | amendDuskTable p => exact .ite (fun _ => .asksPlain (fun x h => by cases h) fun x h => by cases h) fun _ => bad _ _
  | amendChannel i c => exact .ite (fun _ => .asksPlain (fun x h => by cases h) fun x h => by cases h) fun _ => bad _ _
  | amendScene h c =>
    unfold State.work State.workAmendScene State.withScene
    dsimp only
    refine .ite (fun _ => ?_) fun _ => bad _ _
    split
    · exact .quietly (s.noRecord_quiet _ _)
    · refine .ite (fun _ => wrong _ _) fun _ => .ite (fun _ => ?_) fun _ => bad _ _
      exact .asksPlain (fun x h => by cases h) fun x h => by cases h
  | amendFeeder c =>
    refine .ite (fun ok => .ite (fun _ => wrong _ _) fun h => .asks _ _ ⟨fun y hy => (by cases hy), fun c' hc k => ?_⟩)
      fun _ => bad _ _
    cases hc
    exact s.load_le_of_loadSeen c hq ok (Nat.le_of_not_lt h) k
  | amendConditions e => exact .asksPlain (fun x h => by cases h) fun x h => by cases h
  | setDial i p => exact .quietly (s.workSetDial_quiet _ _)
  | swing i m => exact .quietly (s.workSwing_quiet _ _)
  | stopBell i => exact .quietly (s.workStopBell_quiet _)
  | openTune l => exact .quietly (s.workOpenTune_quiet _)
  | appendSteps h l => exact .quietly (s.workAppend_quiet _ _)
  | closeTune h => exact .quietly (s.workCloseTune_quiet _)
  | retireTune h m => exact .quietly (s.workRetireTune_quiet _)
  | play h a b c d => exact .quietly (s.workPlay_quiet _ _ _ _ _)
  | stopChimeEntry n => exact .quietly (s.workStopEntry_quiet _)
  | toll a b c d => exact .quietly (s.workToll_quiet _ _ _ _)
  | stopTollChannel c => exact .quietly (s.workStopToll_quiet _)
  | storeOccasion c => exact .quietly (s.workStoreOccasion_quiet _)
  | suspend h => exact .quietly (s.workSuspend_quiet _)
  | resume h => exact .quietly (s.workResume_quiet _)
  | retireGentle h => exact .quietly (s.workRetireGentle_quiet _)
  | retireAbrupt h => exact .quietly (s.workRetireAbrupt_quiet _)
  | raiseScene h m => exact .quietly (s.workRaiseScene_quiet _ _)
  | lowerScene h => exact .quietly (s.workLowerScene_quiet _)
  | storeScene c => exact .quietly (s.workStoreScene_quiet _)
  | retireScene h m => exact .quietly (s.workRetireScene_quiet _)
  | readConditions => exact .quietly s.workReadConditions_quiet
  | acknowledge n => exact .quietly (s.workAcknowledge_quiet _)
  | amendTune h l => exact .quietly (s.workAmendTune_quiet _ _)
  | amendOccasion h c => exact .quietly (s.workAmendOccasion_quiet _ _)
  | listNextTune a f => exact .quietly (s.answerNext_quiet _)
  | listNextOccasion a f => exact .quietly (s.answerNext_quiet _)
  | listNextScene a f => exact .quietly (s.answerNext_quiet _)
  | lookUpDial i => exact .quietly (s.answerIndex_quiet _ _ _)
  | lookUpLine i => exact .quietly (s.answerIndex_quiet _ _ _)
  | lookUpBell i => exact .quietly (s.answerIndex_quiet _ _ _)
  | lookUpChannel i => exact .quietly (s.answerIndex_quiet _ _ _)
  | lookUpTune h f => exact .quietly (s.workLookUpTune_quiet _ _)
  | lookUpOccasion h => exact .quietly (s.withOccasion_quiet _ _ fun _ => s.answerWith_quiet _ _ _)
  | lookUpScene h => exact .quietly (s.withScene_quiet _ _ fun _ => s.answerWith_quiet _ _ _)
  | readStateDial i => exact .quietly (s.answerIndex_quiet _ _ _)
  | readStateLine i => exact .quietly (s.answerIndex_quiet _ _ _)
  | readStateBell i => exact .quietly (s.answerIndex_quiet _ _ _)
  | readStateChannel i => exact .quietly (s.answerIndex_quiet _ _ _)
  | readStateTune h => exact .quietly (s.withTune_quiet _ _ fun _ _ => s.answerWith_quiet _ _ _)
  | readStateOccasion h => exact .quietly (s.withOccasion_quiet _ _ fun _ => s.answerWith_quiet _ _ _)
  | readStateScene h => exact .quietly (s.withScene_quiet _ _ fun _ => s.answerWith_quiet _ _ _)
  | lookUpTimeSettings => exact .quietly (s.answerWith_quiet _ _ _)
  | lookUpChimeMap => exact .quietly (s.answerWith_quiet _ _ _)
  | lookUpClockProgram => exact .quietly (s.answerWith_quiet _ _ _)
  | lookUpDuskSettings => exact .quietly (s.answerWith_quiet _ _ _)
  | lookUpDuskTable => exact .quietly (s.answerWith_quiet _ _ _)
  | lookUpFeeder => exact .quietly (s.answerWith_quiet _ _ _)
  | lookUpConditions => exact .quietly (s.answerWith_quiet _ _ _)
  | readStateClockProgram => exact .quietly (s.answerWith_quiet _ _ _)
  | readStateTimeBase => exact .quietly (s.answerWith_quiet _ _ _)
  | readStateTuneLibrary => exact .quietly (s.answerWith_quiet _ _ _)
  | readStateChimeSequencer => exact .quietly (s.answerWith_quiet _ _ _)
  | readStateOccasionCalendar => exact .quietly (s.answerWith_quiet _ _ _)
  | readStateFloodlightMixer => exact .quietly (s.answerWith_quiet _ _ _)
  | readStateFeederAccount => exact .quietly (s.answerWith_quiet _ _ _)

/-- R182, R184: what a taken frame asks for does no more than a request. -/
theorem State.workTask_worked (s : State) (t : Task) (ht : ∀ p, s.link.inProgress = some p → p.task = t) :
    Worked s (s.workTask t) := by
  cases t with
  | request q => exact s.work_worked q ht
  | refused status slot gen => exact .quietly (s.answer_quiet _)
  | badSteps h =>
    exact .quietly (s.withTune_quiet _ _ fun _ _ => .ite (fun _ => s.wrongState_quiet _ _) fun _ => s.badField_quiet _ _)

/-! ## Deferred requests -/

/-- R20: a dial AMEND that waited asks for its write, or goes on waiting. -/
theorem State.resumeAmendDial_worked (s : State) :
    s.resumeAmendDial = s ∨ ∃ i a x, s.resumeAmendDial =
      (s.setPhaseOfRequest .working).writeThenAnswer (.dial i a) x := by
  unfold State.resumeAmendDial
  split
  · split
    · exact .inr ⟨_, _, _, rfl⟩
    · exact .inl rfl
  · exact .inl rfl

theorem State.resumeSetDial_quiet (s : State) : Quiet r s s.resumeSetDial := by
  unfold State.resumeSetDial
  split
  · exact .ite (fun _ => (State.doSetDial_quiet _ _ _).after (s.setPhaseOfRequest_quiet _)) fun _ => .refl r s
  · exact .refl r s

/-! ## Frames and boundaries -/

theorem State.beginFrame_quiet (s : State) : Quiet r s s.beginFrame :=
  .ite (fun _ => .refl r s) fun _ => .ite (fun _ => .of_link) fun _ => .of_link

theorem State.reportInEffect_quiet (s : State) (k : Nat) : Quiet r s (s.reportInEffect k) := by
  unfold State.reportInEffect
  split
  · exact .ite (fun _ => .of_feeder_le rfl (Nat.le_refl _)) fun _ => .refl r s
  · exact .refl r s

theorem State.beginMixerFrame_quiet (s : State) : Quiet r s s.beginMixerFrame := by
  unfold State.beginMixerFrame
  dsimp only
  exact (State.computeFrame_quiet _ _).after (Quiet.after (Quiet.of_layers (List.Sublist.refl _) (List.Sublist.refl _))
    ((State.givePermissions_quiet _ _).after ((State.reportInEffect_quiet _ _).after s.deliverFrame_quiet)))

theorem State.passBoundary_quiet (s : State) : Quiet r s s.passBoundary :=
  .ite (fun _ => s.beginMixerFrame_quiet) fun _ => .refl r s

/-! ## Ends of writes -/

theorem State.releaseRequest_quiet (s : State) : Quiet r s s.releaseRequest := by
  unfold State.releaseRequest
  split
  · exact .refl r s
  · rename_i h
    exact .ite (fun _ => .of_link fun _ k => by rw [Link.takenCapacity, h]; exact k) fun _ => .refl r s

theorem State.storeDusk_quiet (s : State) (l : Option Nat) (a b : Nat) : Quiet r s (s.storeDusk l a b) := .of_calendar
theorem State.storeDuskTable_quiet (s : State) (p : List (Nat × Nat)) : Quiet r s (s.storeDuskTable p) := .of_calendar

theorem State.applyChannel_quiet (s : State) (i : Nat) (c : ChannelConfig) : Quiet r s (s.applyChannel i c) := by
  unfold State.applyChannel
  dsimp only
  exact .ite (fun _ => s.setChannel_quiet _ _) fun _ =>
    Quiet.after (Quiet.of_layers (List.Sublist.refl _) (List.Sublist.refl _)) (s.setChannel_quiet _ _)

/-- A layer taken out and put back in its place leaves the stack the same scenes. -/
theorem insertLayer_back_perm (p : Layer → Bool) (l : List Layer) (x : Layer) (hx : x ∈ l)
    (hn : (l.map (·.scene)).Nodup) :
    ((l.filter (fun y => y.scene != x.scene)).takeWhile p ++ x :: (l.filter (fun y => y.scene != x.scene)).dropWhile p).Perm
      l := by
  refine (takeWhile_dropWhile_perm p _ x).trans ?_
  induction l with
  | nil => cases hx
  | cons a l ih =>
    simp only [List.map_cons, List.nodup_cons] at hn
    by_cases e : a = x
    · subst e
      have : l.filter (fun y => y.scene != a.scene) = l := by
        rw [List.filter_eq_self]
        intro y hy
        simp only [bne_iff_ne, ne_eq]
        exact fun h => hn.1 (List.mem_map.2 ⟨y, hy, h⟩)
      simp [this]
    · have hm : x ∈ l := by
        rcases List.mem_cons.1 hx with rfl | h
        · exact absurd rfl e
        · exact h
      have hs : a.scene ≠ x.scene := fun h => hn.1 (List.mem_map.2 ⟨x, hm, h.symm⟩)
      simp only [List.filter_cons, bne_iff_ne, ne_eq, hs, not_false_eq_true, if_true]
      exact (List.Perm.swap ..).trans ((ih hm hn.2).cons a)

theorem State.applyScene_quiet (s : State) (h : Handle) (c : SceneConfig) : Quiet r s (s.applyScene h c) := by
  unfold State.applyScene
  split
  · exact .refl r s
  · rename_i x _
    dsimp only
    split
    · exact s.setScene_quiet _ _
    · rename_i l hl
      have hm : l ∈ s.mixer.layers := List.mem_of_find?_eq_some hl
      have he : l.scene = h := by simpa using List.find?_some hl
      subst he
      have q := s.setScene_quiet (r := r) l.scene.slot { x with config := c }
      refine { q with
        loads := fun k => ⟨(q.loads k).capacity, (q.loads k).amends, (q.loads k).taken⟩
        lists := fun k => ?_ }
      have p := insertLayer_back_perm (fun y => State.stackBefore
        { s.setScene l.scene.slot { x with config := c } with
          mixer.layers := s.mixer.layers.filter fun y => y.scene != l.scene } y l)
        s.mixer.layers l hm k.layerScenes
      exact ⟨k.queue, p.length_eq.trans_le k.layers, (p.map (·.scene)).nodup_iff.2 k.layerScenes, k.standing,
        k.standingScenes⟩

/-- R170: the new capacity, which the load does not exceed, and a try of the ask list. -/
theorem State.applyFeeder_quiet (s : State) (c : Nat) (h : s.LoadSound → s.feeder.load ≤ c) : Quiet r s (s.applyFeeder c) := by
  unfold State.applyFeeder
  refine (State.tryAsks_quiet _).after (Quiet.of_feeder fun k => ⟨h k, k.amends, k.taken⟩)

/-- The end of a plain write acts quietly. -/
theorem State.applyWrite_quiet (s : State) (e : WriteEffect) (p : e.Plain) : Quiet r s (s.applyWrite e) := by
  cases e with
  | stored _ => exact .refl r s
  | timeSettings x => exact absurd rfl (p.noSettings x)
  | dial i a => exact s.applyDial_quiet _ _
  | line i x => exact s.applyLine_quiet _ _
  | bell i c => exact (State.settleContexts_quiet _).after (s.applyBell_quiet _ _)
  | chimeMap q => exact { Quiet.refl r s with
      pool := rfl
      loads := fun k => ⟨k.capacity, k.amends, k.taken⟩
      lists := fun k => ⟨k.queue, k.layers, k.layerScenes, k.standing, k.standingScenes⟩ }
  | clockProgram c => exact .of_program
  | duskSettings l a b => exact (State.recomputeDuskAll_quiet _).after (s.storeDusk_quiet _ _ _)
  | duskTable q => exact (State.recomputeDuskAll_quiet _).after (s.storeDuskTable_quiet _)
  | channel i c => exact s.applyChannel_quiet _ _
  | scene x c => exact s.applyScene_quiet _ _
  | feeder c => exact absurd rfl (p.noCapacity c)
  | conditions f => exact .of_link
  | hammerFault i f => exact (State.settleContexts_quiet _).after (s.keepHammerFault_quiet _ _)
  | motorFault i => exact (State.settleContexts_quiet _).after (s.keepMotorFault_quiet _)
  | sensorFault => exact .of_calendar

theorem State.storeWrite_quiet (s : State) (e : WriteEffect) (p : e.Plain) : Quiet r s (s.storeWrite e) := by
  cases e with
  | stored _ => exact .refl r s
  | timeSettings x => exact absurd rfl (p.noSettings x)
  | dial i a => exact s.setDial_quiet _ _
  | line i x => exact s.setLine_quiet _ _
  | bell i c => exact s.setBell_quiet _ _
  | chimeMap q => exact { Quiet.refl r s with
      pool := rfl
      loads := fun k => ⟨k.capacity, k.amends, k.taken⟩
      lists := fun k => ⟨k.queue, k.layers, k.layerScenes, k.standing, k.standingScenes⟩ }
  | clockProgram c => exact .of_program
  | duskSettings l a b => exact s.storeDusk_quiet _ _ _
  | duskTable q => exact s.storeDuskTable_quiet _
  | channel i c => exact s.setChannel_quiet _ _
  | scene x c =>
    unfold State.storeWrite
    dsimp only
    split
    · exact .refl r s
    · exact s.setScene_quiet _ _
  | feeder c => exact absurd rfl (p.noCapacity c)
  | conditions f => exact .of_link
  | hammerFault i f => exact .ite (fun _ => s.setBell_quiet _ _) fun _ => .refl r s
  | motorFault i => exact s.setBell_quiet _ _
  | sensorFault => exact .of_calendar

end Sys2Proof.Machine
end

