-- ==== Sys2Proof/Tests/Slice0.lean ====
section
/-! SUPPORT. Tests: ill-formed operands that WellFormed refuses, frames written out byte by byte, single commands against the
worked examples of spec/, and for each statement with hypotheses a state and operands that meet them. -/

open Sys2Proof Sys2Proof.Machine

namespace Sys2Proof.Tests

set_option Elab.async false

/-! ## A small tower -/

/-- A bell in service with a hammer, a swing sensor, a rest contact and a motor. -/
def bell0 : Bell :=
  { Bell.blank with
    config := { Bell.blank.config with group := .ring, inService := true, hammerInService := true, motorInService := true
                                       sensorMode := .swingAndRest, settle := 10, lead := 150, feedback := .busy
                                       motorRating := 2000 }
    swing := .atRest }

def dial0 : Dial := { Dial.blank with service := true, state := .run, position := 100, window := 600 }

def lineOf (f : LineFunction) (bound : Option Nat) : Line :=
  { Line.blank with record := { function := f, bound := bound, activeHigh := true, filter := 5 } }

/-- The same line with its pin active past its filter time and not yet taken. -/
def risenLine (f : LineFunction) (bound : Option Nat) : Line := { lineOf f bound with pinHigh := true, changing := some 99000 }

/-- The same line, active and taken, its pin inactive past its filter time. -/
def fallenLine (f : LineFunction) (bound : Option Nat) : Line := { lineOf f bound with filtered := true, changing := some 99000 }

def tune0 : Tune :=
  { label := [], state := .live, refs := 0
    steps := [.note [4] 2 50, .rest 7, .call ⟨2, 1⟩ 2, .rest 9] }

def scene0 : Scene :=
  { config := { label := [], levels := [(0, 4000)], fadeIn := 4, fadeOut := 8, priority := 3, mode := .top }, state := .live }

/-- Noon of day 9000. -/
def noon : Nat := 9000 * 86400 + 43200

def occasion0 : Occasion :=
  { config := { label := [], recurrence := .daily, firstDate := none, lastDate := none, anchor := .clock 12 0 0, grace := 5
                priority := 4, actions := [{ offset := 60, kind := .toll 0 3 5 1 }] }
    state := .armed, due := some { instant := noon, day := 9000 }, lastFired := none, outcome := [], missed := 0
    context := none, waiting := false }

/-- One bell with its lines, one dial, one lamp, a tune in slot 0 and a scene in slot 0, at noon of a day, 100 s of elapsed time in. -/
def tower : State :=
  let s : State := { State.reset with
    clock := 3276800
    time := { TimeBase.reset with valid := true, standard := noon, lastSecond := some 3276800 }
    feeder := { State.reset.feeder with capacity := 5000 } }
  let s := ((((s.setLine 0 (lineOf .hammerStrike (some 0))).setLine 1 (lineOf .hammerBusy (some 0))).setLine 2
    (lineOf .swingSense (some 0))).setLine 3 (lineOf .restSense (some 0))).setLine 4 (lineOf .motor (some 0))
  let s := (((s.setLine 5 (lineOf .dialPositive (some 0))).setLine 6 (lineOf .dialNegative (some 0))).setLine 7
    (lineOf .dialSense (some 0))).setLine 8 (lineOf .lamp (some 0))
  let s := ((s.setLine 9 (lineOf .bellKey (some 0))).setLine 10 (lineOf .ringingSwitch none)).setLine 56 (lineOf .ambient none)
  let s := ((s.setBell 0 bell0).setStroke 0 .idle).setDial 0 dial0
  let s := (s.setTuneSlot 0 { gen := 1, record := some tune0 }).setSceneSlot 0 { gen := 1, record := some scene0 }
  let s := s.setChannel 0 { Channel.blank with config := { Channel.blank.config with inService := true, rating := 1000, floor := 9 } }
  { s with tunes.freeSteps := 2044, tunes.chimeMap := s.tunes.chimeMap.setIfInBounds 4 (some 0) }

/-- A next state with a property. -/
def nextIs (o : Result) (p : State → Bool) : Bool :=
  match o with
  | .next t => p t
  | .fault _ => false
  | .refused _ => false

theorem of_nextIs {o : Result} {p : State → Bool} (h : nextIs o p = true) : ∃ t, o = .next t ∧ p t = true := by
  unfold nextIs at h
  split at h
  · exact ⟨_, rfl, h⟩
  · cases h
  · cases h

/-- What `HostReady` asks, as a test that decides. -/
abbrev Ready (s : State) : Prop :=
  s.time.power = .mains ∧ s.link.sel = false ∧ s.link.inProgress = none ∧ s.memory.writes = [] ∧ s.hammers.gate = .closed

theorem ready {s : State} (h : Ready s) : s.HostReady := ⟨h.1, h.2.1, h.2.2.1, h.2.2.2.1, h.2.2.2.2⟩

theorem tower_ready : tower.HostReady := ready (by decide +kernel)

/-- No occasion is marked waiting for a context. -/
def Calm (s : State) : Prop := ∀ j o, (s.occasionSlot j).record = some o → (o.waiting && o.due.isSome) = false

theorem Calm.noneWaits {s : State} (h : Calm s) : s.firstWaiting = none := State.firstWaiting_eq_none h

theorem tower_empty (j : Nat) : (tower.occasionSlot j).record = none := by
  have h : tower.calendar.slots = Vector.replicate 256 { gen := 0, record := none } := rfl
  unfold State.occasionSlot
  rw [h]
  simp only [Vector.getD, Vector.toArray_replicate, Array.getD_eq_getD_getElem?, Array.getElem?_replicate]
  split <;> rfl

theorem calm_of_tower {s : State} (h : s.calendar.slots = tower.calendar.slots) : Calm s := by
  intro j o ho
  rw [State.occasionSlot, h] at ho
  exact absurd ((tower_empty j).symm.trans ho) nofun

theorem Calm.put {s : State} {i gen : Nat} {o : Occasion} (h : Calm s) (ho : (o.waiting && o.due.isSome) = false) :
    Calm (s.setOccasionSlot i { gen := gen, record := some o }) := by
  intro j x hx
  rw [State.occasionSlot_setOccasionSlot] at hx
  split at hx
  · cases hx; exact ho
  · exact h j x hx

theorem Calm.of_slots {s t : State} (h : Calm s) (ht : t.calendar.slots = s.calendar.slots) : Calm t := by
  intro j o ho
  rw [State.occasionSlot, ht] at ho
  exact h j o ho

theorem Calm.settled {s : State} (h : Calm s) (hd : s.doneContext = none) : s.Settled := ⟨hd, .inr h.noneWaits⟩

theorem tower_calm : Calm tower := calm_of_tower rfl

theorem tower_firstWaiting : tower.firstWaiting = none := tower_calm.noneWaits

theorem tower_settled : tower.Settled := tower_calm.settled (by decide +kernel)

theorem firstWaiting_of_tower {s : State} (h : s.calendar = tower.calendar) : s.firstWaiting = none :=
  (calm_of_tower (congrArg (·.slots) h)).noneWaits

/-- A state whose calendar is the tower's has nothing to settle. -/
theorem settled_of_tower {s : State} (h : s.calendar = tower.calendar) : s.Settled := by
  have h1 : s.doneContext = tower.doneContext := by simp only [State.doneContext, State.context, h]
  exact ⟨h1.trans tower_settled.1, .inr (firstWaiting_of_tower h)⟩

/-! ## Ill-formed operands (WellFormed) -/

theorem test_refuses_line : (Instr.inputFilterExpiry 0 64).wellFormed = false := by decide
theorem test_refuses_bell : (Instr.raiseMoment 0 40).wellFormed = false := by decide
theorem test_refuses_dial : (Instr.impulseEnd 0 6).wellFormed = false := by decide
theorem test_refuses_toll_channel : (Instr.tollEnd 0 2).wellFormed = false := by decide
theorem test_refuses_context : (Instr.actionStart 0 8).wellFormed = false := by decide
theorem test_refuses_reading : (Instr.pinLevelChange 0 56 true 1024).wellFormed = false := by decide
theorem test_refuses_byte : (Instr.swing 0 256 1).wellFormed = false := by decide
theorem test_refuses_word : (Instr.setDial 0 0 65536).wellFormed = false := by decide
theorem test_refuses_signed_byte : (Instr.play 0 ⟨0, 1⟩ 128 1 1 true).wellFormed = false := by decide
theorem test_refuses_signed_word :
    (Instr.amendTimeSettings 0 { TimeSettings.blank with trim := 32768 }).wellFormed = false := by decide
theorem test_refuses_label : (Instr.openTune 0 (List.replicate 17 65#8)).wellFormed = false := by decide
theorem test_refuses_handle : (Instr.closeTune 0 ⟨256, 1⟩).wellFormed = false := by decide
theorem test_refuses_payload : (Instr.appendSteps 0 ⟨0, 1⟩ (List.replicate 65 (.rest 1))).wellFormed = false := by decide
theorem test_refuses_step : (Instr.appendSteps 0 ⟨0, 1⟩ [.note [1, 2, 3, 4, 5] 0 1]).wellFormed = false := by decide
theorem test_refuses_date_time : (Instr.setTime 0 .localTime ⟨⟨65536, 1, 1⟩, 0, 0, 0⟩).wellFormed = false := by decide
theorem test_refuses_hour_minute :
    (Instr.amendClockProgram 0 { ClockConfig.blank with nightStart := some ⟨256, 0⟩ }).wellFormed = false := by decide
theorem test_refuses_dial_record :
    (Instr.amendDial 0 0 { label := [], service := true, impulseWidth := 255, spacing := 1000, window := 0 }).wellFormed = false := by
  decide
theorem test_refuses_line_record :
    (Instr.amendLine 0 0 { function := .lamp, bound := some 256, activeHigh := true, filter := 0 }).wellFormed = false := by decide
theorem test_refuses_bell_record :
    (Instr.amendBell 0 0 { Bell.blank.config with lead := 65536 }).wellFormed = false := by decide
theorem test_refuses_occasion :
    (Instr.storeOccasion 0 { occasion0.config with actions := List.replicate 5 { offset := 0, kind := .silence 1 } }).wellFormed
      = false := by decide
theorem test_refuses_channel : (Instr.amendChannel 0 0 { Channel.blank.config with rating := 65536 }).wellFormed = false := by
  decide
theorem test_refuses_scene : (Instr.storeScene 0 { scene0.config with levels := [(0, 65536)] }).wellFormed = false := by
  decide
theorem test_refuses_pairs : (Instr.amendChimeMap 0 [(256, none)]).wellFormed = false := by decide
theorem test_admits_request : (Instr.play 0 ⟨63, 255⟩ (-16) 99 7 false).wellFormed = true := by decide

/-! ## Frames, byte by byte from the layouts of section 11.5 -/

theorem test_frame_read_conditions : decodeFrame [20, 14, 0, 0, 0, 0] = .taken (.request .readConditions) := by decide
theorem test_frame_set_dial : decodeFrame [12, 2, 1, 0, 0, 2, 4, 210] = .taken (.request (.setDial 1 1234)) := by decide
theorem test_frame_play : decodeFrame [13, 5, 3, 1, 0, 4, 253, 2, 5, 1] = .taken (.request (.play ⟨3, 1⟩ (-3) 2 5 true)) := by decide
theorem test_frame_toll : decodeFrame [14, 16, 0, 0, 0, 5, 38, 10, 1, 44, 2] = .taken (.request (.toll 38 10 300 2)) := by decide
theorem test_frame_append_steps :
    decodeFrame [5, 5, 3, 1, 0, 16, 1, 3, 0, 200, 0, 4, 7, 255, 3, 3, 2, 8, 0, 0, 0, 0]
      = .taken (.request (.appendSteps ⟨3, 1⟩ [.note [0, 4, 7] 3 200, .call ⟨2, 8⟩ 3])) := by decide
theorem test_frame_amend_feeder : decodeFrame [7, 13, 0, 0, 0, 2, 31, 64] = .taken (.request (.amendFeeder 8000)) := by decide
theorem test_frame_suspend : decodeFrame [9, 8, 12, 4, 0, 0] = .taken (.request (.suspend ⟨12, 4⟩)) := by decide
theorem test_frame_swing : decodeFrame [15, 4, 31, 0, 0, 1, 5] = .taken (.request (.swing 31 5)) := by decide
theorem test_frame_lower_scene : decodeFrame [18, 12, 3, 1, 0, 0] = .taken (.request (.lowerScene ⟨3, 1⟩)) := by decide
theorem test_frame_retire_abrupt : decodeFrame [8, 8, 12, 4, 0, 1, 1] = .taken (.request (.retireAbrupt ⟨12, 4⟩)) := by decide
/-- R181: a payload cut short, a length above 512 and an unknown command code are BAD FRAMEs. -/
theorem test_bad_frames : decodeFrame [7, 13, 0, 0, 0, 2, 31] = .badFrame ∧ decodeFrame [5, 5, 0, 1, 2, 1] = .badFrame ∧
    decodeFrame [23, 1, 0, 0, 0, 0] = .badFrame ∧ decodeFrame [7, 13, 0, 0] = .badFrame := by decide
theorem test_no_request : decodeFrame [] = .nothing ∧ decodeFrame [0, 9, 9] = .nothing := by decide

/-! ## Pure rules against worked examples -/

/-- Example 2-1: at 14:42:10 the target is 324 and the distance from 1234 is 530. -/
theorem test_dial_example : dialTarget (52930 : Nat) = 324 ∧ distance 324 1234 = 530 := by decide
/-- Example 2-1: a spacing of 1.0 s is clamped to 1.5 s for a width of 800 ms. -/
theorem test_spacing_clamped : clampSpacing 800 1000 = 1500 := by decide
/-- Example 1-2: 2031-01-01 is day 11323, a WEDNESDAY, and the last Sunday of October 2031 is the 26th. -/
theorem test_calendar_example : dayNumber ⟨2031, 1, 1⟩ = 11323 ∧ weekdayIndex 11323 = 2 ∧
    nthWeekday 2031 10 5 .sunday = 26 ∧ nthWeekday 2031 3 5 .sunday = 30 := by decide

/-- The rule of Example 1-2. -/
def exampleRule : SummerRule := { TimeSettings.blank.rule with enabled := true }

/-- Example 1-2: the repeated hour takes the summer reading; Example 1-3: the skipped hour has none. -/
theorem test_local_reading :
    setTimeInstant exampleRule .localTime ⟨⟨2031, 10, 26⟩, 1, 30, 0⟩ = some (11621 * 86400 + 1800) ∧
    setTimeInstant exampleRule .localTime ⟨⟨2031, 3, 30⟩, 1, 59, 59⟩ = none ∧
    (setTimeInstant exampleRule .standardTime ⟨⟨2031, 3, 30⟩, 1, 59, 59⟩).isSome = true := by decide

/-- Example 5-3: the map sends degree g to bell 12 + g up to 22. -/
def exampleMap : TuneLibrary :=
  { State.reset.tunes with chimeMap := Vector.ofFn fun (i : Fin 32) => if i.val ≤ 22 then some (12 + i.val) else none }
theorem test_map_example : exampleMap.lookUp 16 0 = .bell 28 ∧ exampleMap.lookUp 16 7 = .unmapped ∧
    exampleMap.lookUp (-3) 0 = .outOfRange ∧ exampleMap.lookUp (-3) 4 = .bell 13 := by decide +kernel

/-- Example 9-1: a fade in of 128 frames, and its reversal from 80 over 64. -/
theorem test_fade_example :
    let l : Layer := { scene := ⟨3, 1⟩, sequence := 2, f := 0, f0 := 0, target := 256, k0 := 5, length := 128 }
    let back : Layer := { l with f0 := 80, target := 0, k0 := 46, length := 64 }
    l.factor 45 = 80 ∧ back.factor 46 = 80 ∧ back.factor 62 = 60 ∧ back.factor 110 = 0 ∧
    mixLevel .top 3000 1000 80 = 2375 ∧ mixLevel .top 3000 1000 60 = 2531 := by decide
/-- Examples 9-2 and 10-1: the terms, the target, the scaled levels and the restoring scale. -/
theorem test_scale_example : channelTerm 2000 4095 = 2000 ∧ channelTerm 1500 2048 = 751 ∧ targetScale 2751 2500 = 3722 ∧
    scaledLevel 4095 3722 = 3721 ∧ scaledLevel 2048 3722 = 1861 ∧ flooredLevel 1861 1900 = 0 ∧ nextScale 4096 3722 = 3786 ∧
    nextScale 4096 4042 = 4096 ∧ targetScale 2751 1000 = 1488 := by decide
/-- Example 9-2: channel 3 at 3721 has an extra count in cycles 1, 3, 5, 7, 8, 10, 12, 14 and 15. -/
theorem test_lamp_example : (List.range 16).filter (fun c => lampOn 3721 (c * 256 + 232)) = [1, 3, 5, 7, 8, 10, 12, 14, 15] := by
  decide

/-! ## Single commands -/

/-- R1: the full second is counted, and the one whose cycle number is 31 is trimmed. -/
theorem test_second_end : nextIs (exec (.secondEnd 32768) { tower with time.trimCycle := 30, time.settings.trim := 13 })
    (fun t => t.time.standard == noon + 1 && t.time.secondLength == 32755 && t.time.trimCycle == 31) = true := by decide +kernel
/-- R4: the range ends with the time invalid. -/
theorem test_second_end_wraps : nextIs (exec (.secondEnd 32768) { tower with time.standard := 6311433599, time.power := .reserve })
    (fun t => t.time.standard == 0 && !t.time.valid && t.link.flags.getLsbD 10) = true := by decide +kernel
/-- R3: an early edge restarts the second. -/
theorem test_smark_edge : nextIs (exec (.smarkEdge 8192) { tower with time.settings.markEnable := true })
    (fun t => t.time.prescaler == 0 && t.time.lastAlignment == some 8192 && t.time.standard == noon) = true := by decide +kernel
/-- Example 1-2, step 1: with the mark input enabled the SET TIME waits. -/
theorem test_set_time_waits :
    nextIs (exec (.setTime 0 .localTime ⟨⟨2031, 10, 26⟩, 1, 30, 0⟩)
      { State.reset with time.settings := { TimeSettings.blank with markEnable := true, rule := exampleRule } })
      (fun t => t.time.setTimeWait == some { since := 0, instant := 11621 * 86400 + 1800 } && t.link.inProgress.isSome) = true := by
  decide +kernel
/-- R10: 2023-02-29 is no date. -/
theorem test_set_time_bad : nextIs (exec (.setTime 0 .standardTime ⟨⟨2023, 2, 29⟩, 0, 0, 0⟩) tower)
    (fun t => t.link.waiting == some (reply .badField 0 0) && t.time.standard == noon) = true := by decide +kernel
/-- R15: the outputs are released and the entry recorded. -/
theorem test_reserve_entry : nextIs (exec (.reserveEntry 0) tower)
    (fun t => t.time.power == .reserve && t.time.reserveEntry == noon && !t.time.msense) = true := by decide +kernel
/-- R16: one count less than 2 s does not qualify. -/
theorem test_qualification :
    nextIs (exec (.msenseQualificationExpiry 65535) { State.reset with time.power := .reserve, time.qualification := some 0 })
      (fun t => t.time.power == .reserve && t.time.qualification == some 0) = true := by decide +kernel
theorem test_qualification_start : nextIs (exec (.msenseQualificationStart 5) { State.reset with time.power := .reserve })
    (fun t => t.time.qualification == some 5 && t.time.msense) = true := by decide +kernel
theorem test_qualification_cancel :
    nextIs (exec (.msenseQualificationCancel 5) { State.reset with time.power := .reserve, time.qualification := some 0 })
      (fun t => t.time.qualification == none && t.time.power == .reserve) = true := by decide +kernel
/-- R17: total loss. -/
theorem test_power_up : nextIs (exec (.countingDomainPowerUp 0) tower)
    (fun t => t.time.standard == 0 && !t.time.valid && t.time.coldStartPending && t.time.power == .reserve) = true := by decide +kernel
/-- R40: a level that leaves the filtered state starts the filter. -/
theorem test_pin_level_change : nextIs (exec (.pinLevelChange 0 9 true 0) tower)
    (fun t => (t.line 9).pinHigh && (t.line 9).changing == some 100000 && !(t.line 9).filtered) = true := by decide +kernel
/-- R46: the bell key locks its bell when the filter has run. -/
theorem test_input_filter_expiry : nextIs (exec (.inputFilterExpiry 0 9) (tower.setLine 9 (risenLine .bellKey (some 0))))
    (fun t => (t.bell 0).swing == .locked) = true := by decide +kernel
/-- R48: the rest contact open, the bell is UP. -/
theorem test_quiet_timer_expiry :
    nextIs (exec (.quietTimerExpiry 0 0) (tower.setBell 0 { bell0 with swing := .swinging, quietUntil := some 100000 }))
      (fun t => (t.bell 0).swing == .up) = true := by decide +kernel
/-- R49: 10 s after the last pulse and the closing of the rest contact, at a SECOND. -/
theorem test_settle_time_expiry :
    nextIs (exec (.settleTimeExpiry 0 0)
      (tower.setBell 0 { bell0 with swing := .settling, lastPulse := some 90000, restClosedSince := some 90000 }))
      (fun t => (t.bell 0).swing == .atRest) = true := by decide +kernel
/-- R27: the impulse starts with the next polarity. -/
theorem test_rest_rule_expiry : nextIs (exec (.restRuleExpiry 0 0) (tower.setDial 0 { dial0 with lastStart := some 99000 }))
    (fun t => (t.dial 0).impulse == some { polarity := .positive, began := 100000, sensed := false }) = true := by decide +kernel
/-- R29: the hands have moved one step, from 1439 to 0. -/
theorem test_impulse_end :
    nextIs (exec (.impulseEnd 0 0)
      (tower.setDial 0 { dial0 with position := 1439, impulse := some { polarity := .positive, began := 99500, sensed := true } }))
      (fun t => (t.dial 0).position == 0 && (t.dial 0).nextPolarity == .negative && t.memory.writes.length == 1) = true := by
  decide +kernel
/-- R30: no current 50 ms on. -/
theorem test_no_current :
    nextIs (exec (.noCurrent 0 0)
      (tower.setDial 0 { dial0 with impulse := some { polarity := .positive, began := 99950, sensed := false } }))
      (fun t => (t.dial 0).state == .fault && (t.dial 0).position == 100 && t.link.flags.getLsbD 1) = true := by decide +kernel
/-- R23, R24: 1340 steps forward of noon's target 0 are outside the window, the dial holds. -/
theorem test_deferred_reconciliation : nextIs (exec (.deferredReconciliation 0 0) (tower.setDial 0 { dial0 with owed := true }))
    (fun t => (t.dial 0).state == .hold && !(t.dial 0).owed) = true := by decide +kernel
/-- R32, Example 2-1, step 1: an OFF dial is put in its place and stays OFF. -/
theorem test_set_dial : nextIs (exec (.setDial 0 1 1234) tower)
    (fun t => (t.dial 1).position == 1234 && (t.dial 1).state == .off) = true := by decide +kernel
/-- R32: with the impulse over, the SET DIAL proceeds. -/
theorem test_deferred_set_dial :
    nextIs (exec (.deferredSetDial 0) { tower with link.inProgress := some { task := .request (.setDial 0 0), phase := .deferred, taken := 0, seen := .nothing } })
      (fun t => (t.dial 0).position == 0 && (t.dial 0).state == .run) = true := by decide +kernel
/-- R51: the first reason that applies, NO MOTOR. -/
theorem test_swing_refused : nextIs (exec (.swing 0 0 5) (tower.setBell 0 { bell0 with config.motorRating := 0 }))
    (fun t => t.link.waiting == some (reply .wrongState 0 0 [1]) && (t.bell 0).motor == .off) = true := by decide +kernel
/-- R52: the run is PENDING and admitted; a length above 30 minutes is clamped. -/
theorem test_swing : nextIs (exec (.swing 0 0 45) tower)
    (fun t => (t.bell 0).motor == .pending 30 100000 true [.command] && t.feeder.admitted.length == 1) = true := by decide +kernel
/-- R60: a bell that is not AT REST is not struck. -/
def blow0 : Stroke :=
  { sounding := 100150, velocity := 2, requester := .performance 7, lead := 150, width := 80, feedback := .busy
    repeatInterval := 300, raised := false, risenAt := 0, lineActive := false }
theorem test_raise_moment : nextIs (exec (.raiseMoment 0 0) (tower.setStroke 0 (.requested blow0)))
    (fun t => (t.stroke 0).lineIsActive) = true := by decide +kernel
theorem test_raise_moment_locked :
    nextIs (exec (.raiseMoment 0 0) ((tower.setStroke 0 (.requested blow0)).setBell 0 { bell0 with swing := .settling }))
      (fun t => t.stroke 0 == .idle) = true := by decide +kernel
/-- The stroke of Example 4-1, 80 ms after its line rose. -/
def blowUp (ago : Nat) : Stroke := { blow0 with raised := true, risenAt := 100000 - ago, lineActive := true }
theorem test_pulse_end : nextIs (exec (.pulseEnd 0 0) (tower.setStroke 0 (.striking (blowUp 80))))
    (fun t => t.stroke 0 == .striking { blowUp 80 with lineActive := false }) = true := by decide +kernel
/-- R62: 50 ms without an answer. -/
theorem test_no_answer : nextIs (exec (.noAnswer 0 0) (tower.setStroke 0 (.requested (blowUp 50))))
    (fun t => t.stroke 0 == .fault && (t.bell 0).hammerFault == some .noAnswer && !(t.bell 0).config.hammerInService
      && t.link.flags.getLsbD 0) = true := by decide +kernel
/-- Example 4-2: BUSY still active 400 ms after the line rose. -/
theorem test_stuck :
    nextIs (exec (.stuck 0 0) ((tower.setStroke 0 (.striking (blowUp 400))).setLine 1
      { lineOf .hammerBusy (some 0) with filtered := true }))
      (fun t => t.stroke 0 == .fault && (t.bell 0).hammerFault == some .stuck) = true := by decide +kernel
theorem test_recovery_end : nextIs (exec (.recoveryEnd 0 0) (tower.setStroke 0 (.recovering blow0 100000)))
    (fun t => t.stroke 0 == .idle) = true := by decide +kernel
/-- R69: the gate holds and an unraised stroke is withdrawn. -/
theorem test_rstn_asserted : nextIs (exec (.rstnAsserted 0) (tower.setStroke 0 (.requested blow0)))
    (fun t => t.hammers.gate == .holding && t.stroke 0 == .idle && t.hammers.rstn) = true := by decide +kernel
theorem test_rstn_released : nextIs (exec (.rstnReleased 0) { tower with hammers.rstn := true }) (fun t => !t.hammers.rstn) = true := by
  decide +kernel
/-- Example 5-1, step 1: the lowest free slot, its generation advanced from 255 to 1. -/
theorem test_open_tune : nextIs (exec (.openTune 0 [65#8]) (tower.setTuneSlot 1 ⟨255, none⟩))
    (fun t => (t.tuneSlot 1).gen == 1 && (t.tuneSlot 1).record.any (fun x => x.state == .draft)) = true := by decide +kernel
/-- Example 5-4, step 1: POOL FULL. -/
theorem test_append_steps_pool_full :
    nextIs (exec (.appendSteps 0 ⟨0, 1⟩ (List.replicate 12 (.rest 1)))
      { tower.setTuneSlot 0 ⟨1, some { tune0 with state := .draft }⟩ with tunes.freeSteps := 10 })
      (fun t => t.link.waiting == some (reply .poolFull 0 1) && t.tunes.freeSteps == 10) = true := by decide +kernel
/-- R76: DONE carries the step count, 5, and the free steps, 2043. -/
theorem test_append_steps :
    nextIs (exec (.appendSteps 0 ⟨0, 1⟩ [.rest 1]) (tower.setTuneSlot 0 ⟨1, some { tune0 with state := .draft }⟩))
      (fun t => t.tunes.freeSteps == 2043
        && t.memory.writes.map (·.response) == [some (reply .done 0 1 [0, 5, 7, 251])]) = true := by decide +kernel
theorem test_close_tune : nextIs (exec (.closeTune 0 ⟨0, 1⟩) (tower.setTuneSlot 0 ⟨1, some { tune0 with state := .draft }⟩))
    (fun t => (t.findTune ⟨0, 1⟩).any (fun x => x.state == .live)) = true := by decide +kernel
/-- R80, R83: unreferenced, the tune is freed and its four steps go back. -/
theorem test_retire_tune : nextIs (exec (.retireTune 0 ⟨0, 1⟩ .gentle) tower)
    (fun t => (t.tuneSlot 0).record.isNone && (t.tuneSlot 0).gen == 1 && t.tunes.freeSteps == 2048) = true := by decide +kernel
/-- R96, R97: the NOTE at step 1 schedules bell 0, 150 ms before its sounding instant. -/
def perf0 : Performance :=
  formPerformance { offer .command (.tune ⟨0, 1⟩) 0 1 2 true none 0 with number := 7, arrival := 7, started := true } 100000
theorem test_step_boundary : nextIs (exec (.stepBoundary 0) { tower with chime.performance := some perf0 })
    (fun t => t.chime.performance.any (fun p => p.cursor.step == 2 && p.nextSounding == 100900
      && p.blows == [{ bell := 0, sounding := 100400, velocity := 2, requestAt := 100250 }])) = true := by decide +kernel
/-- R108: the first blow of a toll, 400 ms on. -/
def toll0 : TollRun :=
  { run := 1, bell := 0, interval := 3, blowsLeft := 5, velocity := 1, source := .command, start := 100000, nextBlow := 1
    scheduled := none, skipped := 0 }
theorem test_toll_take_up : nextIs (exec (.tollTakeUp 0 0) (tower.setToll 0 (some toll0)))
    (fun t => (t.toll 0).any (fun u => u.blowsLeft == 4 && u.nextBlow == 2
      && u.scheduled == some { bell := 0, sounding := 100400, velocity := 1, requestAt := 100250 })) = true := by decide +kernel
/-- R107: a bell another channel claims. -/
theorem test_toll_claimed : nextIs (exec (.toll 0 0 3 5 1) (tower.setToll 1 (some toll0)))
    (fun t => t.link.waiting.any (fun r => r.status == .busy) && (t.toll 0).isNone) = true := by decide +kernel
theorem test_toll : nextIs (exec (.toll 0 0 3 5 1) tower) (fun t => t.toll 0 == some toll0) = true := by decide +kernel
/-- R151: a boundary delivers the frame computed and computes the next. -/
theorem test_frame_boundary : nextIs (exec (.frameBoundary 0) tower)
    (fun t => t.mixer.nextFrame == 1 && t.mixer.computed.isSome && t.feeder.record.any (fun c => c.frame == 1 && c.budget == 5000))
      = true := by decide +kernel
/-- R152, R168: a first raise fades in from 0 over 16 times 4 frames. -/
theorem test_raise_scene : nextIs (exec (.raiseScene 0 ⟨0, 1⟩ none) tower)
    (fun t => t.mixer.layers.map (fun l => (l.target, l.f, l.length)) == [(256, 0, 64)]) = true := by decide +kernel
/-- R165: without a layer the scene is freed. -/
theorem test_retire_scene : nextIs (exec (.retireScene 0 ⟨0, 1⟩ .abrupt) tower)
    (fun t => (t.sceneSlot 0).record.isNone && (t.sceneSlot 0).gen == 1) = true := by decide +kernel
/-- R186: HAMMER FAULT, reported before and not fresh, is cleared; TIME INVALID, fresh, stays. -/
theorem test_acknowledge :
    nextIs (exec (.acknowledge 0 0x401#12)
      { tower with link.flags := 0x401#12, link.fresh := 0x400#12, link.lastReport := 0x401#12 })
      (fun t => t.link.flags == 0x400#12) = true := by decide +kernel
theorem test_read_conditions : nextIs (exec (.readConditions 0) { tower with link.flags := 0x401#12, link.fresh := 0x400#12 })
    (fun t => t.link.lastReport == 0x401#12 && t.link.fresh == 0#12
      && t.link.waiting == some (reply .done 0 0 [4, 1, 15, 255, 4, 0])) = true := by decide +kernel
/-- Example 10-2, step 1: a capacity below the load. -/
theorem test_amend_feeder_below_load :
    nextIs (exec (.amendFeeder 0 4500)
      { tower with feeder.admitted := [{ bell := 0, rating := 5000, awaiting := none, permitted := false }] })
      (fun t => t.link.waiting == some (reply .wrongState 0 0) && t.feeder.capacity == 5000) = true := by decide +kernel
/-- R182, R183: the write's end brings the AMEND's answer and its capacity. -/
theorem test_write_end :
    nextIs (exec (.recordMemoryWriteEnd 0)
      { tower with memory.writes := [{ effect := .feeder 6000, response := some (reply .done 0 0) }] })
      (fun t => t.feeder.capacity == 6000 && t.link.waiting == some (reply .done 0 0) && t.memory.writes.isEmpty) = true := by
  decide +kernel
/-- Example 11-1, frame 2: a frame that begins CLOSED is not taken. -/
theorem test_frame_closed :
    nextIs (exec (.frameEnd 0 (bitsOfBytes [20, 14, 0, 0, 0, 0])) { tower with link.sel := true, link.frame := some { openAtBegin := false, response := none } })
      (fun t => t.link.frame.isNone && t.link.waiting.isNone && t.link.inProgress.isNone) = true := by decide +kernel
/-- Example 11-2: a malformed frame. -/
theorem test_frame_bad :
    nextIs (exec (.frameEnd 0 (bitsOfBytes [5, 5, 0, 1, 0, 160])) { tower with link.sel := true, link.frame := some { openAtBegin := true, response := none } })
      (fun t => t.link.waiting == some (reply .badFrame 0 0)) = true := by decide +kernel
theorem test_frame_begin : nextIs (exec (.frameBegin 0) { tower with link.waiting := some (reply .done 3 4) })
    (fun t => t.link.frame == some { openAtBegin := true, response := some (reply .done 3 4) } && t.link.waiting.isNone) = true := by
  decide +kernel
/-- R137: an ARMED occasion leaves the due list. -/
theorem test_suspend : nextIs (exec (.suspend 0 ⟨0, 1⟩) (tower.setOccasionSlot 0 ⟨1, some occasion0⟩))
    (fun t => (t.findOccasion ⟨0, 1⟩).any (fun o => o.state == .suspended && o.due.isNone)) = true := by decide +kernel
/-- R123, R127: a DAILY occasion at 12:00:00 stored at noon is next due a day on. -/
theorem test_store_occasion : nextIs (exec (.storeOccasion 0 occasion0.config) tower)
    (fun t => (t.occasionSlot 0).record.any (fun o => o.state == .armed && o.due == some ⟨noon + 86400, 9001⟩)) = true := by
  decide +kernel
/-- R143: ten minutes at 0. -/
theorem test_sensor_fault :
    nextIs (exec (.sensorFault 0) { tower with clock := 22937600, time.lastSecond := some 22937600, calendar.zeroSince := some 100000 })
      (fun t => t.calendar.dusk.sensorFault && t.link.flags.getLsbD 9) = true := by decide +kernel
/-- R163: an entry at its end instant is removed. -/
theorem test_standing_entry_end :
    nextIs (exec (.standingEntryEnd 0) { tower with mixer.standing := [{ scene := ⟨0, 1⟩, endAt := noon, creator := .command }] })
      (fun t => t.mixer.standing.isEmpty && t.memory.writes.length == 1) = true := by decide +kernel
/-- The queue's front command is taken, and an empty queue idles. -/
theorem test_step : nextIs (step { tower with pending := [.secondEnd 32768, .rstnReleased 0] })
    (fun t => t.time.standard == noon + 1 && t.pending == [.rstnReleased 0]) = true := by decide +kernel
/-- R184: BAD FIELD out of range, and the record otherwise. -/
theorem test_read_dial : nextIs (exec (.readStateDial 0 6) tower) (fun t => t.link.waiting == some (reply .badField 6 0)) = true ∧
    nextIs (exec (.readStateDial 0 5) tower) (fun t => t.link.waiting.any (fun r => r.status == .done)) = true := by decide +kernel
/-- R88: the next occupied slot, and NO RECORD after the last. -/
theorem test_list_next_tune :
    nextIs (exec (.listNextTune 0 none (some .live)) tower) (fun t => t.link.waiting == some (reply .done 0 0 [0, 1])) = true ∧
    nextIs (exec (.listNextTune 0 (some 0) none) tower) (fun t => t.link.waiting == some (reply .noRecord 0 0)) = true := by
  decide +kernel


/-! ## States and operands that meet the hypotheses of each statement

A theorem for each statement that has hypotheses. Each shows the hypotheses of the statement's clauses, in the statement's order, met by
concrete states and operands, at the boundary values of the clauses. Moments are taken with `dt = 0`, 100000 ms into the run of `tower`,
unless the theorem says otherwise. -/

def withDial (d : Dial) : State := tower.setDial 0 d
def withBell (x : Bell) : State := tower.setBell 0 x
def withStroke (k : StrokeState) : State := tower.setStroke 0 k
def waitingFor (c : Instr) (s : State) : State := { s with pending := [c] }

theorem stepsFrom (s : State) (h : nextIs (step s) (fun _ => true) = true) : ∃ t, step s = .next t :=
  (of_nextIs h).elim fun t x => ⟨t, x.1⟩

theorem test_witness_StepTakesFrontCommand : tower.pending = [] := rfl

/-- The last index of each kind is a record, the next is none. -/
theorem test_witness_CommandsCompleteOrNameNoRecord :
    (∀ c ∈ [Instr.inputFilterExpiry 0 63, .raiseMoment 0 39, .impulseEnd 0 5, .tollTakeUp 0 1, .actionStart 0 7],
      nextIs (exec c tower) (fun _ => true) = true) ∧
    (∀ c ∈ [Instr.inputFilterExpiry 0 64, .raiseMoment 0 40, .impulseEnd 0 6, .tollTakeUp 0 2, .actionStart 0 8],
      nextIs (exec c tower) (fun _ => true) = false) := by decide +kernel

theorem test_witness_TimeBaseStaysSound :
    (waitingFor (.secondEnd 32768) tower).TimeSound ∧ ∃ t, step (waitingFor (.secondEnd 32768) tower) = .next t :=
  ⟨⟨by decide +kernel, by decide +kernel, by decide +kernel, by decide +kernel, by decide +kernel, by decide +kernel,
    by decide +kernel, by decide +kernel, fun _ h => (nomatch h), fun _ h => (nomatch h), fun _ h => (nomatch h)⟩,
    stepsFrom _ (by decide +kernel)⟩

/-- The machine of `State.reset`, without its supply. -/
def dark : State := waitingFor (.secondEnd 32768) { State.reset with time.power := .reserve }

theorem test_witness_ReserveStaysAtRest :
    dark.time.power = .reserve ∧ dark.ReserveSound ∧ ∃ t, step dark = .next t := by
  refine ⟨rfl, fun _ => ?_, stepsFrom _ (by decide +kernel)⟩
  constructor <;> first | rfl | (intro w h; nomatch h) | (intro i
                                                          simp [dark, waitingFor, State.reset, State.dial, State.stroke,
                                                            State.bell, State.channel, State.toll, Vector.getD,
                                                            Array.getElem?_replicate]
                                                          try (split <;> rfl))

theorem test_witness_PoolAlwaysTotals :
    let s := waitingFor (.retireTune 0 ⟨0, 1⟩ .gentle) tower
    s.PoolSound ∧ ∃ t, step s = .next t :=
  ⟨(by decide +kernel : TuneLibrary.allSteps (waitingFor _ tower).tunes = Config.pool), stepsFrom _ (by decide +kernel)⟩

/-- A load at its capacity, an AMEND of the capacity to the load that waits for its write, and one more taken meanwhile. -/
def fullyLoaded : State :=
  { tower with feeder.admitted := [{ bell := 0, rating := 5000, awaiting := none, permitted := false }]
               link.inProgress := some { task := .request (.amendFeeder 5000), phase := .awaitingWrite, taken := 0, seen := .load 5000 }
               memory.writes := [{ effect := .feeder 5000, response := none }], pending := [.recordMemoryWriteEnd 0] }
theorem test_witness_LoadNeverExceedsCapacity : fullyLoaded.LoadSound ∧ ∃ t, step fullyLoaded = .next t :=
  ⟨⟨by decide +kernel, by
      intro w hw c hc
      simp [fullyLoaded] at hw
      subst hw
      simp at hc
      subst hc
      decide +kernel, by
      intro c hc
      have : fullyLoaded.link.takenCapacity = some 5000 := by decide +kernel
      rw [this] at hc
      cases hc
      decide +kernel⟩, stepsFrom _ (by decide +kernel)⟩

/-- Eight entries of the standing list, and a layer of another scene. -/
def crowded : State :=
  { tower with mixer.standing := (List.range 8).map fun k => { scene := ⟨k, 1⟩, endAt := noon, creator := .command }
               mixer.layers := [{ scene := ⟨9, 1⟩, sequence := 1, f := 0, f0 := 0, target := 256, k0 := 0, length := 0 }]
               pending := [.standingEntryEnd 0] }
theorem test_witness_ListsStayWithinCapacity : crowded.ListsSound ∧ ∃ t, step crowded = .next t :=
  ⟨⟨by decide +kernel, by decide +kernel, by decide +kernel, by decide +kernel, by decide +kernel⟩,
    stepsFrom _ (by decide +kernel)⟩

theorem test_witness_StrikeLineRisesOnlyAtRest : ∃ s t, step s = .next t ∧ (t.stroke 0).lineIsActive = true ∧
    (s.stroke 0).lineIsActive = false := by
  have h := of_nextIs (o := step (waitingFor (.raiseMoment 0 0) (withStroke (.requested blow0))))
    (p := fun t => (t.stroke 0).lineIsActive) (by decide +kernel)
  exact h.elim fun t x => ⟨_, t, x.1, x.2, by decide +kernel⟩

def untimed (s : State) : State := { s with time.valid := false }
def marked : State := { tower with time.settings.markEnable := true }
def unlit : State := tower.setLine 56 Line.blank

theorem test_witness_SecondsAreCountedAndAligned :
    (tower.time.prescaler + 32767 < tower.time.secondLength ∧ tower.time.secondLength ≤ tower.time.prescaler + 32768) ∧
    unlit.time.standard + 1 < 6311433600 ∧ unlit.ambientLine = none ∧
    summerAt unlit.time.settings.rule (unlit.time.standard + 1) = unlit.time.summer ∧
    (unlit.time.standard + 1 + unlit.time.settings.rule.shift unlit.time.summer) % 30 ≠ 0 ∧
    (marked.time.settings.markEnable = true ∧ marked.time.setTimeWait = none ∧ (marked.elapse 8192).time.prescaler = 8192 ∧
      (marked.elapse 8193).time.prescaler = 8193 ∧ (marked.elapse 24575).time.prescaler + 8192 < marked.time.secondLength ∧
      marked.time.secondLength ≤ (marked.elapse 24576).time.prescaler + 8192) ∧
    tower.time.settings.markEnable = false := by decide +kernel

/-- The second that ends at the instant given is over. -/
def secondTo (x : Nat) (s : State) : State := { s with time.standard := x - 1, time.prescaler := 32768 }
def ruled : State := { tower with time.settings.rule := exampleRule }

/-- A half-minute, a quarter, midnight, the last instant, a transition of summer and the end of the range. -/
theorem test_witness_SecondsAreCountedAndAligned_events :
    (∀ x ∈ [noon + 1, noon + 30, noon + 900, noon + 43200, 6311433599], let s := secondTo x tower
      s.time.secondLength ≤ s.time.prescaler ∧ s.time.power = .mains ∧ s.time.valid = true ∧ s.time.standard + 1 = x ∧
        summerAt s.time.settings.rule x = s.time.summer ∧ s.time.settings.rule.shift s.time.summer = 0) ∧
    ((noon + 1) % 30 ≠ 0 ∧ (noon + 30) % 30 = 0 ∧ (noon + 30) % 900 ≠ 0 ∧ (noon + 900) % 900 = 0 ∧ (noon + 900) % 86400 ≠ 0 ∧
      (noon + 43200) % 86400 = 0) ∧
    (untimed (secondTo noon tower)).time.valid = false ∧
    (let s := secondTo (summerStart exampleRule 2031).toNat ruled
     s.time.valid = true ∧ summerAt s.time.settings.rule (s.time.standard + 1 : Nat) ≠ s.time.summer) ∧
    (secondTo 6311433600 tower).time.standard + 1 = 6311433600 := by decide +kernel

/-- A SET TIME that has waited 2 s exactly. -/
def awaitingMark : State := { marked with time.setTimeWait := some { since := 3211264, instant := noon } }

theorem test_witness_SetTimeTakesEffect : tower.HostReady ∧ marked.HostReady ∧
    setTimeInstant tower.time.settings.rule .standardTime ⟨⟨2200, 1, 1⟩, 0, 0, 0⟩ = none ∧
    setTimeInstant tower.time.settings.rule .standardTime ⟨⟨2199, 12, 31⟩, 23, 59, 59⟩ = some 6311433599 ∧
    tower.time.settings.markEnable = false ∧ marked.time.settings.markEnable = true ∧
    (∀ w ∈ awaitingMark.time.setTimeWait, (awaitingMark.elapse 0).clock = w.since + 65536 ∧
      w.since + 65536 < (awaitingMark.elapse 1).clock) :=
  ⟨tower_ready, ready (by decide +kernel), by decide +kernel, by decide +kernel, by decide +kernel, by decide +kernel,
    by decide +kernel⟩

/-- Example 1-2: 01:30 of 2031-10-26 is read twice by the clocks; Example 1-3: 01:30 of 2031-03-30 is read by none. -/
theorem test_witness_LocalReadingIsConsistent :
    let g : Int := 11621 * 86400 + 5400
    let t : Int := g - 3600
    exampleRule.enabled = true ∧ readLocal exampleRule g = some t ∧ summerAt exampleRule t = true ∧ summerAt exampleRule g = false ∧
    t + (exampleRule.shift (summerAt exampleRule t) : Nat) = g ∧ g + (exampleRule.shift (summerAt exampleRule g) : Nat) = g ∧
    readLocal exampleRule (11411 * 86400 + 5400) = none ∧ TimeSettings.blank.rule.enabled = false := by decide

theorem test_witness_CalendarIsGregorian : (dateOfDay 73048).isReal = true ∧ dateOfDay 73048 = ⟨2199, 12, 31⟩ ∧
    dayNumber ⟨2199, 12, 31⟩ = 73048 ∧ isLeap 2100 = false ∧ isLeap 2000 = true := by decide +kernel

theorem test_witness_NthWeekdayOfMonth : nthWeekday 2199 12 1 .sunday = 1 ∧ nthWeekday 2199 12 4 .sunday = 22 ∧
    nthWeekday 2199 12 5 .sunday = 29 ∧ nthWeekday 2199 12 5 .wednesday = 25 := by decide

def withImpulse (began : Nat) (sensed : Bool) : State :=
  withDial { dial0 with impulse := some { polarity := .positive, began := began, sensed := sensed } }

theorem test_witness_ReserveEntryReleasesEverything : dark.time.power = .reserve ∧ (withImpulse 99500 true).time.power = .mains ∧
    ((withImpulse 99500 true).dial 0).impulse.isSome = true ∧ ((withImpulse 99500 true).dial 1).impulse = none := by decide +kernel

/-- MSENSE active since a clock of 1000 counts. -/
def qualifying (coldStart : Bool) : State :=
  { State.reset with clock := 66535, time.power := .reserve, time.qualification := some 1000, time.coldStartPending := coldStart }

theorem test_witness_ReturnNeedsTwoSeconds : (dark.time.power = .reserve ∧ dark.time.qualification = none) ∧
    (tower.time.power = .mains ∧ (qualifying true).time.qualification ≠ none) ∧
    (∀ q ∈ (qualifying true).time.qualification, ((qualifying true).elapse 0).clock < q + 65536 ∧
      q + 65536 ≤ ((qualifying true).elapse 1).clock) ∧
    (qualifying true).time.coldStartPending = true ∧ (qualifying false).time.coldStartPending = false := by decide +kernel

def holding : State := { tower with hammers.gate := .holding }

theorem test_witness_RestartWaitsForTheGate : tower.HostReady ∧ (tower.time.power = .mains ∧ tower.hammers.gate = .closed) ∧
    (awaitingMark.time.power = .mains ∧ awaitingMark.hammers.gate = .closed ∧ awaitingMark.time.setTimeWait ≠ none) ∧
    dark.time.power = .reserve ∧ holding.gateOpens = true ∧ ({ holding with hammers.rstn := true } : State).gateOpens = false ∧
    (holding.setStroke 39 (.requested blow0)).gateOpens = false :=
  ⟨tower_ready, by decide +kernel⟩

theorem test_witness_DialTargetAndDistance : dialTarget 43199 = 1439 ∧ distance 0 1439 = 1 ∧ distance 1439 0 = 1439 ∧
    (untimed tower).time.valid = false ∧ ((untimed tower).dial 0).impulse = none := by decide +kernel

/-- An impulse of dial 0 that has reached its width, the dial as told. -/
def ending (d : Dial) : State := withDial { d with impulse := some { polarity := .positive, began := 99500, sensed := true } }
def catching : Dial := { dial0 with state := .catchUp }

theorem test_witness_ImpulsesAreDeliveredOrFail :
    (tower.elapse 0).nowMs = 100000 ∧ (withImpulse 99501 true).hasLine .dialSense 0 = true ∧
    (∀ p ∈ ((withImpulse 99501 true).dial 0).impulse, 100000 < p.began + 500) ∧
    (∀ p ∈ ((ending dial0).dial 0).impulse, p.began + 500 = 100000 ∧ p.sensed = true) ∧
    ((ending { dial0 with owed := true }).dial 0).owed = true ∧ ((ending dial0).dial 0).state ≠ .catchUp ∧
    (((ending catching).dial 0).owed = false ∧ ((ending catching).dial 0).state = .catchUp ∧ (ending catching).time.valid = true) ∧
    distance (dialTarget (ending catching).localNow) ((1439 + 1) % 1440) = 0 ∧
    distance (dialTarget (ending catching).localNow) ((100 + 1) % 1440) ≠ 0 ∧
    holding.hammers.gate = .holding ∧
    (∀ m ∈ ((ending { catching with lastStart := some 99001 }).dial 0).lastStart, 100000 < m + dial0.spacing) ∧
    (∀ m ∈ ((ending { catching with lastStart := some 99000 }).dial 0).lastStart, m + dial0.spacing = 100000) ∧
    (∀ p ∈ ((withImpulse 99950 false).dial 0).impulse, p.sensed = false ∧ p.began + 50 = 100000) ∧
    (∀ p ∈ ((withImpulse 99951 false).dial 0).impulse, 100000 < p.began + 50) := by decide +kernel

/-- Dial 0 with a reconciliation owed, in the window or one step outside it. -/
def owing (window : Nat) : Dial := { dial0 with owed := true, window := window }

theorem test_witness_DialsStartAndReconcile :
    (dial0.state = .run ∧ dial0.impulse = none ∧ dial0.owed = false ∧ dial0.lastStart = none ∧ tower.hammers.gate = .closed) ∧
    (tower.time.valid = true ∧ tower.dialDistance 0 = 1340 ∧ (untimed tower).time.valid = false) ∧
    (withDial { dial0 with position := 0 }).dialDistance 0 = 0 ∧
    ((withDial { dial0 with state := .hold }).dial 0).state ≠ .run ∧ ((ending dial0).dial 0).impulse ≠ none ∧
    (∀ m ∈ ((withDial { dial0 with lastStart := some 99001 }).dial 0).lastStart, 100000 < m + dial0.spacing) ∧
    ((withDial (owing 0)).dial 0).owed = true ∧ (tower.dial 0).owed = false ∧
    ((withDial { owing 0 with state := .off }).dial 0).state = .off ∧
    ((withDial { owing 0 with position := 0 }).dialDistance 0 = 0) ∧
    ((withDial (owing 1339)).dial 0).window < (withDial (owing 1339)).dialDistance 0 ∧
    (withDial (owing 1340)).dialDistance 0 = ((withDial (owing 1340)).dial 0).window ∧
    (withDial { dial0 with position := 1439 }).dialDistance 0 = 1 ∧ (withDial { dial0 with position := 1438 }).dialDistance 0 = 2 ∧
    (∀ z ∈ [DialState.off, .waitTime, .catchUp, .hold, .fault], ((withDial { dial0 with state := z, position := 0 }).dial 0).state = z ∧
      (withDial { dial0 with state := z, position := 0 }).dialDistance 0 = 0) := by decide +kernel

def dialAmend0 : DialAmend := { label := [], service := true, impulseWidth := 500, spacing := 1000, window := 600 }
def deferring (r : Request) (s : State) : State := { s with link.inProgress := some { task := .request r, phase := .deferred, taken := 0, seen := .nothing } }

theorem test_witness_DialRequestsWaitForImpulses : tower.HostReady ∧ (withImpulse 99950 true).HostReady ∧
    (tower.dialAmendOk 0 dialAmend0 = true ∧ tower.dialAmendOk 0 { dialAmend0 with window := 1440 } = false) ∧
    ((withImpulse 99950 true).dial 0).impulse ≠ none ∧ (tower.dial 0).impulse = none ∧
    ((deferring (.setDial 0 1439) tower).link.inProgress = some { task := .request (.setDial 0 1439), phase := .deferred, taken := 0, seen := .nothing } ∧
      ((deferring (.setDial 0 1439) tower).dial 0).impulse = none ∧
      ((deferring (.setDial 0 1439) (withImpulse 99950 true)).dial 0).impulse ≠ none) ∧
    ((deferring (.amendDial 0 dialAmend0) tower).dial 0).impulse = none ∧
    clampSpacing 750 1000 = 1000 ∧ clampSpacing 751 1000 = 1500 :=
  ⟨tower_ready, ready (by decide +kernel), by decide +kernel, by decide +kernel, by decide +kernel, by decide +kernel, by decide +kernel, by decide +kernel,
    by decide +kernel⟩

def keyPin (l : Line) : State := tower.setLine 9 l
def key0 : Line := lineOf .bellKey (some 0)

theorem test_witness_PinLevelsPassTheFilter : (tower.time.power = .mains ∧ isInput key0.record.function = true) ∧
    (dark.time.power = .reserve ∧ isInput (tower.line 8).record.function = false) ∧
    (false == key0.record.activeHigh) = key0.filtered ∧
    ((true == key0.record.activeHigh) ≠ key0.filtered ∧ key0.record.filter ≠ 0 ∧ true ≠ key0.pinHigh) ∧
    (risenLine .bellKey (some 0)).pinHigh = true ∧
    ({ key0 with record.filter := 0 } : Line).record.filter = 0 ∧
    (∀ m ∈ ((keyPin { key0 with changing := some 99996 }).line 9).changing, 100000 < m + 5) ∧
    (let s := tower.setLine 63 { Line.blank with pinHigh := true, changing := some 100000 }
     s.Settled ∧ (s.line 63).record.function = .unused ∧ isInput .unused = true ∧
       ∀ m ∈ (s.line 63).changing, m + (s.line 63).record.filter = 100000 ∧
         ((s.line 63).pinHigh == (s.line 63).record.activeHigh) ≠ (s.line 63).filtered) :=
  ⟨by decide +kernel, by decide +kernel, by decide +kernel, by decide +kernel, by decide +kernel, by decide +kernel,
    by decide +kernel, settled_of_tower rfl, by decide +kernel⟩

/-- Lines 2, 3 and 7 are the swing sensor and the rest contact of bell 0 and the sense line of dial 0. -/
def sensing (i : Nat) (l : Line) (x : Bell) : State := (withBell x).setLine i l

theorem test_witness_EdgesReachTheirOwner :
    (let s := sensing 2 (risenLine .swingSense (some 0)) { bell0 with lastPulse := some 90000 }
     (s.elapse 0).filterReady 2 = true ∧ s.Settled ∧ (s.line 2).record.bound = some 0 ∧ (s.line 2).shown = true ∧
       (s.bell 0).config.inService = true ∧ (s.bell 0).swing ≠ .locked) ∧
    ((sensing 2 (risenLine .swingSense (some 0)) { bell0 with swing := .locked }).bell 0).swing = .locked ∧
    (let s := sensing 2 (fallenLine .swingSense (some 0)) bell0
     (s.elapse 0).filterReady 2 = true ∧ s.Settled ∧ (s.line 2).shown = false) ∧
    (let s := sensing 3 (risenLine .restSense (some 0)) { bell0 with swing := .up }
     (s.elapse 0).filterReady 3 = true ∧ s.Settled ∧ (s.line 3).shown = true ∧ (s.line 3).record.bound = some 0) ∧
    (let s := sensing 3 (fallenLine .restSense (some 0)) bell0
     (s.elapse 0).filterReady 3 = true ∧ s.Settled ∧ (s.line 3).shown = false ∧ (s.bell 0).swing = .atRest) ∧
    ((sensing 2 (risenLine .swingSense (some 0)) Bell.blank).bell 0).config.inService = false ∧
    (∀ m ∈ [99950, 99949], let s := (withImpulse m false).setLine 7 (risenLine .dialSense (some 0))
     (s.elapse 0).filterReady 7 = true ∧ s.Settled ∧ (s.line 7).record.bound = some 0 ∧ (s.line 7).shown = true ∧
       (s.dial 0).impulse.isSome = true) :=
  ⟨⟨by decide +kernel, settled_of_tower rfl, by decide +kernel⟩, by decide +kernel,
    ⟨by decide +kernel, settled_of_tower rfl, by decide +kernel⟩, ⟨by decide +kernel, settled_of_tower rfl, by decide +kernel⟩,
    ⟨by decide +kernel, settled_of_tower rfl, by decide +kernel⟩, by decide +kernel, by
      intro m hm
      refine ⟨?_, settled_of_tower rfl, ?_⟩ <;> revert m <;> decide +kernel⟩

/-- A bell that swings, its quiet timer at `q`. -/
def swinging0 (q : Nat) : State := withBell { bell0 with swing := .swinging, quietUntil := some q }
/-- A settling bell with its last pulse and the closing of its rest contact at the moments given. -/
def settling0 (pulse closed : Nat) : Bell :=
  { bell0 with swing := .settling, lastPulse := some pulse, restClosedSince := some closed }

theorem test_witness_SwingingBellsComeToRest : (swinging0 100000).Settled ∧
    (((swinging0 100000).bell 0).swing = .swinging ∧ ((swinging0 100000).bell 0).quietUntil = some 100000 ∧
      (swinging0 100000).hasLine .restSense 0 = true ∧ (swinging0 100000).lineActive .restSense 0 = false ∧
      ((swinging0 100000).bell 0).motor = .off) ∧
    ((swinging0 100000).setLine 3 { lineOf .restSense (some 0) with filtered := true }).lineActive .restSense 0 = true ∧
    ((swinging0 100000).setLine 3 Line.blank).hasLine .restSense 0 = false ∧
    (∀ q ∈ ((swinging0 100001).bell 0).quietUntil, (tower.elapse 0).nowMs < q) ∧
    (tower.time.lastSecond = some (tower.elapse 0).clock ∧ tower.time.lastSecond ≠ some (tower.elapse 1).clock ∧ bell0.config.inService = true ∧ bell0.config.sensorMode ≠ .none) ∧
    ((∀ p ∈ (settling0 90000 90000).lastPulse, p + bell0.config.settle * 1000 = 100000) ∧
      ∀ c ∈ (settling0 90000 90000).restClosedSince, c + bell0.config.settle * 1000 = 100000) ∧
    ((∀ p ∈ (settling0 90001 90000).lastPulse, 100000 < p + bell0.config.settle * 1000) ∧
      ∀ c ∈ (settling0 90000 90001).restClosedSince, 100000 < c + bell0.config.settle * 1000) ∧
    (let x := { settling0 90000 90000 with swing := .unknown, entered := 90000 }
     x.swing = .unknown ∧ x.entered + x.config.settle * 1000 = 100000) ∧
    bell0.swing ≠ .settling ∧ bell0.swing ≠ .unknown :=
  ⟨settled_of_tower rfl, by decide +kernel⟩

/-- A bell that enters UP with its motor pending or running. -/
theorem test_witness_SwingingBellsComeToRest_motor : ∀ m ∈ [MotorRun.pending 5 0 true [.command], .running 80000 200000 true [.command]],
    let s := withBell { bell0 with swing := .swinging, quietUntil := some 100000, motor := m }
    (s.bell 0).swing = .swinging ∧ (s.bell 0).motor = m ∧ s.hasLine .restSense 0 = true ∧ s.lineActive .restSense 0 = false ∧
      s.Settled :=
  fun m hm => ⟨rfl, by revert m; decide +kernel, by revert m; decide +kernel, by revert m; decide +kernel, settled_of_tower rfl⟩

/-- The tower with a load that leaves the room given. -/
def loaded (room : Nat) (s : State) : State :=
  { s with feeder.admitted := [{ bell := 1, rating := 5000 - room, awaiting := none, permitted := false }] }
def pending0 (admitted : Bool) : MotorRun := .pending 5 0 admitted [.command]
def running0 (endAt : Nat) (satisfied : Bool) : MotorRun := .running 80000 endAt satisfied [.command]

theorem test_witness_SwingStartsOrExtendsOneRun : tower.HostReady ∧
    ((withBell { bell0 with config.inService := false }).HostReady ∧
      ((withBell { bell0 with config.inService := false }).bell 0).config.inService = false) ∧
    ((withBell { bell0 with config.motorRating := 0 }).bell 0).config.motorRating = 0 ∧
    (let x := (withBell { bell0 with config.motorInService := false }).bell 0
     x.config.motorRating ≠ 0 ∧ x.config.motorInService = false) ∧
    ((tower.bell 0).config.inService = true ∧ (tower.bell 0).config.motorRating = 2000 ∧
      (tower.bell 0).config.motorInService = true) ∧
    ((withBell { bell0 with swing := .locked }).bell 0).swing = .locked ∧
    ((withBell { bell0 with swing := .up }).bell 0).swing = .up ∧
    ((loaded 2000 tower).feeder.asks = [] ∧ (loaded 2000 tower).feeder.load + 2000 = (loaded 2000 tower).feeder.capacity) ∧
    (loaded 1999 tower).feeder.capacity < (loaded 1999 tower).feeder.load + 2000 ∧
    ({ tower with feeder.asks := [{ bell := 1, rating := 1, since := 0 }] } : State).feeder.asks ≠ [] ∧
    ((withBell { bell0 with motor := pending0 false }).bell 0).motor = .pending 5 0 false [.command] ∧
    ((withBell { bell0 with motor := running0 100001 true }).bell 0).motor = .running 80000 100001 true [.command] :=
  ⟨tower_ready, ⟨ready (by decide +kernel), by decide +kernel⟩, by decide +kernel⟩

theorem test_witness_MotorRunsEndInOneStep :
    (let s := { withBell { bell0 with motor := pending0 false } with clock := 3932160 }
     s.Settled ∧ s.HostReady ∧ (s.elapse 0).nowMs = 0 + 120000 ∧ ({ s with clock := 3932159 }.elapse 0).nowMs < 0 + 120000 ∧
       (s.bell 0).motor = .pending 5 0 false [.command]) ∧
    (let s := withBell { bell0 with motor := running0 100000 false }
     s.Settled ∧ s.HostReady ∧ s.time.power = .mains ∧ (s.bell 0).motor = .running 80000 100000 false [.command] ∧
       (s.elapse 0).nowMs = 80000 + 20000) ∧
    ((withBell { bell0 with motor := running0 100001 true }).bell 0).motor = .running 80000 100001 true [.command] ∧
    (tower.HostReady ∧ tower.Settled ∧ (tower.bell 0).motor = .off ∧ tower.firstWaiting = none) :=
  ⟨⟨settled_of_tower rfl, ready (by decide +kernel), by decide +kernel⟩,
    ⟨settled_of_tower rfl, ready (by decide +kernel), by decide +kernel⟩, by decide +kernel,
    tower_ready, tower_settled, by decide +kernel, tower_firstWaiting⟩

/-- Two asks, of which the capacity lets in the first. -/
theorem test_witness_AsksAreAdmittedInOrder :
    let s := loaded 2000 { tower with feeder.asks := [{ bell := 0, rating := 2000, since := 0 }, { bell := 2, rating := 1, since := 0 }] }
    s.tryAsks.feeder.asks = [{ bell := 2, rating := 1, since := 0 }] ∧ s.tryAsks.feeder.load = 5000 := by decide +kernel

/-- R170: an AMEND to 3000 W taken at a load of 2000 W holds admission to it; one taken at 3001 W, to be refused, does not. -/
theorem test_witness_AsksAreAdmittedInOrder_taken :
    let s (m : Nat) : State := { tower with
        link.inProgress := some { task := .request (.amendFeeder 3000), phase := .awaitingWrite, taken := 0, seen := .load m } }
    (s 2000).admissionCapacity = 3000 ∧ (s 3001).admissionCapacity = 5000 := by decide +kernel

/-- The end of a claim: a release, of the one run of its bell, with and without asks of others, and the withdrawal of the head. -/
theorem test_witness_AsksAreAdmittedInOrder_claims :
    let ask (b : Nat) : Ask := { bell := b, rating := 2000, since := 0 }
    let run (b : Nat) : AdmittedRun := { bell := b, rating := 4000, awaiting := none, permitted := false }
    let admitted : State := { tower with feeder.admitted := [run 0], feeder.asks := [ask 2] }
    let headed : State := { tower with feeder.asks := [{ ask 0 with rating := 6000 }, ask 2] }
    ((∃ r ∈ admitted.feeder.admitted, r.bell = 0) ∧ admitted.feeder.admitted = [] ++ run 0 :: [] ∧
      (admitted.endClaim 0).feeder.load = 2000 ∧ (admitted.endClaim 0).feeder.asks = []) ∧
    ((∃ a rest, headed.feeder.asks = a :: rest ∧ a.bell = 0) ∧ (headed.endClaim 0).feeder.load = 2000) ∧
    ((∀ r ∈ headed.feeder.admitted, r.bell ≠ 2) ∧ (∀ a rest, headed.feeder.asks = a :: rest → a.bell ≠ 2) ∧
      (headed.endClaim 2).feeder.asks.map (·.bell) = [0]) := by
  refine ⟨by decide +kernel, ⟨⟨_, _, rfl, rfl⟩, by decide +kernel⟩, by decide +kernel, ?_, by decide +kernel⟩
  rintro a rest ⟨⟩
  decide

theorem test_witness_LocksFollowTheirConditions :
    (let s := tower.setLine 9 (risenLine .bellKey (some 0))
     (s.elapse 0).filterReady 9 = true ∧ s.firstWaiting = none ∧ (s.line 9).record.function = .bellKey ∧
       (s.line 9).record.bound = some 0) ∧
    (let s := tower.setLine 10 (risenLine .ringingSwitch none)
     (s.elapse 0).filterReady 10 = true ∧ s.firstWaiting = none ∧ (s.line 10).record.function = .ringingSwitch) ∧
    ((tower.setLine 10 { lineOf .ringingSwitch none with filtered := true }).lockHeld 0 = true ∧ tower.lockHeld 0 = false) :=
  ⟨⟨by decide +kernel, firstWaiting_of_tower rfl, by decide +kernel⟩,
    ⟨by decide +kernel, firstWaiting_of_tower rfl, by decide +kernel⟩, by decide +kernel⟩

/-- A key and the switch each lock a bell that rests, one whose motor waits and one whose motor runs; let one go; and leave one as it
is. -/
theorem test_witness_LocksFollowTheirConditions_edges :
    (∀ i ∈ [9, 10], ∀ m ∈ [MotorRun.off, pending0 true, running0 200000 true],
      let l := risenLine (if i = 9 then .bellKey else .ringingSwitch) (if i = 9 then some 0 else none)
      let s := (withBell { bell0 with motor := m }).setLine i l
      (s.elapse 0).filterReady i = true ∧ (s.bell 0).swing = .atRest ∧ (s.bell 0).motor = m ∧
        ((s.elapse 0).setLine i { s.line i with filtered := (s.line i).shown, changing := none }).lockHeld 0 = true) ∧
    (∀ i ∈ [9, 10], ∀ x ∈ [SwingState.locked, .atRest],
      let l := fallenLine (if i = 9 then .bellKey else .ringingSwitch) (if i = 9 then some 0 else none)
      let s := (withBell { bell0 with swing := x }).setLine i l
      (s.elapse 0).filterReady i = true ∧ (s.bell 0).swing = x ∧
        ((s.elapse 0).setLine i { s.line i with filtered := (s.line i).shown, changing := none }).lockHeld 0 = false) := by
  decide +kernel

theorem test_witness_LocksFollowTheirConditions_writes :
    ∀ w ∈ [WriteEffect.bell 0 { bell0.config with hostLock := true }, .line 9 Line.blank.record],
    let s : State := { tower with memory.writes := [{ effect := w, response := none }] }
    s.firstWaiting = none ∧ s.time.power = .mains ∧ s.memory.writes = [{ effect := w, response := none }] :=
  fun _ _ => ⟨firstWaiting_of_tower rfl, rfl, rfl⟩

/-! ### Hammers -/

def owned (r : Requester) : Stroke := { blow0 with requester := r }

theorem test_witness_RaiseMomentStrikesOrLocks : (withStroke (.requested blow0)).stroke 0 = .requested blow0 ∧
    blow0.raised = false ∧ blow0.sounding = (tower.elapse 0).nowMs + blow0.lead ∧
    (tower.elapse 0).nowMs + blow0.lead < ({ blow0 with sounding := 100151 } : Stroke).sounding ∧ holding.hammers.gate = .holding ∧
    ((tower.bell 0).swing = .atRest ∧ (tower.bell 0).config.hammerInService = true ∧ blow0.feedback = .busy) ∧
    ((withBell { bell0 with config.hammerInService := false }).bell 0).config.hammerInService = false ∧
    (∀ p ∈ ({ tower with chime.performance := some perf0 } : State).chime.performance,
      blow0.requester = .performance p.entry.arrival) ∧
    (∀ p ∈ tower.chime.performance, p.entry.arrival ≠ 7) ∧
    (∀ u ∈ (tower.setToll 1 (some toll0)).toll 1, (owned (.toll 1 1)).requester = .toll 1 u.run) ∧
    (∀ u ∈ (tower.setToll 1 (some toll0)).toll 1, u.run ≠ 2) := by decide +kernel

/-- A performance whose one scheduled blow is requested at 100000 ms. -/
def scheduled0 : ScheduledBlow := { bell := 0, sounding := 100150, velocity := 1, requestAt := 100000 }
def blowing (b : ScheduledBlow) : State := { tower with chime.performance := some { perf0 with blows := [b] } }
def tolling (b : ScheduledBlow) : State := tower.setToll 1 (some { toll0 with scheduled := some b })

theorem test_witness_BlowsAreRequestedOrSkipped :
    (∀ p ∈ (blowing scheduled0).chime.performance, p.blows = [scheduled0] ∧ scheduled0.requestAt = (tower.elapse 0).nowMs) ∧
    (tower.elapse 0).nowMs < ({ scheduled0 with requestAt := 100001 } : ScheduledBlow).requestAt ∧
    (∃ c < 2, ∃ u ∈ ((blowing scheduled0).setToll 1 (some toll0)).toll c, u.bell = scheduled0.bell) ∧
    (∀ c < 2, ∀ u ∈ (blowing scheduled0).toll c, u.bell ≠ scheduled0.bell) ∧
    ((blowing scheduled0).hammers.gate = .closed ∧ (blowing scheduled0).hasLine .hammerStrike 0 = true ∧
      (blowing scheduled0).stroke 0 = .idle) ∧
    (tower.hasLine .hammerStrike 1 = false ∧ (withStroke .fault).stroke 0 ≠ .idle) ∧
    scheduled0.sounding = (tower.elapse 0).nowMs + (tower.bell 0).config.lead ∧
    (tower.elapse 0).nowMs + (tower.bell 0).config.lead < ({ scheduled0 with sounding := 100151 } : ScheduledBlow).sounding ∧
    (tower.bell 0).swing = .atRest ∧ (tower.bell 0).config.hammerInService = true ∧
    ((withBell { bell0 with swing := .up }).bell 0).swing ≠ .atRest ∧
    tower.chime.performance = none ∧
    (∀ u ∈ (tolling scheduled0).toll 1, u.scheduled = some scheduled0) ∧ (∀ u ∈ tower.toll 1, u.scheduled = none) := by
  decide +kernel

def busyEdge (k : StrokeState) (l : Line) : State := (withStroke k).setLine 1 l

theorem test_witness_StrokesRunTheirCourse :
    ((withStroke (.striking (blowUp 80))).stroke 0 = .striking (blowUp 80) ∧ (blowUp 80).lineActive = true ∧
      (blowUp 80).risenAt + (blowUp 80).width = (tower.elapse 0).nowMs ∧ (blowUp 80).feedback = .busy) ∧
    (tower.elapse 0).nowMs < (blowUp 79).risenAt + (blowUp 79).width ∧
    (withStroke (.requested (blowUp 80))).stroke 0 = .requested (blowUp 80) ∧
    ((withStroke (.recovering blow0 100000)).stroke 0 = .recovering blow0 100000 ∧
      (withStroke (.recovering blow0 100001)).stroke 0 = .recovering blow0 100001) ∧
    (∀ ago ∈ [50, 51], let s := busyEdge (.requested (blowUp ago)) (risenLine .hammerBusy (some 0))
     (s.elapse 0).filterReady 1 = true ∧ s.Settled ∧ (s.line 1).record.function = .hammerBusy ∧
       (s.line 1).record.bound = some 0 ∧ (s.line 1).shown = true ∧ s.stroke 0 = .requested (blowUp ago)) ∧
    (∀ f ∈ [Feedback.busy, .none], let s := busyEdge (.striking { blowUp 90 with feedback := f }) (fallenLine .hammerBusy (some 0))
     (s.elapse 0).filterReady 1 = true ∧ s.Settled ∧ (s.line 1).shown = false ∧
       s.stroke 0 = .striking { blowUp 90 with feedback := f }) := by
  refine ⟨by decide +kernel, by decide +kernel, by decide +kernel, by decide +kernel, ?_, ?_⟩
  · intro m hm
    refine ⟨?_, settled_of_tower rfl, ?_⟩ <;> revert m <;> decide +kernel
  · intro m hm
    refine ⟨?_, settled_of_tower rfl, ?_⟩ <;> revert m <;> decide +kernel

theorem test_witness_HammerFaultsTakeItOutOfService :
    ((withStroke (.requested (blowUp 50))).stroke 0 = .requested (blowUp 50) ∧
      (blowUp 50).risenAt + 50 = (tower.elapse 0).nowMs ∧ (tower.elapse 0).nowMs < (blowUp 49).risenAt + 50) ∧
    (let s := busyEdge (.striking (blowUp 400)) { lineOf .hammerBusy (some 0) with filtered := true }
     s.stroke 0 = .striking (blowUp 400) ∧ (blowUp 400).feedback = .busy ∧ s.lineActive .hammerBusy 0 = true ∧
       (blowUp 400).risenAt + 400 = (s.elapse 0).nowMs) ∧
    (withStroke (.striking (blowUp 400))).lineActive .hammerBusy 0 = false ∧
    (∀ k ∈ [StrokeState.idle, .recovering blow0 100300, .requested blow0],
     let s := busyEdge k (risenLine .hammerBusy (some 0))
     (s.elapse 0).filterReady 1 = true ∧ s.Settled ∧ (s.line 1).record.function = .hammerBusy ∧
       (s.line 1).record.bound = some 0 ∧ (s.line 1).shown = true ∧ (s.bell 0).config.feedback = .busy ∧ s.stroke 0 = k) := by
  refine ⟨by decide +kernel, by decide +kernel, by decide +kernel, ?_⟩
  intro k hk
  refine ⟨?_, settled_of_tower rfl, ?_⟩ <;> revert k <;> decide +kernel

/-! ### Host requests and tunes -/

def busyWriting : State := { tower with memory.writes := [{ effect := .stored (.tune 0), response := none }] }
def framing (f : LinkFrame) : State := { tower with link.sel := true, link.frame := some f }

theorem test_witness_RequestsAreTakenWhenOpen : tower.HostReady ∧ dark.time.power = .reserve ∧
    (framing { openAtBegin := true, response := none }).link.sel = true ∧
    (busyWriting.time.power = .mains ∧ busyWriting.link.sel = false ∧ busyWriting.memory.writes ≠ []) ∧
    (holding.time.power = .mains ∧ holding.link.sel = false ∧ holding.hammers.gate = .holding) :=
  ⟨tower_ready, by decide +kernel⟩

/-- The first handles out of range, the last in range of a free slot, and one of another generation. -/
theorem test_witness_StaleHandlesReachNothing : tower.HostReady ∧ (64 ≤ (⟨64, 1⟩ : Handle).slot ∧ (⟨0, 0⟩ : Handle).gen = 0 ∧
      255 < (⟨0, 256⟩ : Handle).gen) ∧
    (tower.tuneSlot 63).record = none ∧ (tower.occasionSlot 255).record = none ∧ (tower.sceneSlot 31).record = none ∧
    (tower.tuneSlot 0).gen ≠ 255 ∧ (tower.sceneSlot 0).gen ≠ 2 :=
  ⟨tower_ready, by decide +kernel⟩

def draft0 (steps : List Step) : Tune := { tune0 with state := .draft, steps := steps }
def withTune (t : Tune) : State := tower.setTuneSlot 0 { gen := 1, record := some t }
/-- Every slot of the library holds a tune. -/
def fullLibrary : State := { tower with tunes.slots := Vector.replicate 64 { gen := 1, record := some tune0 } }

theorem test_witness_TunesAreOpenedAndFilled : tower.HostReady ∧ (tower.tuneSlot 1).record = none ∧
    (∀ j < 1, (tower.tuneSlot j).record ≠ none) ∧ (fullLibrary.HostReady ∧ ∀ j < 64, (fullLibrary.tuneSlot j).record ≠ none) ∧
    (∀ l ∈ [List.replicate 480 (Step.rest 1), List.replicate 481 (.rest 1)], (withTune (draft0 l)).HostReady ∧
      (withTune (draft0 l)).findTune ⟨0, 1⟩ = some (draft0 l)) ∧
    (List.replicate 480 (Step.rest 1)).length + (List.replicate 32 (Step.rest 1)).length = 512 ∧
    (∀ x ∈ List.replicate 32 (Step.rest 1), stepOk x = true) ∧ stepOk (.rest 0) = false ∧ (draft0 []).state = .draft ∧
    tune0.state ≠ .draft ∧
    (let s := { withTune (draft0 []) with tunes.freeSteps := 31 }
     s.HostReady ∧ s.tunes.freeSteps < (List.replicate 32 (Step.rest 1)).length ∧
       (List.replicate 31 (Step.rest 1)).length = s.tunes.freeSteps) := by
  refine ⟨tower_ready, by decide +kernel, by decide +kernel, ⟨ready (by decide +kernel), by decide +kernel⟩, ?_, by decide +kernel,
    by decide +kernel, by decide +kernel, by decide +kernel, by decide +kernel, ready (by decide +kernel), by decide +kernel⟩
  intro l hl
  refine ⟨ready ?_, ?_⟩ <;> revert l <;> decide +kernel

/-- A frame of APPEND STEPS whose steps could not be read, routed at a LIVE tune and at a DRAFT. -/
theorem test_witness_TunesAreOpenedAndFilled_badSteps : ∀ t ∈ [tune0, draft0 []],
    let s : State := { withTune t with link.inProgress := some { task := .badSteps ⟨0, 1⟩, phase := .ready, taken := 0, seen := .nothing } }
    s.time.power = .mains ∧ s.findTune ⟨0, 1⟩ = some t ∧
      s.link.inProgress = some { task := .badSteps ⟨0, 1⟩, phase := .ready, taken := 0, seen := .nothing } := by decide +kernel

theorem test_witness_TunesLiveAndRetire :
    (∀ t ∈ [draft0 [], draft0 [.rest 1], tune0, { tune0 with refs := 1 }, { tune0 with state := .retiring, refs := 1 }],
      (withTune t).HostReady ∧ (withTune t).findTune ⟨0, 1⟩ = some t) ∧
    (draft0 []).steps = [] ∧ (draft0 [.rest 1]).steps ≠ [] ∧ (tune0.state = .live ∧ tune0.refs = 0) ∧
    (List.replicate 16 (65#8 : Byte)).length ≤ 16 ∧ 16 < (List.replicate 17 (65#8 : Byte)).length := by
  refine ⟨?_, by decide +kernel⟩
  intro t ht
  refine ⟨ready ?_, ?_⟩ <;> revert t <;> decide +kernel

theorem test_witness_ChimeMapAnswersEachDegree : (exampleMap.chimeMap.getD 22 none = some 34 ∧ ((9 : Nat) : Int) + 13 = ((22 : Nat) : Int)) ∧
    (exampleMap.chimeMap.getD 31 none = none ∧ ((31 : Nat) : Int) + 0 = ((31 : Nat) : Int)) ∧
    (((0 : Nat) : Int) + (-1) < 0 ∧ 31 < ((31 : Nat) : Int) + 1) ∧
    (let p : List (Nat × Option Nat) := [(0, some 3), (31, none)]
     (p.map (·.1)).Nodup ∧ (31, none) ∈ p ∧ (setDegrees exampleMap.chimeMap p).getD 0 none = some 3) := by decide +kernel

/-! ### Chime Sequencer -/

def entryOf (number priority : Nat) : Entry :=
  { offer .command (.tune ⟨0, 1⟩) 0 1 priority true none 0 with number := number, arrival := number }
def queued (q : List Entry) : State := { tower with chime.queue := q, chime.lastArrival := 20, chime.lastEntryNumber := 20 }
def playing (q : List Entry) (p : Performance) : State := { queued q with chime.performance := some p }
def eight : List Entry := (List.range 8).map fun k => entryOf (k + 8) 3

theorem test_witness_EntriesAreNumberedAndRanked :
    (let c := { (queued [entryOf 1 3]).chime with lastEntryNumber := 65535 }
     c.queue.length ≤ 8 ∧ (∃ e ∈ c.queue, e.number = 1) ∧ c.nextNumber = 2) ∧
    (let c := { tower.chime with lastEntryNumber := 65534 }
     (∀ e ∈ c.queue, e.number ≠ 65535) ∧ c.performance = none ∧ c.nextNumber = 65535) ∧
    (let q := [entryOf 9 5, entryOf 4 3, entryOf 8 3]
     q.Pairwise (fun a b => b.priority < a.priority ∨ (a.priority = b.priority ∧ a.arrival < b.arrival)) ∧
       (∀ x ∈ q, x.arrival ≠ (entryOf 12 3).arrival) ∧ (insertEntry q (entryOf 12 5)).map (·.number) = [9, 12, 4, 8] ∧
       loser q = some (entryOf 8 3)) := by decide +kernel

theorem test_witness_PlayOffersAnEntry : tower.HostReady ∧ tower.Settled ∧
    ¬((17 : Int) ≤ 16) ∧ tower.findTune ⟨63, 255⟩ = none ∧
    ((withTune { tune0 with state := .retiring, refs := 1 }).findTune ⟨0, 1⟩).any (fun t => t.state != .live) = true ∧
    (tower.findTune ⟨0, 1⟩ = some tune0 ∧ tower.chime.performance = none ∧ tower.chime.queue = []) ∧
    (let s := playing (eight.take 7) perf0
     s.HostReady ∧ s.Settled ∧ s.chime.performance = some perf0 ∧ s.chime.queue.length < 8 ∧ perf0.entry.number ≠ s.chime.nextNumber ∧
       perf0.ending = none ∧ perf0.entry.yields = true ∧ perf0.entry.priority = 2) ∧
    (let s := playing eight perf0
     s.HostReady ∧ s.Settled ∧ 8 ≤ s.chime.queue.length ∧ loser s.chime.queue = some (entryOf 15 3) ∧
       (entryOf 15 3).priority = 3 ∧ (entryOf 15 3).source = .command ∧ (entryOf 15 3).arrival ≤ s.chime.lastArrival) :=
  ⟨tower_ready, tower_settled, by decide, by decide +kernel, by decide +kernel, by decide +kernel,
    ⟨ready (by decide +kernel), settled_of_tower rfl, by decide +kernel⟩,
    ⟨ready (by decide +kernel), settled_of_tower rfl, by decide +kernel⟩⟩

/-- The performance of tune 0 at its step boundary, the steps of tunes 0 and 2 as told. -/
def walking (caller : List Step) (callee : Option Tune) (p : Performance) : State :=
  { (withTune { tune0 with steps := caller }).setTuneSlot 2 { gen := 1, record := callee } with chime.performance := some p }
def deep (n : Nat) : Performance := { perf0 with stack := List.replicate n { tune := ⟨0, 1⟩, returnStep := 1, repeatsLeft := 0 } }
def callee0 : Tune := { tune0 with steps := [.rest 3] }
def hourly (taken : Nat) : Performance := { perf0 with entry.content := .hourStrike 0 3 10 1, hourTaken := taken }

theorem test_witness_StepBoundaryWalksOneTimedStep :
    (tower.time.power = .mains ∧ perf0.ending = none ∧ perf0.nextSounding = (tower.elapse 0).nowMs + 400 ∧ perf0.stopPending = false ∧
      perf0.preemptPending = false ∧ perf0.entry.content = .tune ⟨0, 1⟩ ∧ perf0.cursor = ⟨⟨0, 1⟩, 1⟩ ∧ perf0.blows = []) ∧
    (tower.elapse 0).nowMs + 400 < ({ perf0 with nextSounding := 100401 } : Performance).nextSounding ∧
    (let s := playing [entryOf 9 3] { perf0 with preemptPending := true }
     ∃ x ∈ s.chime.queue.head?, perf0.entry.priority < x.priority) ∧
    (¬∃ x ∈ (playing [entryOf 9 2] { perf0 with preemptPending := true }).chime.queue.head?, perf0.entry.priority < x.priority) ∧
    ((hourly 3).entry.content = .hourStrike 0 3 10 1 ∧ (hourly 3).hourTaken = 3 ∧ (hourly 2).hourTaken < 3) ∧
    (walking [.rest 7] none perf0).readStep ⟨0, 1⟩ 1 = .step .live (.rest 7) ∧
    ((walking [.note [4] 2 50] none perf0).readStep ⟨0, 1⟩ 1 = .step .live (.note [4] 2 50) ∧ tower.tunes.lookUp 0 4 = .bell 0 ∧
      tower.tunes.lookUp 0 5 = .unmapped ∧ tower.tunes.lookUp (-16) 15 = .outOfRange) ∧
    (let s := walking [.call ⟨2, 1⟩ 2, .rest 7] (some callee0) (deep 3)
     s.readStep ⟨0, 1⟩ 1 = .step .live (.call ⟨2, 1⟩ 2) ∧ s.readStep ⟨2, 1⟩ 1 = .step .live (.rest 3) ∧ (deep 3).stack.length < 4) ∧
    (let s := walking [.call ⟨2, 1⟩ 2, .rest 7] none perf0
     s.readStep ⟨0, 1⟩ 2 = .step .live (.rest 7) ∧ (s.readStep ⟨2, 1⟩ 1).state? ≠ some .live) ∧
    (let s := walking [.call ⟨2, 1⟩ 2, .rest 7] (some { callee0 with state := .retiring }) perf0
     (s.readStep ⟨2, 1⟩ 1).state? ≠ some .live) ∧
    (let s := walking [.call ⟨2, 1⟩ 2, .rest 7] (some callee0) (deep 4)
     (s.readStep ⟨2, 1⟩ 1).state? = some .live ∧ 4 ≤ (deep 4).stack.length) ∧
    (let s := walking [.rest 7] none { perf0 with cursor := ⟨⟨0, 1⟩, 2⟩, passes := .left 1, ticks := 7 }
     s.readStep ⟨0, 1⟩ 2 = .atEnd .live ∧ s.readStep ⟨0, 1⟩ 1 = .step .live (.rest 7)) ∧
    (perf0.passTested = true ∧ perf0.ticks = 0 ∧ perf0.passes = .left 0) ∧
    (let s := walking [.rest 7] (some callee0) { deep 1 with cursor := ⟨⟨2, 1⟩, 2⟩ }
     s.readStep ⟨2, 1⟩ 2 = .atEnd .live ∧ (∀ f ∈ (deep 1).stack, f.repeatsLeft = 0 ∧
       s.readStep f.tune f.returnStep = .step .live (.rest 7))) := by decide +kernel

/-- A chord of two bells and a degree unmapped, the later bell's lead the longer, asked in the order of the request moments; and a callee
begun again for its second repeat. -/
theorem test_witness_StepBoundaryWalksOneTimedStep_chord :
    (let w := (walking [.note [4, 7, 6] 2 50] none perf0).setBell 1 { Bell.blank with config.lead := 400 }
     let s : State := { w with tunes.chimeMap := w.tunes.chimeMap.setIfInBounds 6 (some 1) }
     s.readStep ⟨0, 1⟩ 1 = .step .live (.note [4, 7, 6] 2 50) ∧ perf0.blows = [] ∧ perf0.skipped ≤ 65535 ∧
     nextIs (exec (.stepBoundary 0) s) (fun t => t.chime.performance.any fun p => p.blows.map (·.bell) == [1, 0] && p.skipped == 1)
       = true) ∧
    (let p : Performance := { perf0 with stack := [{ tune := ⟨0, 1⟩, returnStep := 1, repeatsLeft := 2 }], cursor := ⟨⟨2, 1⟩, 2⟩ }
     let s := walking [.rest 7] (some callee0) p
     s.readStep ⟨2, 1⟩ 2 = .atEnd .live ∧ s.readStep ⟨2, 1⟩ 1 = .step .live (.rest 3)) := by decide +kernel

/-- Another pass of an entry UNTIL STOPPED, and a callee freed with repeats left, its caller going on. -/
theorem test_witness_StepBoundaryWalksOneTimedStep_onward :
    (let p : Performance := { perf0 with cursor := ⟨⟨0, 1⟩, 2⟩, passes := .untilStopped, ticks := 7 }
     let s := walking [.rest 7] none p
     s.readStep ⟨0, 1⟩ 2 = .atEnd .live ∧ p.stack = [] ∧ p.ticks ≠ 0 ∧ s.readStep ⟨0, 1⟩ 1 = .step .live (.rest 7)) ∧
    (let p : Performance := { perf0 with stack := [{ tune := ⟨0, 1⟩, returnStep := 1, repeatsLeft := 2 }], cursor := ⟨⟨2, 1⟩, 2⟩ }
     let s := walking [.rest 7] none p
     s.readStep ⟨2, 1⟩ 2 = .gone ∧ s.readStep ⟨0, 1⟩ 1 = .step .live (.rest 7) ∧
     nextIs (exec (.stepBoundary 0) s) (fun t => t.chime.performance.any fun p => p.stack == [] && p.cursor == ⟨⟨0, 1⟩, 2⟩ &&
       p.skipped == 0) = true) := by decide +kernel

def closing (e : Ending) : Performance := { perf0 with ending := some e, nextSounding := 100000 }

theorem test_witness_EndMomentClosesThePerformance :
    (let s := playing [] (closing .done)
     s.time.power = .mains ∧ s.Settled ∧ s.chime.performance = some (closing .done) ∧ s.chime.queue = [] ∧
       (closing .done).nextSounding = (s.elapse 0).nowMs ∧ (closing .done).blows = [] ∧ (closing .done).entry.source = .command) ∧
    (let s := playing [] (closing .stopped)
     s.Settled ∧ s.chime.performance = some (closing .stopped)) ∧
    (let s := playing [] { closing .done with nextSounding := 100001 }
     s.Settled ∧ ∀ p ∈ s.chime.performance, (s.elapse 0).nowMs < p.nextSounding) ∧ perf0.ending = none ∧
    (let s := playing (entryOf 30 3 :: eight.take 6) (closing .preEmpted)
     s.Settled ∧ s.chime.queue = entryOf 30 3 :: eight.take 6 ∧ (eight.take 6).length < 7 ∧
       (closing .preEmpted).entry.priority < (entryOf 30 3).priority ∧ (entryOf 30 3).expiry = none) ∧
    (perf0.entry.content = .tune ⟨0, 1⟩ ∧ (withTune { tune0 with state := .retiring, refs := 2 }).findTune ⟨0, 1⟩
      = some { tune0 with state := .retiring, refs := 2 } ∧ tower.findTune ⟨0, 1⟩ = some tune0) :=
  ⟨⟨by decide +kernel, settled_of_tower rfl, by decide +kernel⟩, ⟨settled_of_tower rfl, by decide +kernel⟩,
    ⟨settled_of_tower rfl, by decide +kernel⟩, by decide +kernel, ⟨settled_of_tower rfl, by decide +kernel⟩, by decide +kernel⟩

/-- An hour strike of the Clock Program that is done. -/
theorem test_witness_EndMomentClosesThePerformance_clock :
    let p : Performance := { closing .done with entry.source := .hour noon, entry.started := true }
    (playing [] p).Settled ∧ (playing [] p).chime.performance = some p ∧ p.nextSounding = ((playing [] p).elapse 0).nowMs ∧
      p.blows = [] ∧ (playing [] p).chime.queue = [] ∧ p.entry.source = .hour noon ∧ p.ending = some .done :=
  ⟨settled_of_tower rfl, by decide +kernel⟩

theorem test_witness_StopNamesOneEntry :
    (let s := queued [entryOf 1 5, entryOf 2 3, entryOf 3 3]
     s.HostReady ∧ s.Settled ∧ s.chime.queue = [entryOf 1 5] ++ entryOf 2 3 :: [entryOf 3 3] ∧
       (∀ y ∈ [entryOf 1 5] ++ [entryOf 3 3], y.number ≠ 2) ∧ (entryOf 2 3).source = .command ∧ (entryOf 2 3).resume = none) ∧
    (∀ p ∈ [perf0, closing .preEmpted, closing .done, closing .stopped], (playing eight p).HostReady ∧ (playing eight p).Settled ∧
      (∀ x ∈ (playing eight p).chime.queue, x.number ≠ 7) ∧ p.entry.number = 7) ∧
    ((∀ x ∈ (playing eight perf0).chime.queue, x.number ≠ 65535) ∧ perf0.entry.number ≠ 65535) := by
  refine ⟨⟨ready (by decide +kernel), settled_of_tower rfl, by decide +kernel⟩, ?_, by decide +kernel⟩
  intro p hp
  refine ⟨ready ?_, settled_of_tower rfl, ?_⟩ <;> revert p <;> decide +kernel

def resume0 : ResumePoint := { cursor := ⟨⟨0, 1⟩, 2⟩, stack := [], passes := .left 1, skipped := 3, depth := true }

/-- A pre-empted performance with a resume point: with room, with a full queue whose loser it outranks by its arrival alone, and with one
whose loser it does not; heads whose expiry has passed or not, started before or not; and entries stopped with a resume point or not of
COMMAND. -/
theorem test_witness_EndMomentClosesThePerformance_queue :
    (let p : Performance := { closing .preEmpted with resume := some resume0 }
     (∀ q ∈ [eight.take 7, eight, eight.map fun x => { x with priority := 2 }], (playing q p).Settled ∧
       (playing q p).chime.performance = some p) ∧ p.resume = some resume0 ∧
     (eight.take 7).length < 8 ∧ (loser eight = some (entryOf 15 3) ∧ ¬(3 < p.entry.priority ∨ 3 = p.entry.priority)) ∧
     loser (eight.map fun x => { x with priority := 2 }) = some (entryOf 15 2) ∧ (entryOf 15 2).priority = p.entry.priority ∧
       p.entry.arrival < (entryOf 15 2).arrival) ∧
    (∀ e ∈ [Ending.done, .stopped], (playing [entryOf 9 3, entryOf 10 3] (closing e)).Settled ∧ (closing e).ending = some e) ∧
    (∀ x ∈ [none, some noon], ∀ m, x = some m → noon ≤ m) ∧ noon - 1 < (queued []).time.standard ∧
    ((queued [entryOf 9 3]).chime.performance = none ∧ (entryOf 9 3).started = false ∧ (entryOf 9 3).source = .command) ∧
    ({ entryOf 9 3 with resume := some resume0 } : Entry).resume = some resume0 ∧
    (let s : State := queued [{ entryOf 9 3 with expiry := some (noon - 1) }, { entryOf 10 3 with expiry := some noon }]
     s.dequeue.chime.lastOutcome = some { what := .entry 9, report := .expired, skipped := 0, depth := false } ∧
       s.dequeue.chime.queue = [] ∧ s.dequeue.chime.performance.any (fun p => p.entry.number == 10) = true) ∧
    (let t : Tune := { tune0 with state := .retiring, refs := 1 }
     (withTune t).findTune ⟨0, 1⟩ = some t ∧ t.refs ≤ 1 ∧ (entryOf 9 3).content = .tune ⟨0, 1⟩) := by
  refine ⟨⟨fun q _ => ⟨settled_of_tower rfl, rfl⟩, by decide +kernel⟩, fun e _ => ⟨settled_of_tower rfl, rfl⟩, by decide,
    by decide +kernel, by decide +kernel, rfl, by decide +kernel, by decide +kernel⟩

def lastBlow (start : Nat) : TollRun := { toll0 with blowsLeft := 0, nextBlow := 4, start := start }

theorem test_witness_TollsTakeOneChannelEach : (tower.time.power = .mains ∧ tower.HostReady) ∧
    (tollOk 39 120 999 3 = true ∧ tollOk 40 120 999 3 = false ∧ tollOk 39 121 999 3 = false ∧ tollOk 39 120 1000 3 = false) ∧
    (∃ u ∈ (tower.setToll 1 (some toll0)).toll 1, u.bell = 0) ∧
    (let s := (tower.setToll 0 (some toll0)).setToll 1 (some { toll0 with bell := 1 })
     s.HostReady ∧ s.toll 0 ≠ none ∧ s.toll 1 ≠ none ∧ ∀ i < 2, ∀ u ∈ s.toll i, u.bell ≠ 2) ∧
    (let s := tower.setToll 0 (some toll0)
     s.toll 1 = none ∧ (∀ i < 1, s.toll i ≠ none) ∧ ∀ i < 2, ∀ u ∈ s.toll i, u.bell ≠ 2) ∧
    (toll0.start + (toll0.nextBlow - 1) * (toll0.interval * 1000) = (tower.elapse 0).nowMs ∧ 0 < toll0.blowsLeft ∧
      toll0.scheduled = none ∧ (tower.elapse 0).nowMs < ({ toll0 with start := 100001 } : TollRun).start) ∧
    (let s := tower.setToll 1 (some (lastBlow 90600))
     s.Settled ∧ s.HostReady ∧ s.toll 1 = some (lastBlow 90600) ∧ (lastBlow 90600).source = .command ∧
       (lastBlow 90600).start + 400 + ((lastBlow 90600).nextBlow - 1) * ((lastBlow 90600).interval * 1000) = (s.elapse 0).nowMs) ∧
    (tower.elapse 0).nowMs < (lastBlow 90601).start + 400 + ((lastBlow 90601).nextBlow - 1) * ((lastBlow 90601).interval * 1000) ∧
    (tower.toll 1 = none ∧ tower.Settled) :=
  ⟨⟨by decide +kernel, tower_ready⟩, by decide +kernel, ⟨toll0, by decide +kernel⟩, ⟨ready (by decide +kernel), by decide +kernel⟩, by decide +kernel,
    by decide +kernel, ⟨settled_of_tower rfl, ready (by decide +kernel), by decide +kernel⟩, by decide +kernel, by decide +kernel,
    tower_settled⟩

/-- Quarters with a tune at :15, hours, and a night from 22:00 to 06:00. -/
def clock0 : ClockConfig :=
  { ClockConfig.blank with quartersEnabled := true, first := some ⟨0, 1⟩, hourEnabled := true, nightStart := some ⟨22, 0⟩
                           nightEnd := some ⟨6, 0⟩, expiry := 60 }
def clocked (silent : Option Nat) : State := { tower with program := { tower.program with config := clock0, silencedUntil := silent } }

theorem test_witness_MarksOfferTheirEntries :
    (clock0.quartersEnabled = true ∧ clock0.first = some ⟨0, 1⟩ ∧ 900 % 3600 / 900 = 1 ∧ 900 % 3600 ≠ 0) ∧
    (clock0.second = none ∧ 1800 % 3600 / 900 = 2) ∧
    ((∃ x ∈ (clocked (some (noon + 901))).program.silencedUntil, noon + 900 < x) ∧
      ¬∃ x ∈ (clocked (some (noon + 900))).program.silencedUntil, noon + 900 < x) ∧
    (∃ a ∈ clock0.nightStart, ∃ b ∈ clock0.nightEnd, b.seconds < a.seconds ∧ a.seconds = 79200 ∧ b.seconds = 21600) ∧
    ((clocked none).findTune ⟨0, 1⟩ = some tune0 ∧ tune0.state = .live ∧ (clocked none).chime.performance = none ∧
      (clocked none).chime.queue = [] ∧ (clocked none).time.standard = (noon - 60) + clock0.expiry) ∧
    (clock0.fourth = none ∧ clock0.hourEnabled = true ∧ 43200 % 3600 = 0) ∧
    ({ clock0 with nightMode := .all } : ClockConfig).nightMode = .all := by
  refine ⟨by decide +kernel, by decide +kernel, ⟨⟨noon + 901, by decide +kernel⟩, by decide +kernel⟩,
    ⟨⟨22, 0⟩, by decide +kernel, ⟨6, 0⟩, by decide +kernel⟩, by decide +kernel, by decide +kernel, by decide +kernel⟩

/-- A mark with both a tune and the hour, a landing within the expiry and one past it, and a mark owed. -/
theorem test_witness_MarksOfferTheirEntries_landing :
    (let c : ClockConfig := { clock0 with fourth := some ⟨0, 1⟩ }
     c.fourth = some ⟨0, 1⟩ ∧ noon % 3600 / 900 = 0 ∧ noon % 3600 = 0) ∧
    (let s := { clocked none with time.standard := noon + 60 }
     s.localNow % 900 = 60 ∧ s.time.standard - 60 + s.program.config.expiry = s.time.standard ∧ s.program.lastMark ≠ some noon ∧
       s.time.valid = true ∧ s.time.standard - s.time.standard % 900 = noon) ∧
    (let s := { clocked none with time.standard := noon + 61 }
     s.time.standard - 61 + s.program.config.expiry < s.time.standard) ∧
    ({ clocked none with program.lastMark := some noon } : State).program.lastMark = some noon := by decide +kernel

/-- Midnight inside the night of mode QUARTERS, its quarter with a tune; a tune that is gone, and one not yet LIVE. -/
theorem test_witness_MarksOfferTheirEntries_reports :
    (let c : ClockConfig := { clock0 with fourth := some ⟨0, 1⟩ }
     let s : State := { clocked none with program.config := c, time.standard := noon + 43200 }
     c.fourth = some ⟨0, 1⟩ ∧ (noon + 43200) % 3600 / 900 = 0 ∧ (noon + 43200) % 86400 = 0 ∧ c.nightMode ≠ .all ∧
       s.program.silencedUntil = none ∧ s.chime.performance = none ∧ s.chime.queue = [] ∧ s.time.standard ≤ noon + 43200 + c.expiry ∧
       nextIs (exec (.readConditions 0) (s.handleMark (noon + 43200) (noon + 43200))) (fun t =>
         t.program.quartersMissed == 1 && t.chime.performance.any fun p => p.entry.source == .hour (noon + 43200)) = true) ∧
    ((clocked none).setTuneSlot 0 ⟨2, none⟩).findTune ⟨0, 1⟩ = none ∧
    ((clocked none).setTuneSlot 0 ⟨1, some { tune0 with state := .draft }⟩).findTune ⟨0, 1⟩ = some { tune0 with state := .draft } := by
  decide +kernel

/-! ### Occasion Calendar -/

theorem test_witness_NextDueIsTheEarliest :
    (∀ c ∈ [occasion0.config, { occasion0.config with recurrence := .once ⟨2000, 1, 1⟩ }], occasionConfigOk c = true) ∧
    summerRuleOk tower.time.settings.rule = true ∧ (∀ k < 53, tower.calendar.duskTable.getD k 0 ≤ 1439) ∧
    tower.calendar.confirmed = none ∧
    (∀ x : DayInstant, x = ⟨9000, 9000 * 86400 - 3600⟩ ∨ x = ⟨9000, 9001 * 86400 - 1⟩ →
      x.day * 86400 ≤ x.instant + 3600 ∧ x.instant < (x.day + 1) * 86400) ∧
    (tower.computeDue occasion0.config (some noon)).isSome = true ∧
    tower.computeDue { occasion0.config with recurrence := .once ⟨2000, 1, 1⟩ } none = none :=
  ⟨by decide +kernel, by decide +kernel, by decide +kernel, by decide +kernel,
    by rintro _ (rfl | rfl) <;> decide, by decide +kernel, by decide +kernel⟩

/-- A date at both ends of its window in each recurrence; a local time read, and one that summer skips; a dusk confirmed for the day,
one confirmed for another, and none. -/
theorem test_witness_NextDueIsTheEarliest_dates :
    (let day := (dayNumber ⟨2000, 3, 26⟩).toNat
     ∀ r ∈ [Recurrence.once ⟨2000, 3, 26⟩, .daily, .weekly 64#7, .monthlyNth 5 .sunday 4#12, .annual 3 26],
       isOccasionDate { occasion0.config with recurrence := r, firstDate := some ⟨2000, 3, 26⟩, lastDate := some ⟨2000, 3, 26⟩ } day
         = true) ∧
    isOccasionDate { occasion0.config with lastDate := some ⟨2000, 3, 25⟩ } (dayNumber ⟨2000, 3, 26⟩).toNat = false ∧
    isOccasionDate { occasion0.config with recurrence := .weekly 63#7 } (dayNumber ⟨2000, 3, 26⟩).toNat = false ∧
    (let rule : SummerRule := { TimeSettings.blank.rule with enabled := true }
     readLocal rule (85 * 86400 + 3599) = some (85 * 86400 + 3599) ∧ readLocal rule (85 * 86400 + 3600) = none ∧
       readLocal rule (85 * 86400 + 7200) = some (85 * 86400 + 3600) ∧ summerStart rule 2000 = 85 * 86400 + 3600) ∧
    (let held (day : Nat) : State := { tower with calendar.confirmed := some ⟨day, noon⟩ }
     (held 9000).dueInstant (.dusk 30) 9000 = noon + 1800 ∧ (held 8999).dueInstant (.dusk 30) 9000 = 9000 * 86400 + 64800 + 1800 ∧
       tower.dueInstant (.dusk (-30)) 9000 = 9000 * 86400 + 64800 - 1800) := by decide +kernel

/-- An occasion in slot 0, and a context it holds with one action. -/
def withOccasion (o : Occasion) : State := tower.setOccasionSlot 0 { gen := 1, record := some o }
theorem calm_withOccasion (o : Occasion) (h : (o.waiting && o.due.isSome) = false) : Calm (withOccasion o) := tower_calm.put h
def firing0 : Occasion :=
  { occasion0 with state := .firing, context := some 0, due := none
                   outcome := [{ kind := .pending, note := .none, skipped := 0, depth := false }] }
def inContext (a : ContextAction) (s : State) : State :=
  s.setContext 0 (some { occasion := ⟨0, 1⟩, due := noon, actions := [a] })
theorem calm_inContext (a : ContextAction) : Calm (inContext a (withOccasion firing0)) := (calm_withOccasion firing0 rfl).of_slots rfl
theorem Calm.setToll {s : State} (h : Calm s) (c : Nat) (u : Option TollRun) : Calm (s.setToll c u) := h.of_slots rfl
theorem Calm.setBell {s : State} (h : Calm s) (b : Nat) (x : Bell) : Calm (s.setBell b x) := h.of_slots rfl

theorem onlyOccasion (o : Occasion) (j : Nat) (h : j ≠ 0) : ((withOccasion o).occasionSlot j).record = none := by
  rw [withOccasion, State.occasionSlot_setOccasionSlot_other _ _ _ _ (Ne.symm h)]
  exact tower_empty j
def playAction : ContextAction := { kind := .play ⟨0, 1⟩ 0 1 true, start := noon, phase := .active (.entry 1) }
def playedOut : Performance := { closing .done with entry.source := .occasion ⟨0, 1⟩ 0 0 }
/-- The one action of an occasion's context, whose tune is done. -/
def playedFor : State := { inContext playAction (withOccasion firing0) with chime.performance := some playedOut }
theorem playedFor_calm : Calm playedFor := (calm_inContext playAction).of_slots (by rw [playedFor])

theorem test_witness_EndMomentClosesThePerformance_occasion :
    playedFor.Settled ∧ playedFor.firstWaiting = none ∧ playedFor.chime.queue = [] ∧
      playedOut.entry.source = .occasion ⟨0, 1⟩ 0 0 ∧ playedOut.ending = some .done ∧
      playedFor.context 0 = some { occasion := ⟨0, 1⟩, due := noon, actions := [playAction] } ∧
      playedFor.findOccasion ⟨0, 1⟩ = some firing0 ∧ firing0.state = .firing ∧ firing0.outcome.length = 1 ∧
      (playedFor.reportEntry playedOut.entry .expired).link.flags.getLsbD 5 = true :=
  ⟨playedFor_calm.settled (by decide +kernel), playedFor_calm.noneWaits, by decide +kernel⟩

/-- An occasion due at the instant given. -/
def dueAt (x : Nat) : Occasion := { occasion0 with due := some { instant := x, day := 9000 } }
theorem tower_idle : ∀ k < 8, tower.context k = none := by decide +kernel
theorem idleContexts (o : Occasion) (k : Nat) (h : k < 8) : (withOccasion o).context k = none := by
  have hc : (withOccasion o).calendar.contexts = tower.calendar.contexts := by rw [withOccasion, State.setOccasionSlot]
  rw [State.context, hc]
  exact tower_idle k h

/-- A jump that finds nothing due, and one that finds an occasion past its grace alone. -/
theorem test_witness_NextDueIsTheEarliest_jumps : (withOccasion (dueAt (noon + 1))).NothingDue ∧
    (∀ z ∈ [OccasionState.armed, .firing, .suspended, .spent], (withOccasion { occasion0 with state := z, due := none }).NothingDue ∧
      ((withOccasion { occasion0 with state := z, due := none }).occasionSlot 0).record = some { occasion0 with state := z, due := none }) ∧
    (let s := withOccasion (dueAt (noon - 301))
     (s.occasionSlot 0).record = some (dueAt (noon - 301)) ∧ noon - 301 + occasion0.config.grace * 60 < s.time.standard ∧
       (∀ j x y, j < 256 → j ≠ 0 → (s.occasionSlot j).record = some x → x.due = some y → s.time.standard < y.instant) ∧
       ∀ k c, k < 8 → s.context k = some c → ∀ a ∈ c.actions, ∀ holds, a.phase = .waiting holds → s.time.standard < a.start) := by
  have none_ {o k c} (h : k < 8) (hc : (withOccasion o).context k = some c) : False :=
    absurd ((idleContexts o k h).symm.trans hc) nofun
  have only {o j x} (h : j ≠ 0) (hx : ((withOccasion o).occasionSlot j).record = some x) : False :=
    absurd ((onlyOccasion o j h).symm.trans hx) nofun
  have first (o : Occasion) : ((withOccasion o).occasionSlot 0).record = some o := by
    rw [withOccasion, State.occasionSlot_setOccasionSlot_same _ _ _ (by decide)]
  have ok {o : Occasion} (h : ∀ d, o.due = some d → noon < d.instant) : (withOccasion o).NothingDue := by
    refine ⟨fun j x d _ hx hd => ?_, fun k c hk hc => absurd hc fun hc => none_ hk hc⟩
    rcases Decidable.em (j = 0) with rfl | hj
    · cases (first o).symm.trans hx
      exact h d hd
    · exact absurd hx fun hx => only hj hx
  refine ⟨ok ?_, fun z _ => ⟨ok nofun, first _⟩, first _, by decide, fun j x y _ hj hx => absurd hx fun hx => only hj hx,
    fun k c hk hc => absurd hc fun hc => none_ hk hc⟩
  rintro d hd
  cases hd
  decide

def full256 : State := { tower with calendar.slots := Vector.replicate 256 { gen := 1, record := some occasion0 } }

theorem test_witness_OccasionsAreStoredAndAmended : tower.HostReady ∧
    (occasionConfigOk occasion0.config = true ∧ occasionConfigOk { occasion0.config with grace := 61 } = false) ∧
    ((tower.occasionSlot 0).record = none ∧ (full256.HostReady ∧ ∀ j < 256, (full256.occasionSlot j).record ≠ none)) ∧
    (∀ z ∈ [OccasionState.armed, .firing, .suspended, .spent, .retiring], (withOccasion { occasion0 with state := z }).HostReady ∧
      (withOccasion { occasion0 with state := z }).findOccasion ⟨0, 1⟩ = some { occasion0 with state := z }) := by
  refine ⟨tower_ready, by decide +kernel, ⟨tower_empty 0, ready (by decide +kernel), by decide +kernel⟩, ?_⟩
  intro z hz
  refine ⟨ready ?_, ?_⟩ <;> revert z <;> decide +kernel

def active0 : ContextAction := { kind := .toll 0 3 5 1, start := noon, phase := .active (.toll 0) }
def owned0 : TollRun := { toll0 with source := .action ⟨0, 1⟩ 0 0 }

theorem test_witness_RetireFreesTheOccasion :
    (let s := withOccasion occasion0
     s.HostReady ∧ s.doneContext = none ∧ s.firstWaiting = none ∧ s.findOccasion ⟨0, 1⟩ = some occasion0 ∧
       occasion0.state ≠ .retiring ∧ occasion0.context = none ∧ s.mixer.standing = []) ∧
    (let s := inContext { active0 with phase := .waiting false } (withOccasion firing0)
     s.HostReady ∧ s.doneContext = none ∧ s.firstWaiting = none ∧ s.findOccasion ⟨0, 1⟩ = some firing0 ∧ firing0.context = some 0 ∧
       s.context 0 = some { occasion := ⟨0, 1⟩, due := noon, actions := [{ active0 with phase := .waiting false }] }) ∧
    (let s := (inContext active0 (withOccasion firing0)).setToll 0 (some owned0)
     s.HostReady ∧ s.doneContext = none ∧ s.firstWaiting = none ∧ s.toll 0 = some owned0 ∧
       s.context 0 = some { occasion := ⟨0, 1⟩, due := noon, actions := [active0] }) :=
  ⟨⟨ready (by decide +kernel), by decide +kernel, (calm_withOccasion _ rfl).noneWaits, by decide +kernel⟩,
    ⟨ready (by decide +kernel), by decide +kernel, (calm_inContext _).noneWaits, by decide +kernel⟩,
    ⟨ready (by decide +kernel), by decide +kernel, ((calm_inContext _).setToll _ _).noneWaits, by decide +kernel⟩⟩

/-- A standing entry of the occasion's making, its scene in a layer. -/
def raisedByOccasion : State :=
  { withOccasion { occasion0 with state := .retiring } with
    mixer.standing := [{ scene := ⟨0, 1⟩, endAt := noon, creator := .occasion ⟨0, 1⟩ }]
    mixer.layers := [{ scene := ⟨0, 1⟩, sequence := 1, f := 0, f0 := 0, target := 256, k0 := 0, length := 0 }] }
theorem raisedByOccasion_calm : Calm raisedByOccasion :=
  (calm_withOccasion { occasion0 with state := .retiring } rfl).of_slots (by rw [raisedByOccasion])
def entry0 : Entry :=
  { offer (.occasion ⟨0, 1⟩ 0 0) (.tune ⟨0, 1⟩) 0 1 2 true none 0 with number := 5, arrival := 5 }
def firing2 : Occasion := { firing0 with outcome := firing0.outcome ++ firing0.outcome }
def twoActions : State := (withOccasion firing2).setContext 0
  (some { occasion := ⟨0, 1⟩, due := noon, actions := [{ active0 with phase := .waiting false }, active0] })
theorem twoActions_calm : Calm twoActions := (calm_withOccasion firing2 rfl).of_slots (by rw [twoActions, State.setContext])
def activeAs (h : Holder) : State := inContext { active0 with phase := .active h } (withOccasion firing0)

/-- A motor run whose sources are an occasion's one action and COMMAND, or the second action of two, at each of its ends. -/
theorem test_witness_MotorRunsEndInOneStep_sources :
    (∀ m : MotorRun, ((activeAs (.bell 0)).setBell 0 { bell0 with motor := m }).firstWaiting = none ∧
      (twoActions.setBell 0 { bell0 with motor := m }).firstWaiting = none) ∧
    (∀ m ∈ [MotorRun.pending 5 0 false [.action 0 0], .running 80000 100000 true [.action 0 0, .command],
        .running 80000 100000 false [.command, .action 0 0]],
      let s : State := (activeAs (.bell 0)).setBell 0 { bell0 with motor := m }
      s.doneContext = none ∧ (s.bell 0).motor = m ∧ s.time.power = .mains ∧ (∃ c ∈ s.context 0, c.actions.length = 1) ∧
        s.findOccasion ⟨0, 1⟩ = some firing0 ∧ 0 < firing0.outcome.length ∧ firing0.state = .firing ∧
        ({ s with clock := 3932160 } : State).nowMs = 0 + 120000 ∧ s.nowMs = 80000 + 20000 ∧ Ready s) ∧
    (let s := twoActions.setBell 0 { bell0 with motor := .running 80000 100000 true [.action 0 1] }
     s.doneContext = none ∧ s.findOccasion ⟨0, 1⟩ = some firing2 ∧ 1 < firing2.outcome.length ∧
       (∃ c ∈ s.context 0, ∃ x ∈ c.actions, x.phase ≠ .done)) :=
  ⟨fun m => ⟨((calm_inContext _).setBell _ _).noneWaits, (twoActions_calm.setBell _ _).noneWaits⟩, by decide +kernel,
    by decide +kernel⟩

/-- Two actions, the first waiting; a motor run, a queued entry and a performance of the one action; and a standing entry. -/
theorem test_witness_RetireFreesTheOccasion_work :
    (raisedByOccasion.HostReady ∧ raisedByOccasion.ListsSound ∧ raisedByOccasion.firstWaiting = none ∧
      raisedByOccasion.findOccasion ⟨0, 1⟩ = some { occasion0 with state := .retiring }) ∧
    (twoActions.HostReady ∧ twoActions.doneContext = none ∧ twoActions.firstWaiting = none ∧
      twoActions.findOccasion ⟨0, 1⟩ = some firing2 ∧ firing2.outcome.length = 2) ∧
    (∀ h ∈ [Holder.bell 0, .entry 5, .entry 7], (activeAs h).HostReady ∧ (activeAs h).doneContext = none ∧
      (activeAs h).firstWaiting = none ∧ (activeAs h).findOccasion ⟨0, 1⟩ = some firing0) ∧
    (∀ m ∈ [MotorRun.pending 5 0 true [.action 0 0], .running 80000 200000 true [.action 0 0]],
      ((activeAs (.bell 0)).setBell 0 { bell0 with motor := m }).HostReady) ∧
    (let s : State := { activeAs (.entry 5) with chime.queue := [entry0] }
     s.HostReady ∧ s.chime.queue = [] ++ entry0 :: [] ∧ entry0.number = 5 ∧ entry0.source = .occasion ⟨0, 1⟩ 0 0) ∧
    (let s : State := { activeAs (.entry 7) with chime.performance := some perf0 }
     s.HostReady ∧ perf0.entry.number = 7 ∧ perf0.ending = none ∧ s.chime.queue = []) := by
  refine ⟨⟨ready (by decide +kernel), ⟨by decide +kernel, by decide +kernel, by decide +kernel, by decide +kernel,
      by decide +kernel⟩, raisedByOccasion_calm.noneWaits, by decide +kernel⟩,
    ⟨ready (by decide +kernel), by decide +kernel, twoActions_calm.noneWaits, by decide +kernel⟩, ?_, ?_,
    ⟨ready (by decide +kernel), by decide +kernel⟩, ready (by decide +kernel), by decide +kernel⟩
  · intro h hh
    refine ⟨ready ?_, ?_, (calm_inContext _).noneWaits, ?_⟩ <;> revert h <;> decide +kernel
  · intro m hm
    refine ready ?_
    revert m
    decide +kernel

/-- An entry of an occasion that is the loser of a full queue, that is queued, and that a STOP removes with its resume point; and a
quarter's entry. -/
theorem test_witness_PlayOffersAnEntry_losers : ∀ x ∈ [{ entry0 with number := 15, arrival := 15 },
      { entryOf 15 2 with source := .quarter noon }, { entry0 with number := 15, arrival := 15, resume := some resume0 }],
    let s : State := { activeAs (.entry 15) with chime.queue := eight.take 7 ++ [x], chime.performance := some perf0
                                                 chime.lastArrival := 20, chime.lastEntryNumber := 20 }
    s.HostReady ∧ s.Settled ∧ s.findTune ⟨0, 1⟩ = some tune0 ∧ 8 ≤ s.chime.queue.length ∧ loser s.chime.queue = some x ∧
      x.priority < 3 ∧ perf0.entry.number ≠ s.chime.nextNumber ∧ x.source ≠ .command ∧ x.number = 15 ∧
      ∀ y ∈ eight.take 7, y.number ≠ 15 := by
  intro x hx
  refine ⟨ready ?_, ((calm_inContext _).of_slots (by rw [activeAs])).settled ?_, ?_⟩ <;> revert x <;> decide +kernel

/-- A report to an action of a context. -/
theorem test_witness_EndMomentClosesThePerformance_reports :
    entry0.source = .occasion ⟨0, 1⟩ 0 0 ∧ (activeAs (.entry 5)).findOccasion ⟨0, 1⟩ = some firing0 ∧
      (activeAs (.entry 5)).context 0
        = some { occasion := ⟨0, 1⟩, due := noon, actions := [{ active0 with phase := .active (.entry 5) }] } := by decide +kernel

/-- A toll of an occasion's one action, at its end, a millisecond before it, and stopped. -/
theorem test_witness_TollsTakeOneChannelEach_action : ∀ start ∈ [90600, 90601],
    let u : TollRun := { lastBlow start with source := .action ⟨0, 1⟩ 0 0, skipped := 2 }
    let s := (inContext active0 (withOccasion firing0)).setToll 0 (some u)
    s.HostReady ∧ s.Settled ∧ s.firstWaiting = none ∧ s.toll 0 = some u ∧ u.blowsLeft = 0 ∧ u.scheduled = none ∧
      (u.start + 400 + (u.nextBlow - 1) * (u.interval * 1000) ≤ (s.elapse 0).nowMs ↔ start = 90600) ∧
      s.context 0 = some { occasion := ⟨0, 1⟩, due := noon, actions := [active0] } ∧ s.findOccasion ⟨0, 1⟩ = some firing0 ∧
      firing0.state = .firing ∧ firing0.outcome.length = 1 := by
  intro start hs
  refine ⟨ready ?_, ((calm_inContext _).setToll _ _).settled ?_, ((calm_inContext _).setToll _ _).noneWaits, ?_⟩ <;> revert start <;>
    decide +kernel

/-- Two PLAY actions that wait, with the references they took to a tune that is LIVE or RETIRING, the last of them or not. -/
theorem test_witness_RetireFreesTheOccasion_references : ∀ x ∈ [{ tune0 with refs := 2 }, { tune0 with state := .retiring, refs := 2 },
      { tune0 with state := .retiring, refs := 3 }],
    let a : ContextAction := { playAction with phase := .waiting true }
    let s : State := ((withOccasion firing2).setTuneSlot 0 { gen := 1, record := some x }).setContext 0
      (some { occasion := ⟨0, 1⟩, due := noon, actions := [a, a] })
    s.HostReady ∧ s.doneContext = none ∧ s.firstWaiting = none ∧ s.findOccasion ⟨0, 1⟩ = some firing2 ∧ s.findTune ⟨0, 1⟩ = some x ∧
      (∀ y ∈ [a, a], ∃ holds, y.phase = .waiting holds) ∧ s.context 0 = some { occasion := ⟨0, 1⟩, due := noon, actions := [a, a] } := by
  intro x hx
  refine ⟨ready ?_, ?_, ((calm_withOccasion firing2 rfl).of_slots (by rw [State.setContext, State.setTuneSlot])).noneWaits, ?_, ?_,
    ?_, ?_⟩
  · revert x; decide +kernel
  · revert x; decide +kernel
  · revert x; decide +kernel
  · revert x; decide +kernel
  · intro y hy; exact ⟨true, by revert y; decide +kernel⟩
  · revert x; decide +kernel

/-- The eight contexts held. -/
def allHeld (s : State) : State :=
  { s with calendar.contexts := Vector.replicate 8 (some { occasion := ⟨9, 1⟩, due := noon, actions := [active0] }) }

theorem test_witness_DuesFireWaitOrAreMissed :
    (∀ x ∈ [noon, noon - 300, noon - 301], (withOccasion (dueAt x)).time.power = .mains ∧ (withOccasion (dueAt x)).Settled ∧
      ((withOccasion (dueAt x)).occasionSlot 0).record = some (dueAt x) ∧ (dueAt x).waiting = false ∧ (dueAt x).state = .armed) ∧
    (∀ o j x, j < 256 → j ≠ 0 → ((withOccasion o).occasionSlot j).record = some x → x.waiting = true) ∧
    (tower.time.standard = noon ∧ noon - 300 + occasion0.config.grace * 60 = noon ∧ noon - 301 + occasion0.config.grace * 60 < noon) ∧
    (let s := withOccasion { dueAt noon with state := .firing }
     s.Settled) ∧
    (let s := allHeld (withOccasion (dueAt noon))
     s.Settled ∧ ∀ k < 8, s.context k ≠ none) ∧
    ((withOccasion (dueAt noon)).context 0 = none ∧ occasion0.config.actions ≠ [] ∧
      ∀ a ∈ occasion0.config.actions, noon < noon + a.offset) ∧
    (∀ x ∈ [noon - 300, noon - 301], (allHeld (withOccasion { dueAt x with waiting := true })).Settled ∧
      ((allHeld (withOccasion { dueAt x with waiting := true })).occasionSlot 0).record = some { dueAt x with waiting := true }) ∧
    ((withOccasion (dueAt (noon + 1))).Settled ∧ noon < noon + 1) := by
  refine ⟨fun x hx => ⟨rfl, (calm_withOccasion _ rfl).settled (by revert x; decide +kernel), by revert x; decide +kernel, rfl, rfl⟩,
    fun o j x _ h hx => absurd ((onlyOccasion o j h).symm.trans hx) nofun, by decide +kernel,
    (calm_withOccasion _ rfl).settled (by decide +kernel), ⟨⟨by decide +kernel, .inl (by decide +kernel)⟩, by decide +kernel⟩,
    by decide +kernel, fun x hx => ⟨⟨by revert x; decide +kernel, .inl (by revert x; decide +kernel)⟩, ?_⟩,
    (calm_withOccasion _ rfl).settled (by decide +kernel), by decide +kernel⟩
  revert x
  decide +kernel

/-- R129: past its grace a waiting occasion is MISSED although every context is free. -/
theorem test_witness_DuesFireWaitOrAreMissed_freed :
    let o : Occasion := { dueAt (noon - 301) with waiting := true }
    (withOccasion o).doneContext = none ∧ (withOccasion o).context 0 = none ∧ ((withOccasion o).occasionSlot 0).record = some o ∧
      o.waiting = true ∧ noon - 301 + o.config.grace * 60 < (withOccasion o).time.standard ∧
      (∀ j x, j < 256 → j ≠ 0 → ((withOccasion o).occasionSlot j).record = some x → x.waiting = false) :=
  ⟨by decide +kernel, by decide +kernel, by decide +kernel, by decide +kernel, by decide +kernel,
    fun j _ _ h hx => absurd ((onlyOccasion _ j h).symm.trans hx) nofun⟩

/-- A firing with two PLAY actions of one tune, which is LIVE or RETIRING. -/
theorem test_witness_DuesFireWaitOrAreMissed_references : ∀ x ∈ [tune0, { tune0 with state := .retiring, refs := 1 }],
    let play : Action := { offset := 60, kind := .play ⟨0, 1⟩ 0 1 true }
    let o : Occasion := { dueAt noon with config.actions := [play, play] }
    let s := (withOccasion o).setTuneSlot 0 { gen := 1, record := some x }
    s.Settled ∧ s.findTune ⟨0, 1⟩ = some x ∧ (s.occasionSlot 0).record = some o ∧ s.context 0 = none ∧ o.state = .armed ∧
      (∀ a ∈ o.config.actions, s.time.standard < noon + a.offset) := by
  intro x hx
  refine ⟨((calm_withOccasion _ rfl).of_slots (by rw [State.setTuneSlot])).settled ?_, ?_⟩ <;> revert x <;> decide +kernel

/-- Two occasions, in slots 0 and 1. -/
def twoOccasions (a b : Occasion) : State := (withOccasion a).setOccasionSlot 1 { gen := 1, record := some b }
theorem twoOccasions_other (a b : Occasion) (j : Nat) (x : Occasion) (h : j ≠ 0)
    (hx : ((twoOccasions a b).occasionSlot j).record = some x) : j = 1 ∧ x = b := by
  rcases Decidable.em (j = 1) with rfl | hj
  · rw [twoOccasions, State.occasionSlot_setOccasionSlot_same _ _ _ (by decide)] at hx
    exact ⟨rfl, (Option.some.inj hx).symm⟩
  · rw [twoOccasions, State.occasionSlot_setOccasionSlot_other _ _ _ _ (Ne.symm hj)] at hx
    exact absurd ((onlyOccasion a j h).symm.trans hx) nofun

/-- Due together with equal priorities, the lower slot first; and waiting together for the one context that is free. -/
theorem test_witness_DuesFireWaitOrAreMissed_order :
    (let s := twoOccasions (dueAt noon) (dueAt noon)
     s.Settled ∧ ∀ j x y, j ≠ 0 → (s.occasionSlot j).record = some x → x.due = some y →
       (dueAt noon).dueAheadOf 0 ⟨noon, 9000⟩ x j y) ∧
    (let o : Occasion :=
       { dueAt (noon - 300) with waiting := true, config.actions := [{ offset := 301, kind := .silence 1 }] }
     let s := (allHeld (twoOccasions o { dueAt noon with waiting := true })).setContext 3 none
     s.doneContext = none ∧ s.context 3 = none ∧ (∀ j < 8, j ≠ 3 → s.context j ≠ none) ∧ (s.occasionSlot 0).record = some o ∧
       s.time.standard = noon - 300 + o.config.grace * 60 ∧ o.config.actions ≠ [] ∧
       (∀ a ∈ o.config.actions, s.time.standard < noon - 300 + a.offset) ∧
       o.dueAheadOf 0 ⟨noon - 300, 9000⟩ { dueAt noon with waiting := true } 1 ⟨noon, 9000⟩) := by
  refine ⟨⟨((calm_withOccasion _ rfl).put rfl).settled (by decide +kernel), fun j x y h hx hy => ?_⟩, by decide +kernel,
    by decide +kernel, by decide +kernel, by decide +kernel, by decide +kernel, by decide +kernel, by decide +kernel,
    .inl (by decide)⟩
  obtain ⟨rfl, rfl⟩ := twoOccasions_other _ _ j x h hx
  cases hy
  exact .inr ⟨rfl, .inr ⟨rfl, by decide⟩⟩

/-- The dues come, when that of slot 0 is the only one, in any state with those occasions at that time. -/
theorem dueOrder_only {o : Occasion} {d : Due} {s : State} (h : o.due = some d) (hd : d.instant ≤ noon)
    (hs : s.calendar.slots = (withOccasion o).calendar.slots) (ht : s.time.standard = noon) : s.DueOrder [0] := by
  have first : (s.occasionSlot 0).record = some o := by
    rw [State.occasionSlot, hs]
    rw [← State.occasionSlot, withOccasion, State.occasionSlot_setOccasionSlot_same _ _ _ (by decide)]
  refine ⟨by decide, fun i => ⟨fun hi => ?_, fun ⟨_, x, y, hx, _⟩ => ?_⟩, List.pairwise_singleton _ _⟩
  · cases List.mem_singleton.1 hi
    exact ⟨by decide, o, d, first, h, ht ▸ hd⟩
  · rw [State.occasionSlot, hs, ← State.occasionSlot] at hx
    by_contra hi
    exact absurd ((onlyOccasion o i fun e => hi (List.mem_singleton.2 e)).symm.trans hx) nofun

/-- No due has come, and one has that is met by a free context, by none, or by a context whose action's start instant has come too. -/
theorem test_witness_NextDueIsTheEarliest_reached :
    (∀ s : State, s.NothingDue → s.DueOrder []) ∧
    (∀ x ∈ [noon, noon - 300], let o := dueAt x
      (withOccasion o).DueOrder [0] ∧ (allHeld (withOccasion o)).DueOrder [0] ∧ (inContext { active0 with phase := .waiting false }
        (withOccasion o)).DueOrder [0] ∧ o.state = .armed ∧ noon ≤ x + o.config.grace * 60) ∧
    ((allHeld (withOccasion (dueAt noon))).context 7 ≠ none ∧ (withOccasion (dueAt noon)).context 0 = none ∧
      active0.start ≤ tower.time.standard) ∧
    (withOccasion { dueAt noon with waiting := true }).DueOrder [0] := by
  refine ⟨fun s h => ⟨List.nodup_nil, fun i => ⟨nofun, fun ⟨hi, o, d, ho, hd, hn⟩ => ?_⟩, .nil⟩, fun x hx => ⟨?_, ?_, ?_, rfl, ?_⟩,
    by decide +kernel, dueOrder_only (d := ⟨noon, 9000⟩) rfl (by decide) rfl rfl⟩
  · exact absurd (h.dues i o d hi ho hd) (by omega)
  · exact dueOrder_only (o := dueAt x) (d := ⟨x, 9000⟩) rfl (by revert x; decide) rfl rfl
  · exact dueOrder_only (o := dueAt x) (d := ⟨x, 9000⟩) rfl (by revert x; decide) (by rw [allHeld]) rfl
  · exact dueOrder_only (o := dueAt x) (d := ⟨x, 9000⟩) rfl (by revert x; decide) (by rw [inContext, State.setContext]) rfl
  · revert x; decide

/-- R128: two dues come at one instant with equal priorities stand in the order of their slots. -/
theorem test_witness_DuesFireWaitOrAreMissed_dueOrder : (twoOccasions (dueAt noon) (dueAt noon)).DueOrder [0, 1] := by
  have first : ((twoOccasions (dueAt noon) (dueAt noon)).occasionSlot 0).record = some (dueAt noon) := by decide +kernel
  have second : ((twoOccasions (dueAt noon) (dueAt noon)).occasionSlot 1).record = some (dueAt noon) := by decide +kernel
  refine ⟨by decide, fun i => ⟨fun hi => ?_, fun ⟨_, x, _, hx, _⟩ => ?_⟩, ?_⟩
  · rcases List.mem_cons.1 hi with rfl | hi
    · exact ⟨by decide, _, ⟨noon, 9000⟩, first, rfl, le_refl noon⟩
    · cases List.mem_singleton.1 hi
      exact ⟨by decide, _, ⟨noon, 9000⟩, second, rfl, le_refl noon⟩
  · rcases Decidable.em (i = 0) with rfl | h
    · exact List.mem_cons_self ..
    · exact List.mem_cons_of_mem _ (List.mem_singleton.2 (twoOccasions_other _ _ i x h hx).1)
  · refine List.pairwise_pair.2 fun o d x y ho hd hx hy => ?_
    cases first.symm.trans ho; cases hd; cases second.symm.trans hx; cases hy
    exact .inr ⟨rfl, .inr ⟨rfl, by decide⟩⟩

/-- A due reached with an action of offset 0, in a state with a context to be freed; and the due of an occasion that is not ARMED or
FIRING. -/
theorem test_witness_DuesFireWaitOrAreMissed_atOnce :
    (let o : Occasion := { dueAt noon with config.actions := [{ offset := 0, kind := .toll 0 3 5 1 }, { offset := 5, kind := .silence 1 }] }
     let s := (withOccasion o).setContext 1 (some { occasion := ⟨9, 1⟩, due := noon, actions := [{ active0 with phase := .done }] })
     s.time.power = .mains ∧ (s.occasionSlot 0).record = some o ∧ o.state = .armed ∧ o.waiting = false ∧ s.context 0 = none ∧
       s.doneContext = some 1 ∧ s.toll 0 = none ∧ noon + 0 ≤ s.time.standard) ∧
    (∀ z ∈ [OccasionState.suspended, .spent, .retiring],
      ((withOccasion { dueAt noon with state := z }).occasionSlot 0).record = some { dueAt noon with state := z } ∧ z ≠ .armed ∧
        z ≠ .firing) := by decide +kernel

/-- Context 1 with every action DONE behind one that is not: its occasion FIRING with a due and without, RETIRING, SUSPENDED, SUSPENDED
and out of its context already, or gone. -/
theorem test_witness_DuesFireWaitOrAreMissed_release :
    let held (o : Occasion) (h : Handle) : State := (allHeld (withOccasion o)).setContext 1
      (some { occasion := h, due := noon, actions := [{ active0 with phase := .done }, { active0 with phase := .done }] })
    (∀ o ∈ [firing0, { firing0 with due := some ⟨noon + 1, 9000⟩ }, { firing0 with state := .retiring },
        { firing0 with state := .suspended }, { firing0 with state := .suspended, context := none }],
      (held o ⟨0, 1⟩).doneContext = some 1 ∧ (held o ⟨0, 1⟩).findOccasion ⟨0, 1⟩ = some o ∧
        (∀ x ∈ (held o ⟨0, 1⟩).context 0, ∃ a ∈ x.actions, a.phase ≠ .done) ∧
        ∀ x ∈ (held o ⟨0, 1⟩).context 1, ∀ a ∈ x.actions, a.phase = .done) ∧
    (held firing0 ⟨0, 2⟩).findOccasion ⟨0, 2⟩ = none := by decide +kernel

/-- The one action of context 0, its start instant come. -/
def waitingAction (k : ActionKind) (holds : Bool) : State :=
  inContext { kind := k, start := noon, phase := .waiting holds } (withOccasion firing0)

theorem calm_waitingAction (k : ActionKind) (holds : Bool) : Calm (waitingAction k holds) := calm_inContext _

theorem test_witness_ActionsStartInTheirBlock :
    (∀ (k : ActionKind) (holds : Bool), (waitingAction k holds).firstWaiting = none) ∧
    (∀ k ∈ [ActionKind.toll 0 3 5 1, .swing 0 31, .play ⟨0, 1⟩ 0 1 true, .sceneUp ⟨0, 1⟩ 5, .sceneUp ⟨7, 1⟩ 0, .sceneDown ⟨7, 1⟩,
        .sceneDown ⟨0, 1⟩, .silence 5],
      ∀ holds ∈ [true, false], let s := waitingAction k holds
      s.time.power = .mains ∧ s.doneContext = none ∧
        s.context 0 = some { occasion := ⟨0, 1⟩, due := noon, actions := [{ kind := k, start := noon, phase := .waiting holds }] } ∧
        s.findOccasion ⟨0, 1⟩ = some firing0 ∧ s.time.standard = noon) ∧
    (firing0.outcome.length = 1 ∧ firing0.state = .firing ∧ noon < noon + 1) ∧
    (let s := waitingAction (.toll 0 3 5 1) false
     (s.toll 0 = none ∧ s.toll 1 = none) ∧ (∃ u ∈ (s.setToll 1 (some toll0)).toll 1, u.bell = 0) ∧
       (∀ i < 2, ∀ u ∈ ((s.setToll 0 (some { toll0 with bell := 1 })).setToll 1 (some { toll0 with bell := 2 })).toll i, u.bell ≠ 0)) ∧
    ((waitingAction (.swing 0 31) false).swingRefusal 0 = none ∧ ((waitingAction (.swing 0 31) false).bell 0).motor = .off ∧
      (waitingAction (.swing 39 31) false).swingRefusal 39 = some .notInService) ∧
    ((waitingAction (.play ⟨0, 1⟩ 0 1 true) true).findTune ⟨0, 1⟩ = some tune0 ∧ tune0.state = .live ∧
      tower.chime.performance = none ∧ tower.chime.queue = [] ∧ noon = (noon - 300) + firing0.config.grace * 60) ∧
    ((waitingAction (.sceneUp ⟨0, 1⟩ 5) false).findScene ⟨0, 1⟩ = some scene0 ∧ scene0.state = .live ∧ tower.mixer.layers = [] ∧
      tower.mixer.standing = [] ∧ (waitingAction (.sceneDown ⟨7, 1⟩) false).findScene ⟨7, 1⟩ = none) := by
  refine ⟨fun k holds => (calm_waitingAction k holds).noneWaits, ?_, by decide +kernel,
    ⟨by decide +kernel, ⟨toll0, by decide +kernel⟩, by decide +kernel⟩, by decide +kernel, by decide +kernel, by decide +kernel⟩
  decide +kernel

/-- A PLAY that holds a reference: of a tune that is RETIRING or gone, too late, beside a performance with room, and before a full queue
whose loser is of its own priority. -/
theorem test_witness_ActionsStartInTheirBlock_plays :
    (∀ r ∈ [some { tune0 with state := .retiring, refs := 1 }, none],
      let s := (waitingAction (.play ⟨0, 1⟩ 0 1 true) true).setTuneSlot 0 { gen := 1, record := r }
      s.findTune ⟨0, 1⟩ = r ∧ (∀ x ∈ s.findTune ⟨0, 1⟩, x.state ≠ .live) ∧ s.doneContext = none) ∧
    (noon - 301) + firing0.config.grace * 60 < noon ∧
    (∀ q ∈ [eight.take 7, eight.map fun x => { x with priority := 4 }],
      let s : State := { waitingAction (.play ⟨0, 1⟩ 0 1 true) true with
        chime.queue := q, chime.performance := some perf0, chime.lastArrival := 20, chime.lastEntryNumber := 20 }
      s.findTune ⟨0, 1⟩ = some tune0 ∧ s.doneContext = none ∧ s.chime.performance = some perf0 ∧
        perf0.entry.priority < firing0.config.priority ∧ perf0.entry.yields = true) ∧
    loser (eight.map fun x => { x with priority := 4 }) = some (entryOf 15 4) ∧ firing0.config.priority = 4 ∧
      (entryOf 15 4).arrival ≤ 20 := by decide +kernel

/-- SILENCE over an hour, a host's entry and two quarters, one of them started before. -/
theorem test_witness_ActionsStartInTheirBlock_silence :
    let put (n : Nat) (source : EntrySource) : Entry := { entryOf n 5 with source := source, yields := false }
    let s : State := { waitingAction (.silence 5) false with
      chime.queue := [put 1 (.hour noon), entryOf 2 5, put 3 (.quarter noon), { put 4 (.quarter (noon - 900)) with started := true }] }
    (s.chime.queue.map (·.number)).Nodup ∧ s.program.quartersMissed ≤ 65535 ∧ s.program.hoursMissed ≤ 65535 ∧
      s.removeClockEntries.chime.queue.map (·.number) = [2] ∧ s.removeClockEntries.program.quartersMissed = 1 ∧
      s.removeClockEntries.program.hoursMissed = 1 ∧
      s.removeClockEntries.program.lastOutcome.map (·.mark) = some (noon - 900) := by decide +kernel

/-- A SWING of a bell whose motor runs for another source. -/
theorem test_witness_ActionsStartInTheirBlock_extension :
    let s := (waitingAction (.swing 0 5) false).setBell 0 { bell0 with motor := running0 200000 true }
    s.swingRefusal 0 = none ∧ (s.bell 0).motor = running0 200000 true := by decide +kernel

/-- SCENE UP with a full standing list, with a full stack that gives no way, and of a scene that is RETIRING. -/
theorem test_witness_ActionsStartInTheirBlock_scenes :
    let s := waitingAction (.sceneUp ⟨0, 1⟩ 5) false
    (let u : State := { s with mixer.standing := (List.range 8).map fun k => { scene := ⟨k + 1, 1⟩, endAt := noon, creator := .command } }
     u.mixer.layers = [] ∧ 8 ≤ u.mixer.standing.length ∧ ∀ y ∈ u.mixer.standing, y.scene ≠ ⟨0, 1⟩) ∧
    (let u : State := { s with
       mixer.scenes := Vector.replicate 32 { gen := 1, record := some scene0 }
       mixer.layers := (List.range 8).map fun k =>
         { scene := ⟨k + 1, 1⟩, sequence := k, f := 0, f0 := 0, target := 256, k0 := 0, length := 0 } }
     u.findScene ⟨0, 1⟩ = some scene0 ∧ 8 ≤ u.mixer.layers.length ∧
       ∀ l ∈ u.mixer.layers, l.scene ≠ ⟨0, 1⟩ ∧ l.target ≠ 0 ∧ scene0.config.priority ≤ u.layerPriority l) ∧
    (s.setSceneSlot 0 { gen := 1, record := some { scene0 with state := .retiring } }).findScene ⟨0, 1⟩
      = some { scene0 with state := .retiring } := by decide +kernel

/-- The second of two actions, come with the first ACTIVE or DONE, of a FIRING and of a SUSPENDED occasion; the first come with the
second; and two that have not come. -/
theorem test_witness_ActionsStartInTheirBlock_places :
    let pair (z : OccasionState) (a b : ContextAction) : State := (withOccasion { firing2 with state := z }).setContext 0
      (some { occasion := ⟨0, 1⟩, due := noon, actions := [a, b] })
    let come : ContextAction := { active0 with kind := .toll 1 3 5 1, phase := .waiting false }
    (∀ z a b, (pair z a b).firstWaiting = none) ∧
    (∀ z ∈ [OccasionState.firing, .suspended], ∀ a ∈ [active0, { active0 with phase := .done }, come],
      (pair z a come).time.power = .mains ∧ (pair z a come).doneContext = none ∧
        (pair z a come).context 0 = some { occasion := ⟨0, 1⟩, due := noon, actions := [a, come] } ∧
        (pair z a come).findOccasion ⟨0, 1⟩ = some { firing2 with state := z } ∧
        (∀ holds, active0.phase ≠ .waiting holds) ∧ come.start ≤ (pair z a come).time.standard) ∧
    (firing2.outcome.length = 2 ∧ (pair .firing active0 come).toll 1 = none) ∧
    (let later : ContextAction := { come with start := noon + 1 }
     (pair .firing later later).doneContext = none ∧
       (pair .firing later later).context 0 = some { occasion := ⟨0, 1⟩, due := noon, actions := [later, later] } ∧
       (pair .firing later later).time.standard < later.start) := by
  refine ⟨fun z a b => ?_, by decide +kernel, by decide +kernel, by decide +kernel⟩
  change ((withOccasion { firing2 with state := z }).setContext 0 _).firstWaiting = none
  exact ((calm_withOccasion { firing2 with state := z } rfl).of_slots (by rw [State.setContext])).noneWaits

/-- A TOLL with channel 0 taken; a SWING of a bell whose motor is PENDING; and a PLAY before a full queue whose loser is of lower
priority. -/
theorem test_witness_ActionsStartInTheirBlock_taken :
    (let s := (waitingAction (.toll 0 3 5 1) false).setToll 0 (some { toll0 with bell := 1 })
     s.doneContext = none ∧ s.toll 0 ≠ none ∧ s.toll 1 = none ∧ ∀ i < 2, ∀ u ∈ s.toll i, u.bell ≠ 0) ∧
    (let s := (waitingAction (.swing 0 5) false).setBell 0 { bell0 with motor := pending0 true }
     s.doneContext = none ∧ s.swingRefusal 0 = none ∧ (s.bell 0).motor = .pending 5 0 true [.command] ∧
       MotorSource.action 0 0 ∉ [MotorSource.command]) ∧
    (let s : State := { waitingAction (.play ⟨0, 1⟩ 0 1 true) true with
      chime.queue := eight, chime.performance := some perf0, chime.lastArrival := 20, chime.lastEntryNumber := 20 }
     s.doneContext = none ∧ s.findTune ⟨0, 1⟩ = some tune0 ∧ 8 ≤ s.chime.queue.length ∧
       loser s.chime.queue = some (entryOf 15 3) ∧ (entryOf 15 3).priority < firing0.config.priority ∧
       (entryOf 15 3).source = .command) := by decide +kernel

theorem test_witness_ActionsStartInTheirBlock_sound : (waitingAction (.sceneDown ⟨0, 1⟩) false).ListsSound :=
  ⟨by decide +kernel, by decide +kernel, by decide +kernel, by decide +kernel, by decide +kernel⟩

/-- Dark for the 10 minutes to confirm, an hour before the table's dusk or at it. -/
def darkening (dusk : Nat) (s : State) : State :=
  { s with calendar.dusk.confirm := 10, calendar.belowSince := some (noon - 600), calendar.tableDusk := ⟨9000, dusk⟩ }
def duskOccasion (due : Nat) : Occasion :=
  { occasion0 with config := { occasion0.config with anchor := .dusk 30 }, due := some ⟨due, 9000⟩ }

theorem Calm.darkening {s : State} (h : Calm s) (x : Nat) : Calm (darkening x s) := h.of_slots rfl

theorem test_witness_DuskIsConfirmedOrFaulted :
    (∀ x ∈ [noon, noon + 3600], let s := darkening x tower
     s.Settled ∧ s.time.power = .mains ∧ s.time.valid = true ∧ s.calendar.dusk.sensorFault = false ∧ s.calendar.confirmed = none ∧
       (∃ b ∈ s.calendar.belowSince, b + s.calendar.dusk.confirm * 60 = s.time.standard) ∧
       s.calendar.tableDusk.instant ≤ s.time.standard + 3600 ∧ s.time.standard ≤ s.calendar.tableDusk.instant) ∧
    (∀ x ∈ [noon - 1, noon + 3601], ¬((darkening x tower).calendar.tableDusk.instant ≤ noon + 3600 ∧
      noon ≤ (darkening x tower).calendar.tableDusk.instant)) ∧
    (∀ j o, (tower.occasionSlot j).record = some o → ∀ n, o.config.anchor ≠ .dusk n) ∧
    (let s := darkening noon (withOccasion (duskOccasion (noon + 1801)))
     s.Settled ∧ (s.occasionSlot 0).record = some (duskOccasion (noon + 1801)) ∧ s.today = 9000 ∧ (0 : Int) < 30 ∧
       (noon : Int) + 30 * 60 < noon + 1801) ∧
    (let s : State := { tower with clock := 22937600, time.lastSecond := some 22937600, calendar.zeroSince := some 100000 }
     s.calendar.dusk.sensorFault = false ∧ s.time.lastSecond = some (s.elapse 0).clock ∧
       ∃ z ∈ s.calendar.zeroSince, z + 600000 = (s.elapse 0).nowMs) ∧
    (tower.calendar.zeroSince = none ∧ tower.calendar.fullSince = none) := by
  refine ⟨fun x hx => ⟨(tower_calm.darkening x).settled (by revert x; decide +kernel), rfl, rfl, rfl, rfl,
      ⟨noon - 600, rfl, by show noon - 600 + 10 * 60 = noon; decide⟩, ?_⟩, by decide +kernel,
    fun j o h => absurd ((tower_empty j).symm.trans h) nofun,
    ⟨((calm_withOccasion _ rfl).darkening _).settled (by decide +kernel), by decide +kernel⟩,
    ⟨by decide +kernel, by decide +kernel, 100000, rfl, by decide +kernel⟩, by decide +kernel⟩
  revert x
  decide +kernel

/-- A dusk that has passed on the table, at the first second after it, and a due that would not lie after last fired. -/
theorem test_witness_DuskIsConfirmedOrFaulted_passed :
    ((darkening (noon - 1) tower).passDusk.calendar.duskPassed = [9000] ∧
      (darkening (noon - 1) tower).passDusk.passDusk.calendar.duskPassed = [9000] ∧
      (darkening noon tower).passDusk.calendar.duskPassed = []) ∧
    9000 ∈ ({ darkening noon tower with calendar.duskPassed := [9000] } : State).calendar.duskPassed ∧
    (let o : Occasion := { duskOccasion (noon + 1801) with lastFired := some (noon + 1800) }
     (darkening noon (withOccasion o)).Settled ∧ ((darkening noon (withOccasion o)).occasionSlot 0).record = some o ∧
       o.movedDue 9000 noon = none ∧ { o with lastFired := some (noon + 1799) }.movedDue 9000 noon = some ⟨noon + 1800, 9000⟩) :=
  ⟨by decide +kernel, by decide +kernel, ((calm_withOccasion _ rfl).darkening _).settled (by decide +kernel), by decide +kernel⟩

/-- An eighth sample, and an offset of 0 whose due is not come. -/
theorem test_witness_DuskIsConfirmedOrFaulted_samples :
    (let s : State := { tower with calendar.dusk.line := some 56, calendar.window := List.replicate 7 0 }
     s.ambientLine = some 56 ∧ (s.calendar.window ++ [0]).length = 8) ∧
    tower.time.lastSecond = some (tower.elapse 0).clock ∧
    (let o : Occasion := { occasion0 with config := { occasion0.config with anchor := .dusk 0 }, due := some ⟨noon + 1, 9000⟩ }
     let s := darkening noon (withOccasion o)
     s.Settled ∧ (s.occasionSlot 0).record = some o ∧ s.today = 9000 ∧ s.time.standard < noon + 1 ∧ o.waiting = false) :=
  ⟨by decide +kernel, by decide +kernel, ((calm_withOccasion _ rfl).darkening _).settled (by decide +kernel), by decide +kernel⟩

/-! ### Floodlights, the feeder and the link -/

theorem test_witness_LampIsOnForExactlyItsLevel : tower.time.power = .mains ∧ (tower.line 8).record.function = .lamp ∧
    (tower.line 8).record.bound = some 0 ∧ (tower.channel 0).config.inService = true ∧ lampOn 4095 (15 * 256 + 255) = true ∧
    lampOn 4095 255 = false ∧ lampOn 0 0 = false := by decide +kernel

/-- The last frame before the count wraps, and the two after it. -/
theorem test_witness_FadesRunFrameByFrame :
    let l : Layer := { scene := ⟨0, 1⟩, sequence := 1, f := 100, f0 := 100, target := 256, k0 := 4294967295, length := 2 }
    l.factor 4294967295 = 100 ∧ l.factor 0 = 178 ∧ l.factor 1 = 256 ∧ { l with target := 0 }.factor 0 = 50 ∧
    mixLevel .top 4095 0 256 = 0 ∧ mixLevel .max 4095 4095 256 = 4095 := by decide

theorem test_witness_LampsDrawAtMostTheBudget : targetScale 6000 6000 = 4096 ∧ targetScale 6001 6000 = 4095 ∧
    nextScale 100 36 = 100 ∧ nextScale 101 36 = 100 ∧ nextScale 99 100 = 99 ∧
    4000 ≤ targetScale (([(2000, 4095, 0), (1500, 2048, 5)].map fun x : Nat × Nat × Nat => channelTerm x.1 x.2.1).sum) 2751 := by decide

/-- A computed frame that waits to begin, a motor that awaits it and one that does not yet. -/
def framed : State :=
  { withBell { bell0 with motor := pending0 true } with
    mixer.computed := some (Vector.replicate 24 { mixed := 9, capped := 9, delivered := 9 })
    feeder.admitted := [{ bell := 0, rating := 2000, awaiting := some 0, permitted := false }]
    feeder.record := some { frame := 0, capacity := 5000, load := 2000, demand := 0, budget := 3000, target := 4096, scale := 4000 } }

theorem test_witness_FrameBoundaryDeliversAndComputes : dark.time.power = .reserve ∧
    ({ tower with mixer.frameMark := 6400 } : State).mixer.frameMark = (tower.elapse 0).clock / 512 ∧
    (framed.time.power = .mains ∧ framed.mixer.frameMark < (framed.elapse 0).clock / 512 ∧ framed.mixer.computed.isSome = true ∧
      framed.feeder.shed = false ∧ (∃ c ∈ framed.feeder.record, c.frame = framed.mixer.nextFrame)) ∧
    (∃ r ∈ framed.feeder.admitted, r.awaiting = some framed.mixer.nextFrame ∧ r.permitted = false ∧
      (framed.bell r.bell).motor = .pending 5 0 true [.command]) ∧
    ({ framed with mixer.nextFrame := 4294967295 } : State).mixer.nextFrame + 1 = 4294967296 := by
  refine ⟨by decide +kernel, by decide +kernel, ⟨by decide +kernel, by decide +kernel, by decide +kernel, by decide +kernel,
    ⟨_, rfl, by decide +kernel⟩⟩, ⟨_, List.mem_singleton_self _, by decide +kernel⟩, by decide +kernel⟩

/-- The motor that is energised has an occasion's action for its source. -/
theorem test_witness_FrameBoundaryDeliversAndComputes_started :
    let s : State := { framed with calendar := (activeAs (.bell 0)).calendar }.setBell 0
      { bell0 with motor := .pending 5 0 true [.action 0 0] }
    (s.bell 0).motor = .pending 5 0 true [.action 0 0] ∧ (s.context 0).map (·.occasion) = some ⟨0, 1⟩ ∧
      s.findOccasion ⟨0, 1⟩ = some firing0 ∧ 0 < firing0.outcome.length ∧
      s.feeder.admitted.map (·.awaiting) = [some s.mixer.nextFrame] := by decide +kernel

/-- A layer faded out of a RETIRING scene. -/
theorem test_witness_FrameBoundaryDeliversAndComputes_faded :
    let s : State := { tower.setSceneSlot 0 { gen := 1, record := some { scene0 with state := .retiring } } with
      mixer.layers := [{ scene := ⟨0, 1⟩, sequence := 1, f := 4, f0 := 256, target := 0, k0 := 4294967234, length := 63 }] }
    s.ListsSound ∧ s.findScene ⟨0, 1⟩ = some { scene0 with state := .retiring } ∧
      (∀ l ∈ s.mixer.layers, l.target = 0 ∧ l.factor 1 = 0 ∧ l.factor 0 = 5) :=
  ⟨⟨by decide +kernel, by decide +kernel, by decide +kernel, by decide +kernel, by decide +kernel⟩, by decide +kernel,
    by decide +kernel⟩

def layer0 (slot target : Nat) : Layer :=
  { scene := ⟨slot, 1⟩, sequence := slot, f := 100, f0 := 0, target := target, k0 := 0, length := 64 }
def layered (l : List Layer) : State := { tower with mixer.layers := l }
def lit (l : List StandingEntry) : State := { tower with mixer.standing := l }
/-- Eight layers of other scenes, none of which gives way to a scene of priority 0. -/
def stacked : State :=
  { layered ((List.range 8).map fun k => layer0 (k + 1) 256) with
    mixer.scenes := Vector.ofFn fun (i : Fin 32) =>
      { gen := 1, record := some { scene0 with config := { scene0.config with priority := if i.val = 0 then 3 else 4 } } } }

theorem test_witness_ScenesAreRaisedAndLowered : tower.HostReady ∧
    (sceneConfigOk scene0.config = true ∧ sceneConfigOk { scene0.config with fadeIn := 2401 } = false ∧
      (tower.sceneSlot 1).record = none ∧ (∀ j < 1, (tower.sceneSlot j).record ≠ none)) ∧
    (stacked.HostReady ∧ ∀ j < 32, (stacked.sceneSlot j).record ≠ none) ∧
    (tower.findScene ⟨0, 1⟩ = some scene0 ∧ scene0.state = .live ∧ tower.mixer.layers = [] ∧ tower.mixer.standing = []) ∧
    ((tower.setSceneSlot 0 { gen := 1, record := some { scene0 with state := .retiring } }).findScene ⟨0, 1⟩
      = some { scene0 with state := .retiring }) ∧
    (let s := layered ((List.range 7).map fun k => layer0 (k + 1) 256)
     s.HostReady ∧ s.mixer.layers.length < 8 ∧ ∀ l ∈ s.mixer.layers, l.scene ≠ ⟨0, 1⟩) ∧
    (∀ target ∈ [256, 0], (layered [layer0 0 target]).HostReady ∧
      (layered [layer0 0 target]).mixer.layers.find? (fun y => y.scene = ⟨0, 1⟩) = some (layer0 0 target)) ∧
    (8 ≤ stacked.mixer.layers.length ∧ (∀ x ∈ stacked.findScene ⟨0, 1⟩, ∀ l ∈ stacked.mixer.layers, l.scene ≠ ⟨0, 1⟩ ∧ l.target ≠ 0 ∧
      x.config.priority ≤ stacked.layerPriority l) ∧ (stacked.findScene ⟨0, 1⟩).isSome = true) ∧
    (let s := lit [{ scene := ⟨0, 1⟩, endAt := noon, creator := .command }]
     s.HostReady ∧ s.mixer.layers = [] ∧ s.mixer.standing.find? (fun y => y.endAt ≤ s.time.standard)
       = some { scene := ⟨0, 1⟩, endAt := noon, creator := .command }) ∧
    (∀ y ∈ (lit [{ scene := ⟨0, 1⟩, endAt := noon + 1, creator := .command }]).mixer.standing, noon < y.endAt) := by
  refine ⟨tower_ready, by decide +kernel, ⟨ready (by decide +kernel), by decide +kernel⟩, by decide +kernel, by decide +kernel,
    ⟨ready (by decide +kernel), by decide +kernel⟩, ?_, by decide +kernel, ⟨ready (by decide +kernel), by decide +kernel⟩,
    by decide +kernel⟩
  intro target ht
  refine ⟨ready ?_, ?_⟩ <;> revert target <;> decide +kernel

theorem stacked_sound : stacked.ListsSound :=
  ⟨by decide +kernel, by decide +kernel, by decide +kernel, by decide +kernel, by decide +kernel⟩

/-- A layer that gives way fading, one that gives way by its priority, a standing scene raised again, and ends of entries. -/
theorem test_witness_ScenesAreRaisedAndLowered_waysOut :
    (let s : State := { stacked with mixer.layers := layer0 1 0 :: (stacked.mixer.layers.drop 1) }
     s.HostReady ∧ s.ListsSound ∧ s.findScene ⟨0, 1⟩ = some scene0 ∧ s.mixer.layers.length = 8 ∧
       (∀ l ∈ s.mixer.layers, l.scene ≠ ⟨0, 1⟩) ∧ s.mixer.layers = [] ++ layer0 1 0 :: stacked.mixer.layers.drop 1 ∧
       ∀ y ∈ stacked.mixer.layers.drop 1, y.target ≠ 0) ∧
    (let x : Scene := { scene0 with config := { scene0.config with priority := 5 } }
     let s : State := stacked.setSceneSlot 0 { gen := 1, record := some x }
     s.HostReady ∧ s.findScene ⟨0, 1⟩ = some x ∧ (∀ y ∈ s.mixer.layers, y.target ≠ 0 ∧
       s.layerPriority (layer0 8 256) ≤ s.layerPriority y ∧ (y ≠ layer0 8 256 → y.sequence < (layer0 8 256).sequence)) ∧
       layer0 8 256 ∈ s.mixer.layers ∧ s.layerPriority (layer0 8 256) < x.config.priority) ∧
    (∀ k ∈ [0, 7, 8], let s : State := { layered [layer0 0 256] with
        mixer.standing := (List.range k).map fun n => { scene := ⟨n + 1, 1⟩, endAt := noon, creator := .command } }
      s.HostReady ∧ s.mixer.standing.length = k ∧ (∀ y ∈ s.mixer.standing, y.scene ≠ ⟨0, 1⟩)) ∧
    (∀ target ∈ [0, 256], let y : StandingEntry := { scene := ⟨0, 1⟩, endAt := noon, creator := .command }
      let s : State := { layered [layer0 0 target] with mixer.standing := [y] }
      s.mixer.standing.find? (fun y => y.endAt ≤ s.time.standard) = some y ∧ s.findScene y.scene = some scene0 ∧
        s.mixer.layers.find? (fun z => z.scene = y.scene) = some (layer0 0 target)) := by
  refine ⟨⟨ready (by decide +kernel), ⟨by decide +kernel, by decide +kernel, by decide +kernel, by decide +kernel,
      by decide +kernel⟩, by decide +kernel⟩, ⟨ready (by decide +kernel), by decide +kernel⟩, ?_, by decide +kernel⟩
  intro k hk
  refine ⟨ready ?_, ?_⟩ <;> revert k <;> decide +kernel

/-- A raise into a stack in order, and a standing scene that the full stack refuses. -/
theorem test_witness_ScenesAreRaisedAndLowered_order :
    (let s : State := { stacked with mixer.layers := stacked.mixer.layers.drop 1, mixer.raiseSequence := 8 }
     s.mixer.layers.length < 8 ∧ (∀ l ∈ s.mixer.layers, l.scene ≠ ⟨0, 1⟩ ∧ l.sequence ≤ s.mixer.raiseSequence) ∧
       s.mixer.layers.Pairwise (fun a b => s.layerPriority a < s.layerPriority b ∨
         (s.layerPriority a = s.layerPriority b ∧ a.sequence < b.sequence)) ∧
       nextIs (exec (.raiseScene 0 ⟨0, 1⟩ none) s) (fun t => t.mixer.layers.map (·.sequence) == [9, 2, 3, 4, 5, 6, 7, 8]) = true) ∧
    (let y : StandingEntry := { scene := ⟨0, 1⟩, endAt := noon + 1, creator := .command }
     let s : State := { stacked with mixer.standing := [y] }
     s.findScene y.scene = some scene0 ∧ scene0.state = .live ∧ 8 ≤ s.mixer.layers.length ∧
       (∀ l ∈ s.mixer.layers, l.scene ≠ y.scene ∧ l.target ≠ 0 ∧ scene0.config.priority ≤ s.layerPriority l) ∧
       (s.reRaiseStanding [y]).mixer.standing = []) := by decide +kernel

/-- A scene retired, either way, and lowered with a standing entry, without a layer and with one that fades in or out. -/
theorem test_witness_ScenesAreRaisedAndLowered_standing : ∀ l ∈ [[], [layer0 0 256], [layer0 0 0]],
    let y : StandingEntry := { scene := ⟨0, 1⟩, endAt := noon + 1, creator := .command }
    let s : State := { layered l with mixer.standing := [y] }
    s.HostReady ∧ s.findScene ⟨0, 1⟩ = some scene0 ∧ scene0.state = .live ∧ s.mixer.layers = l ∧
      s.mixer.layers.find? (fun z => z.scene = ⟨0, 1⟩) = l.head? ∧ y ∈ s.mixer.standing ∧
      nextIs (exec (.retireScene 0 ⟨0, 1⟩ .abrupt) s) (fun t => t.mixer.standing == [] && t.memory.writes.length == 2) = true := by
  intro l hl
  refine ⟨ready ?_, ?_⟩ <;> revert l <;> decide +kernel

def bound0 : LineRecord := { function := .lamp, bound := some 1, activeHigh := true, filter := 15 }
def open0 : LinkFrame := { openAtBegin := true, response := none }
def routing (p : RequestPhase) : State := { tower with link.inProgress := some { task := .request .readConditions, phase := p, taken := 0, seen := .nothing } }

theorem test_witness_FramesBringRequests : (tower.time.power = .mains ∧ tower.link.frame = none ∧ tower.linkOpen = true) ∧
    busyWriting.linkOpen = false ∧ holding.linkOpen = false ∧ dark.time.power = .reserve ∧
    ((framing open0).link.frame = some open0 ∧ (framing { open0 with openAtBegin := false }).link.frame ≠ none) ∧
    (decodeFrame [0] = .nothing ∧ decodeFrame [23, 1, 0, 0, 0, 0] = .badFrame ∧ decodeFrame [8, 7, 1, 2, 0, 0] = .taken (.refused .wrongState 0 0) ∧
      decodeFrame [14, 16, 3, 0, 0, 0] = .taken (.refused .badField 0 0) ∧ decodeFrame [20, 14, 0, 0, 0, 0] = .taken (.request .readConditions)) ∧
    ({ busyWriting with link.sel := true, link.frame := some open0 } : State).memory.writes ≠ [] ∧ (framing open0).memory.writes = [] ∧
    (routing .ready).link.inProgress = some { task := .request .readConditions, phase := .ready, taken := 0, seen := .nothing } ∧
    (routing .awaitingWrite).link.inProgress ≠ some { task := .request .readConditions, phase := .ready, taken := 0, seen := .nothing } := by decide +kernel

/-- R180: the response goes out before zeros; R181: the bytes judged, whole. -/
theorem test_witness_FramesBringRequests_bytes :
    (let f : LinkFrame := { openAtBegin := false, response := some (reply .noRecord 7 1 [9]) }
     (List.range 8).map f.byteOut = [3, 2, 7, 1, 0, 1, 9, 0]) ∧
    ((List.range 3).map open0.byteOut = [0, 1, 0]) ∧ (framing open0).sdo 15 = some true ∧ tower.sdo 0 = none ∧
    shiftedBytes (bitsOfBytes [20, 14] ++ [true]) = [20, 14] ∧
    decodeFrame [13, 5, 0, 1, 0, 0] = .taken (.refused .badField 0 1) ∧
    decodeFrame [5, 5, 3, 1, 0, 1, 9] = .taken (.badSteps ⟨3, 1⟩) ∧ decodeFrame [3, 13, 0, 0, 0, 0] = .taken (.refused .wrongState 0 0) ∧
    decodeFrame [15, 4, 9, 1, 0, 0] = .taken (.refused .badField 9 0) := by decide +kernel

/-- R72, R170: a READ STATE of a bell and a feeder AMEND that waited for a write, with the stroke state and the load at their taking; and
fields that fit the bytes of a request. -/
theorem test_witness_FramesBringRequests_routed :
    (let s : State := { tower with
        link.inProgress := some { task := .request (.readStateBell 0), phase := .ready, taken := 0, seen := .stroke .idle } }
     s.time.power = .mains ∧ nextIs (exec (.requestRouted 0) s) (fun t => t.link.waiting.isSome && t.link.inProgress.isNone) = true) ∧
    (∀ m ∈ [3000, 3001], let s : State := { tower with
        link.inProgress := some { task := .request (.amendFeeder 3000), phase := .ready, taken := 0, seen := .load m } }
      nextIs (exec (.requestRouted 0) s) (fun t => (t.memory.writes.length == 1) == (m == 3000)) = true) ∧
    occasion0.config.fits = true ∧ scene0.config.fits = true ∧ bell0.config.fits = true ∧ ClockConfig.blank.fits = true ∧
    TimeSettings.blank.fits = true ∧ dialAmend0.fits = true ∧ bound0.fits = true ∧ (tower.channel 0).config.fits = true ∧
    dateTimeFits ⟨⟨2199, 12, 31⟩, 23, 59, 59⟩ = true ∧ labelFits (List.replicate 16 65#8) = true ∧
    (List.replicate 16 65#8).getLast? ≠ some 0#8 ∧ ([Step.note [4] 2 50, .rest 7] : List Step).all Step.fits = true := by
  decide +kernel

/-- Requests refused: a command without that class, a payload cut short, and codes not defined for their fields. -/
theorem test_witness_FramesBringRequests_refused :
    (∀ x ∈ [(19, 1), (1, 15), (7, 15), (0, 1), (23, 5), (9, 5)], decodeRequest x.1 x.2 0 0 (List.replicate 90 0) = none) ∧
    (∀ p : List Byte, p ∈ [[2, 0], [1, 5], [0, 4]] → decodeRequest 2 5 0 0 p = none) ∧
    (∀ p : List Byte, p ∈ [[2, 0, 0], [1, 1]] → decodeRequest 17 12 0 1 p = none) ∧
    decodeRequest 8 8 0 1 [2] = none ∧ decodeRequest 13 5 0 1 [0, 1, 2, 2] = none ∧ decodeRequest 7 3 0 0 [13, 0, 0, 5] = none ∧
    decodeRequest 11 17 0 0 [2, 7, 208, 1, 1, 0, 0, 0] = none ∧
    (∀ p : List Byte, p ∈ [[0, 0, 0, 1, 255, 255, 255, 255], [4, 0, 0, 1, 0, 0, 0, 0], [1, 0, 0, 1, 4, 255, 7, 255], [2, 0, 0, 1, 0, 0, 0]] →
      decodeRequest 5 5 0 1 p = none) ∧
    (∀ k ∈ [(16, 5), (30, 2), (36, 5), (37, 7)], decodeRequest 3 8 0 0 ((occasionConfigBytes occasion0.config).set k.1 (BitVec.ofNat 8 k.2))
      = none) ∧ decodeRequest 3 8 0 0 ((occasionConfigBytes occasion0.config).take 76) = none ∧
    decodeRequest 7 10 0 0 [1, 0] = none ∧ decodeRequest 7 6 0 0 [1, 1] = none ∧
    decodeRequest 21 14 0 0 [0xF0, 1] = some (.acknowledge 1#12) := by decide +kernel

theorem test_witness_ConditionsAreReportedAndAcknowledged : tower.HostReady ∧ ({ tower with link.flags := 0x400#12, link.enables := 0x3FF#12 } : State).attn = false ∧
    ({ tower with link.flags := 0x800#12, link.enables := 0x800#12 } : State).attn = true := ⟨tower_ready, by decide +kernel⟩

/-- Six bells with a MOTOR line. -/
def sixMotors : State := (List.range 5).foldl (fun s k => s.setLine (k + 20) (lineOf .motor (some (k + 1)))) tower

theorem test_witness_AmendsAskForOneWrite : tower.HostReady ∧ sixMotors.HostReady ∧
    (summerRuleOk TimeSettings.blank.rule = true ∧ summerRuleOk { TimeSettings.blank.rule with startMonth := 13 } = false) ∧
    (tower.lineRecordOk 63 bound0 = true ∧ tower.lineRecordOk 63 { bound0 with filter := 16 } = false ∧
      tower.boundInService (tower.line 63).record = false ∧ tower.boundInService bound0 = false ∧
      tower.boundInService (tower.line 8).record = true ∧ tower.motorFull 63 bound0 = false ∧
      sixMotors.lineRecordOk 63 { bound0 with function := .motor, bound := some 30 } = true ∧
      sixMotors.motorFull 63 { bound0 with function := .motor, bound := some 30 } = true) ∧
    (tower.bellAmendOk 0 bell0.config = true ∧ tower.bellAmendOk 0 { bell0.config with settle := 601 } = false ∧
      (tower.bell 0).motor = .off ∧ ((withBell { bell0 with motor := pending0 true }).bell 0).motor ≠ .off ∧
      bell0.config.motorRating ≠ ({ bell0.config with motorRating := 7500 } : BellConfig).motorRating) ∧
    (mapPairsOk [(31, some 39)] = true ∧ mapPairsOk [(32, none)] = false) ∧
    (clockConfigOk ClockConfig.blank = true ∧ clockConfigOk { ClockConfig.blank with hourBell := 40 } = false) ∧
    (duskSettingsOk (some 56) 1023 30 = true ∧ duskSettingsOk (some 55) 1023 30 = false) ∧
    (duskPairsOk [(52, 1439)] = true ∧ duskPairsOk [(53, 0)] = false) ∧
    (tower.channelAmendOk 0 (tower.channel 0).config = true ∧ tower.channelAmendOk 1 { Channel.blank.config with inService := true } = false) ∧
    (tower.findScene ⟨0, 1⟩ = some scene0 ∧ scene0.state = .live ∧ sceneConfigOk scene0.config = true ∧
      sceneConfigOk { scene0.config with priority := 8 } = false ∧ tower.findScene ⟨1, 1⟩ = none ∧
      (tower.setSceneSlot 0 ⟨1, some { scene0 with state := .retiring }⟩).findScene ⟨0, 1⟩ = some { scene0 with state := .retiring }) ∧
    ((loaded 1000 tower).HostReady ∧ (loaded 1000 tower).feeder.load = 4000) := by
  refine ⟨tower_ready, ready (by decide +kernel), by decide +kernel, by decide +kernel, by decide +kernel, by decide +kernel,
    by decide +kernel, by decide +kernel, by decide +kernel, by decide +kernel, by decide +kernel, ready (by decide +kernel),
    by decide +kernel⟩

def writing0 (w : WriteEffect) (r : Option Response) : State := { tower with memory.writes := [{ effect := w, response := r }] }

theorem test_witness_WriteEndBringsTheChange : tower.memory.writes = [] ∧ busyWriting.link.inProgress = none ∧
    (let s := { busyWriting with link.inProgress := some { task := .request .readConditions, phase := .awaitingWrite, taken := 0, seen := .nothing } }
     s.memory.writes = [{ effect := .stored (.tune 0), response := none }]) ∧
    (∀ w ∈ [WriteEffect.stored (.tune 0), .chimeMap [(0, none)], .clockProgram clock0, .conditions 1#12, .feeder 6000,
        .channel 0 (tower.channel 0).config, .dial 0 { dialAmend0 with service := false }, .bell 0 bell0.config],
      (writing0 w (some (reply .done 0 0))).memory.writes = [{ effect := w, response := some (reply .done 0 0) }] ∧
        (writing0 w (some (reply .done 0 0))).time.power = .mains ∧ (writing0 w (some (reply .done 0 0))).feeder.asks = []) ∧
    (untimed (writing0 (.timeSettings TimeSettings.blank) (some (reply .done 0 0)))).time.valid = false ∧
    (tower.channel 0).config.inService = true ∧ (writing0 (.bell 0 bell0.config) (some (reply .done 0 0))).Settled ∧
    (bell0.config.inService = true ∧ bell0.config.motorInService = true ∧ bell0.swing ≠ .locked ∧
      State.lockHeld (tower.setBell 0 { bell0 with config := bell0.config }) 0 = false) := by
  refine ⟨by decide +kernel, by decide +kernel, by decide +kernel, ?_, by decide +kernel, by decide +kernel, settled_of_tower rfl,
    by decide +kernel⟩
  intro w hw
  exact ⟨rfl, rfl, rfl⟩

/-- Fields that bring each of the effects a write's end can have: a rule that moves local time and one that does not, a line that
is the ambient line or not, a bell entering or leaving service, a scene with a layer, a dusk table with one DUSK due. -/
theorem test_witness_WriteEndBringsTheChange_effects :
    (let x : SummerRule := { exampleRule with startMonth := 7, endMonth := 9, endTime := ⟨3, 0⟩ }
     (writing0 (.timeSettings { tower.time.settings with rule := x }) (some (reply .done 0 0))).time.valid = true ∧
       x ≠ tower.time.settings.rule ∧ summerAt x noon = true ∧ summerAt tower.time.settings.rule noon = false ∧
       ({ x with enabled := false } : SummerRule) ≠ tower.time.settings.rule) ∧
    (({ dialAmend0 with service := true } : DialAmend).service = true ∧ (tower.dial 0).service = true ∧ (tower.dial 1).service = false) ∧
    (let s := writing0 (.line 9 Line.blank.record) (some (reply .done 0 0))
     s.Settled ∧ ∀ b < 40, ((s.bell b).swing = .locked ↔ State.lockHeld (s.setLine 9 Line.blank) b = true)) ∧
    ({ tower with calendar.dusk.line := some 56 } : State).ambientLine = some 56 ∧
    (bell0.config.hammerInService ≠ Bell.blank.config.hammerInService ∧ Bell.blank.config.inService = false ∧
      ((withBell { bell0 with motor := running0 200000 true }).bell 0).motor = .running 80000 200000 true [.command]) ∧
    ((layered [layer0 0 256, layer0 3 256]).findScene ⟨0, 1⟩ = some scene0 ∧
      (layered [layer0 0 256, layer0 3 256]).mixer.layers.find? (fun l => l.scene = ⟨0, 1⟩) = some (layer0 0 256)) ∧
    ((withOccasion (duskOccasion (noon + 1801))).occasionSlot 0).record = some (duskOccasion (noon + 1801)) ∧
    (∀ p ∈ [PowerState.mains, .reserve], let s : State := { withBell { bell0 with config.hammerInService := false } with
        memory.writes := [{ effect := .hammerFault 0 .stuck, response := some (reply .done 0 0) }], time.power := p }
      (s.bell 0).config.hammerInService = false ∧ s.time.power = p) ∧
    (tower.bell 0).config.motorInService = true := by
  refine ⟨by decide +kernel, by decide +kernel, ⟨settled_of_tower rfl, ?_⟩, by decide +kernel, by decide +kernel, by decide +kernel,
    by decide +kernel, by decide +kernel, by decide +kernel⟩
  decide +kernel

/-- Writes without a response: a sensor fault's, a second fault's of a hammer and a motor already out of service, and one that a RESTART
left, a request waiting for it or not. -/
theorem test_witness_WriteEndBringsTheChange_unanswered :
    (∀ w ∈ [WriteEffect.sensorFault, .hammerFault 1 .stuck, .motorFault 1, .clockProgram clock0, .timeSettings tower.time.settings],
      (writing0 w none).memory.writes = [{ effect := w, response := none }] ∧ (writing0 w none).time.power = .mains ∧
        (writing0 w none).Settled ∧ (writing0 w none).link.inProgress = none) ∧
    ((tower.bell 1).config.hammerInService = false ∧ (tower.bell 1).config.motorInService = false) ∧
    (let s : State := { writing0 .sensorFault none with
       link.inProgress := some { task := .request .readConditions, phase := .awaitingWrite, taken := 0, seen := .nothing } }
     nextIs (exec (.recordMemoryWriteEnd 0) s) (fun t => t.calendar.dusk.sensorFault &&
       t.link.inProgress.any (fun q => q.phase == .ready)) = true) :=
  ⟨fun _ _ => ⟨rfl, rfl, settled_of_tower rfl, rfl⟩, by decide +kernel, by decide +kernel⟩

theorem test_witness_ReadingChangesNothing : tower.HostReady ∧
    ((tower.tuneSlot 0).record = some tune0 ∧ (∀ j < 64, 0 < j → (tower.tuneSlot j).record = none)) ∧
    (withOccasion occasion0).HostReady ∧ (withOccasion occasion0).findOccasion ⟨0, 1⟩ = some occasion0 ∧
    (tower.findTune ⟨0, 1⟩ = some tune0 ∧ tower.findScene ⟨0, 1⟩ = some scene0) :=
  ⟨tower_ready, by decide +kernel, ready (by decide +kernel), by decide +kernel, by decide +kernel⟩

end Sys2Proof.Tests
end

section
/-! What a command can do, said once: it is refused, or `dt` counts pass and one of the acts of `CommandAct` follows. -/

namespace Sys2Proof.Machine

/-- The acts of the commands, the passage of time apart: a host request, something a block does quietly while the power state is
MAINS, or one of the acts that change the Time Base, the resets, the gate, a pin, a frame or record memory. -/
inductive CommandAct : (State → State) → Prop
  | request (r : Request) : CommandAct fun s => s.hostRequest r
  | running (act : State → State) (quiet : ∀ s, Quiet false s (act s)) : CommandAct fun s => s.whenMains act
  | dialAmendResumed : CommandAct fun s => s.whenMains State.resumeAmendDial
  | requestRouted : CommandAct fun s => s.whenMains State.routeRequest
  | timeSetAtEdge : CommandAct fun s => s.whenMains State.setTimeAtEdge
  | timeSetAtTimeout : CommandAct fun s => s.whenMains State.setTimeAtTimeout
  | secondEnded : CommandAct State.endSecond
  | markAligned : CommandAct State.alignToMark
  | mainsLost : CommandAct State.loseMains
  | qualificationBegun : CommandAct State.beginQualification
  | qualificationCancelled : CommandAct State.cancelQualification
  | qualificationCompleted : CommandAct State.completeQualification
  | poweredUpCold : CommandAct State.powerUpCold
  | pinChanged (line : Nat) (high : Bool) (reading : Nat) : CommandAct fun s => s.changePin line high reading
  | filterExpired (line : Nat) : CommandAct fun s => if s.filterReady line then s.takeEdge line else s
  | rstnAsserted : CommandAct State.assertRstn
  | rstnReleased : CommandAct State.releaseRstn
  | restartTaken : CommandAct State.restartIfOpen
  | frameBegun : CommandAct State.beginFrame
  | frameEnded (bits : List Bool) : CommandAct fun s => s.endFrame bits
  | writeEnded : CommandAct State.endWrite
  | boundaryPassed : CommandAct State.passBoundary

/-- `t` is what one act of a command makes of `s` when some counts have passed. -/
def Acted (s t : State) : Prop := ∃ dt act, CommandAct act ∧ t = act (s.elapse dt)

theorem Acted.of_happen {s t : State} {dt : Nat} {act : State → State} (k : CommandAct act)
    (h : happen dt act s = .next t) : Acted s t :=
  ⟨dt, act, k, (Host.Outcome.next.inj h).symm⟩

theorem Acted.of_happenAt {s t : State} {dt i bound : Nat} {act : State → State} (k : CommandAct act)
    (h : happenAt dt i bound act s = .next t) : Acted s t := by
  unfold happenAt at h
  split at h
  · exact ⟨dt, act, k, (Host.Outcome.next.inj h).symm⟩
  · cases h

open Acted in
/-- Every command that completes lets its counts pass and acts as one of `CommandAct`. -/
theorem exec_next {c : Instr} {s t : State} (h : exec c s = .next t) : Acted s t := by
  cases c with
  | secondEnd => exact of_happen .secondEnded h
  | smarkEdge => exact of_happen .markAligned h
  | setTimeAtMarkEdge => exact of_happen .timeSetAtEdge h
  | setTimeMarkTimeout => exact of_happen .timeSetAtTimeout h
  | reserveEntry => exact of_happen .mainsLost h
  | msenseQualificationStart => exact of_happen .qualificationBegun h
  | msenseQualificationCancel => exact of_happen .qualificationCancelled h
  | msenseQualificationExpiry => exact of_happen .qualificationCompleted h
  | countingDomainPowerUp => exact of_happen .poweredUpCold h
  | pinLevelChange => exact of_happenAt (.pinChanged ..) h
  | inputFilterExpiry => exact of_happenAt (.filterExpired _) h
  | quietTimerExpiry => exact of_happenAt (.running _ fun s => (s.expireQuiet_quiet _).trans (State.settleContexts_quiet _)) h
  | settleTimeExpiry => exact of_happenAt (.running _ fun s => s.settleBell_quiet _) h
  | restRuleExpiry => exact of_happenAt (.running _ fun s => s.tryImpulse_quiet _) h
  | impulseEnd => exact of_happenAt (.running _ fun s => s.endImpulse_quiet _) h
  | noCurrent => exact of_happenAt (.running _ fun s => s.missCurrent_quiet _) h
  | deferredReconciliation => exact of_happenAt (.running _ fun s => s.settleOwed_quiet _) h
  | deferredDialAmend => exact of_happen .dialAmendResumed h
  | deferredSetDial => exact of_happen (.running _ fun s => s.resumeSetDial_quiet) h
  | pendingTimeout =>
    exact of_happenAt (.running _ fun s => (s.timeOutPending_quiet _).trans (State.settleContexts_quiet _)) h
  | runEnd => exact of_happenAt (.running _ fun s => (s.reachRunEnd_quiet _).trans (State.settleContexts_quiet _)) h
  | stallWatchExpiry =>
    exact of_happenAt (.running _ fun s => (s.watchStall_quiet _).trans (State.settleContexts_quiet _)) h
  | raiseMoment => exact of_happenAt (.running _ fun s => s.reachRaise_loose _) h
  | pulseEnd => exact of_happenAt (.running _ fun s => s.endPulse_quiet _) h
  | noAnswer => exact of_happenAt (.running _ fun s => s.missAnswer_quiet _) h
  | stuck => exact of_happenAt (.running _ fun s => s.stickHammer_quiet _) h
  | recoveryEnd => exact of_happenAt (.running _ fun s => s.endRecovery_quiet _) h
  | rstnAsserted => exact of_happen .rstnAsserted h
  | rstnReleased => exact of_happen .rstnReleased h
  | restartReset => exact of_happen .restartTaken h
  | stepBoundary => exact of_happen (.running _ fun s => s.reachBoundary_quiet) h
  | blowRequestMoment => exact of_happen (.running _ fun s => s.requestBlow_loose) h
  | endMoment => exact of_happen (.running _ fun s => s.reachEnd_quiet.trans (State.settleContexts_quiet _)) h
  | tollTakeUp => exact of_happenAt (.running _ fun s => s.takeUpToll_quiet _) h
  | tollRequestMoment => exact of_happenAt (.running _ fun s => s.requestToll_loose _) h
  | tollEnd => exact of_happenAt (.running _ fun s => (s.reachTollEnd_quiet _).trans (State.settleContexts_quiet _)) h
  | dueReached => exact of_happen (.running _ fun s => s.reachFirst_quiet.trans (State.settleContexts_quiet _)) h
  | graceExpiry => exact of_happen (.running _ fun s => s.expireGrace_quiet.trans (State.settleContexts_quiet _)) h
  | actionStart =>
    exact of_happenAt (.running _ fun s => (s.startFirstDue_quiet _).trans (State.settleContexts_quiet _)) h
  | duskConfirmed =>
    exact of_happen (.running _ fun s => .ite (fun _ => s.confirmDusk_quiet.trans (State.settleContexts_quiet _))
      fun _ => .refl _ s) h
  | sensorFault => exact of_happen (.running _ fun s => .ite (fun _ => s.faultSensor_quiet) fun _ => .refl _ s) h
  | frameBoundary => exact of_happen .boundaryPassed h
  | standingEntryEnd => exact of_happen (.running _ fun s => s.endFirstStanding_quiet) h
  | frameBegin => exact of_happen .frameBegun h
  | frameEnd => exact of_happen (.frameEnded _) h
  | requestRouted => exact of_happen .requestRouted h
  | recordMemoryWriteEnd => exact of_happen .writeEnded h
  | _ => exact of_happen (.request _) h

/-- A step that completes idles, or is one act of a command. -/
theorem step_next {s t : State} (h : step s = .next t) : t = s ∨ ∃ rest, Acted { s with pending := rest } t := by
  unfold step at h
  split at h
  · exact .inl (Host.Outcome.next.inj h).symm
  · exact .inr ⟨_, exec_next h⟩

end Sys2Proof.Machine
end

section
/-! The Time Base keeps to its ranges and summer follows the rule (R1 to R4, R7), over every act. -/

namespace Sys2Proof.Machine

variable {r : Bool} {s t : State}

/-! ## The Time Base alone -/

/-- What `State.TimeSound` asks of the Time Base itself. -/
structure TimeBase.Sound (x : TimeBase) : Prop where
  prescaler : x.prescaler ≤ x.secondLength
  lengthLow : 32513 ≤ x.secondLength
  lengthHigh : x.secondLength ≤ 33023
  trimCycle : x.trimCycle < 32
  standard : x.standard < Config.rangeEnd
  summer : x.summer = summerAt x.settings.rule x.standard
  trim : -255 ≤ x.settings.trim ∧ x.settings.trim ≤ 255
  trimInUse : -255 ≤ x.trimInUse ∧ x.trimInUse ≤ 255
  alignment : ∀ a, x.lastAlignment = some a → -8192 ≤ a ∧ a ≤ 8192
  waiting : ∀ w, x.setTimeWait = some w → w.instant < Config.rangeEnd

/-- R2: every AMEND of the time settings that waits to be written has a clamped trim. -/
def State.TrimsClamped (s : State) : Prop :=
  ∀ w ∈ s.memory.writes, ∀ x, w.effect = .timeSettings x → -255 ≤ x.trim ∧ x.trim ≤ 255

theorem State.timeSound_iff : s.TimeSound ↔ s.time.Sound ∧ s.TrimsClamped :=
  ⟨fun h => ⟨{ h with }, h.amends⟩, fun h => { h.1 with amends := h.2 }⟩

theorem lengthOf_range (cycle : Nat) {trim : Int} (h : -255 ≤ trim ∧ trim ≤ 255) :
    32513 ≤ lengthOf cycle trim ∧ lengthOf cycle trim ≤ 33023 := by
  unfold lengthOf
  split <;> simp only [Config.countsPerSecond] <;> omega

namespace TimeBase.Sound

variable {x : TimeBase}

theorem restarted (h : x.Sound) (p : Nat) (hp : p ≤ 8192) :
    { x with prescaler := 0, lastAlignment := some (p : Int) : TimeBase }.Sound :=
  { h with
    prescaler := Nat.zero_le _
    alignment := fun a ha => by cases ha; omega }

theorem beginSecond (h : x.Sound) {cycle : Nat} (hc : cycle < 32) : (x.beginSecond cycle).Sound :=
  { h with
    prescaler := Nat.zero_le _
    lengthLow := (lengthOf_range _ h.trim).1
    lengthHigh := (lengthOf_range _ h.trim).2
    trimCycle := hc
    trimInUse := by
      unfold TimeBase.beginSecond
      dsimp only
      split
      · exact h.trim
      · exact h.trimInUse }

theorem withStandard (h : x.Sound) {n : Nat} (hn : n < Config.rangeEnd) (valid : Bool) :
    { x with standard := n, summer := summerAt x.settings.rule n, valid := valid : TimeBase }.Sound :=
  { h with standard := hn, summer := rfl }

theorem advance (h : x.Sound) : x.advance.Sound := by
  refine (h.beginSecond (Nat.mod_lt (x.trimCycle + 1) (by decide))).withStandard ?_ _
  split
  · assumption
  · decide

theorem withLastSecond (h : x.Sound) (m : Option Nat) : { x with lastSecond := m : TimeBase }.Sound := { h with }

theorem noWait (h : x.Sound) : { x with setTimeWait := none : TimeBase }.Sound := { h with waiting := nofun }

theorem setTo (h : x.Sound) {n : Nat} (hn : n < Config.rangeEnd) : (x.setTo n).Sound :=
  ((h.beginSecond h.trimCycle).withStandard hn true).noWait.withLastSecond none

theorem resettle (h : x.Sound) {y : TimeSettings} (hy : -255 ≤ y.trim ∧ y.trim ≤ 255) : (x.resettle y).Sound :=
  { h with summer := rfl, trim := hy }

theorem enterReserve (h : x.Sound) : x.enterReserve.Sound := { h.noWait with }

/-- The power state, MSENSE's level, its qualification and the note of a cold start are in no range. -/
theorem withSupply (h : x.Sound) (p : PowerState) (m : Bool) (q : Option Nat) (c : Bool) :
    { x with power := p, msense := m, qualification := q, coldStartPending := c : TimeBase }.Sound := { h with }

/-- R17: the Time Base after total loss. -/
theorem poweredUp (h : x.Sound) :
    { x with prescaler := 0, secondLength := Config.countsPerSecond, trimInUse := x.settings.trim, trimCycle := 0,
             standard := 0, summer := summerAt x.settings.rule 0, valid := false, lastAlignment := none, power := .reserve,
             setTimeWait := none, qualification := none, coldStartPending := true, reserveEntry := 0 : TimeBase }.Sound :=
  { h with
    prescaler := Nat.zero_le _, lengthLow := (by decide : 32513 ≤ 32768), lengthHigh := (by decide : 32768 ≤ 33023)
    trimCycle := (by decide : 0 < 32), standard := (by decide : 0 < Config.rangeEnd), summer := rfl, trimInUse := h.trim
    alignment := nofun, waiting := nofun }

end TimeBase.Sound

/-! ## The state -/

/-- Other time in the place of sound time. -/
theorem State.TimeSound.withTime (h : s.TimeSound) {x : TimeBase} (hx : s.time.Sound → x.Sound) :
    { s with time := x : State }.TimeSound :=
  State.timeSound_iff.2 ⟨hx (State.timeSound_iff.1 h).1, h.amends⟩

/-- What follows quietly from a sound Time Base keeps it sound. -/
theorem State.TimeSound.quiet (h : s.TimeSound) (q : Quiet r s t) : t.TimeSound := by
  refine State.timeSound_iff.2 ⟨q.time ▸ (State.timeSound_iff.1 h).1, fun w hw x hx => ?_⟩
  obtain ⟨l, hl, plain⟩ := q.writes
  have hm : w.effect ∈ s.memory.writes.map (·.effect) ++ l := hl ▸ List.mem_map_of_mem (f := fun w : Write => w.effect) hw
  rcases List.mem_append.1 hm with old | new
  · obtain ⟨v, hv, he⟩ := List.mem_map.1 old
    exact h.amends v hv x (he.trans hx)
  · exact absurd hx ((plain _ new).noSettings x)

/-- `State.TimeSound.quiet` with the quiet part first, from which the state before it is read. -/
theorem Quiet.timeSound (q : Quiet r s t) (h : s.TimeSound) : t.TimeSound := h.quiet q

/-- One more write, of settings with a clamped trim or of another record. -/
theorem State.TimeSound.asks (h : s.TimeSound) {e : WriteEffect}
    (he : ∀ x, e = .timeSettings x → -255 ≤ x.trim ∧ x.trim ≤ 255) (x : Response) : (s.writeThenAnswer e x).TimeSound :=
  { h with
    amends := fun w hw y hy => by
      rcases List.mem_append.1 hw with old | new
      · exact h.amends w old y hy
      · rw [List.mem_singleton.1 new] at hy
        exact he y hy }

theorem State.TimeSound.elapse (h : s.TimeSound) (dt : Nat) : (s.elapse dt).TimeSound :=
  { h with prescaler := Nat.min_le_left .. }

theorem setTimeInstant_lt {rule : SummerRule} {basis : TimeBasis} {d : DateTime} {n : Nat}
    (h : setTimeInstant rule basis d = some n) : n < Config.rangeEnd := by
  unfold setTimeInstant at h
  split at h
  · dsimp only at h
    split at h
    · split at h
      · rename_i hx
        cases h
        simp only [inRange, decide_eq_true_eq] at hx
        omega
      · cases h
    · cases h
  · cases h

theorem State.TimeSound.takeSetTime (h : s.TimeSound) {n : Nat} (hn : n < Config.rangeEnd) : (s.takeSetTime n).TimeSound :=
  (h.withTime fun k => k.setTo hn).quiet (s.takeSetTime_quiet (r := true) n)

theorem State.TimeSound.finishSetTime (h : s.TimeSound) (atMark : Bool) : (s.finishSetTime atMark).TimeSound := by
  unfold State.finishSetTime
  split
  · exact h
  · rename_i w hw
    exact (h.takeSetTime (h.waiting w hw)).quiet (State.answer_quiet (r := true) _ _)

theorem State.TimeSound.countSecond (h : s.TimeSound) : s.countSecond.TimeSound := by
  obtain ⟨m, q⟩ := s.countSecond_quiet (r := true)
  exact (h.withTime fun k => k.advance.withLastSecond m).quiet q

/-- R3: an alignment restarts the second within 8192 counts of its beginning, or ends it within 8192 of its end. -/
theorem State.TimeSound.alignToMark (h : s.TimeSound) : s.alignToMark.TimeSound := by
  unfold State.alignToMark
  dsimp only
  split
  · split
    · rename_i hp
      exact h.withTime fun k => k.restarted _ hp
    · split
      · rename_i hp hl
        have hle := h.prescaler
        simp only [Config.alignWindow] at hp hl
        exact State.TimeSound.countSecond (h.withTime fun k =>
          { k with alignment := fun a ha => by cases ha; omega })
      · exact h
  · exact h

theorem State.TimeSound.requestRestart (h : s.TimeSound) : s.requestRestart.TimeSound :=
  (s.requestRestart_quiet (r := true)).timeSound { h with }

/-- What working a request does keeps the Time Base sound. -/
theorem State.TimeSound.worked (h : s.TimeSound) (w : Worked s t) : t.TimeSound := by
  cases w with
  | quietly q => exact h.quiet q
  | asks e x ok => exact h.asks ok.trim x
  | waits basis d n hn =>
    exact (State.deferRequest_quiet (r := true) _).timeSound
      { h with waiting := fun w hw => Option.some.inj hw ▸ setTimeInstant_lt hn }
  | sets basis d n hn => exact (h.takeSetTime (setTimeInstant_lt hn)).quiet (State.answer_quiet (r := true) _ _)
  | restarts => exact h.requestRestart

theorem State.TimeSound.withLink (h : s.TimeSound) (x : Link) : { s with link := x : State }.TimeSound := { h with }

theorem State.TimeSound.takeTask (h : s.TimeSound) (k : Task) : (s.takeTask k).TimeSound := by
  unfold State.takeTask
  dsimp only
  split
  · exact (h.withLink _).worked (State.workTask_worked _ _ fun p hp => by cases hp; rfl)
  · exact h.withLink _

theorem State.TimeSound.hostRequest (h : s.TimeSound) (q : Request) : (s.hostRequest q).TimeSound := by
  unfold State.hostRequest
  dsimp only
  split
  · split
    · exact (h.withLink _).takeTask _
    · exact h.withLink _
  · exact h

theorem State.TimeSound.routeRequest (h : s.TimeSound) : s.routeRequest.TimeSound := by
  unfold State.routeRequest
  split
  · exact h
  · rename_i q hq
    split
    · refine (h.quiet (s.setPhaseOfRequest_quiet (r := true) _)).worked (State.workTask_worked _ _ fun p hp => ?_)
      simp only [State.setPhaseOfRequest, hq, Option.map_some, Option.some.injEq] at hp
      rw [← hp]
    · exact h

theorem State.TimeSound.resumeAmendDial (h : s.TimeSound) : s.resumeAmendDial.TimeSound := by
  rcases s.resumeAmendDial_worked with e | ⟨i, a, x, e⟩ <;> rw [e]
  · exact h
  · exact (h.quiet (s.setPhaseOfRequest_quiet (r := true) _)).asks (fun _ hx => by cases hx) x

theorem State.TimeSound.endFrame (h : s.TimeSound) (bits : List Bool) : (s.endFrame bits).TimeSound := by
  unfold State.endFrame
  split
  · exact h.withLink _
  · dsimp only
    split
    · unfold State.takeContent
      split
      · exact h.withLink _
      · exact h.withLink _
      · exact (h.withLink _).takeTask _
    · exact h.withLink _

theorem WriteEffect.plain_or (e : WriteEffect) : e.Plain ∨ (∃ x, e = .timeSettings x) ∨ ∃ c, e = .feeder c := by
  cases e with
  | timeSettings x => exact .inr (.inl ⟨x, rfl⟩)
  | feeder c => exact .inr (.inr ⟨c, rfl⟩)
  | _ => exact .inl ⟨nofun, nofun⟩

/-- R9, R2: the end of a write keeps the Time Base sound, the trim of new time settings being clamped. -/
theorem State.TimeSound.endWrite (h : s.TimeSound) : s.endWrite.TimeSound := by
  unfold State.endWrite
  split
  · exact h
  · rename_i w rest hw
    have left : { s with memory.writes := rest : State }.TimeSound :=
      { h with amends := fun v hv => h.amends v (by rw [hw]; exact List.mem_cons_of_mem _ hv) }
    have acted : (if s.time.power = .mains then ({ s with memory.writes := rest } : State).applyWrite w.effect
        else ({ s with memory.writes := rest } : State).storeWrite w.effect).TimeSound := by
      rcases w.effect.plain_or with p | ⟨x, e⟩ | ⟨c, e⟩
      · split
        · exact left.quiet (State.applyWrite_quiet (r := true) _ _ p)
        · exact left.quiet (State.storeWrite_quiet (r := true) _ _ p)
      · have hx := h.amends w (by rw [hw]; exact List.mem_cons_self ..) x e
        have set := left.withTime fun k => k.resettle hx
        rw [e]
        split
        · exact set.quiet (State.applyTimeSettings_quiet (r := true) _ x)
        · exact set
      · have set : { s with memory.writes := rest, feeder.capacity := c : State }.TimeSound := { left with }
        rw [e]
        split
        · exact set.quiet (State.tryAsks_quiet (r := true) _)
        · exact set
    dsimp only
    have released := acted.quiet (State.releaseRequest_quiet (r := true) _)
    split
    · exact released
    · exact released.quiet (State.answer_quiet (r := true) _ _)

theorem State.TimeSound.enterReserve (h : s.TimeSound) : s.enterReserve.TimeSound :=
  (s.enterReserve_quiet (r := true)).timeSound { h.withTime (·.enterReserve) with }

theorem State.TimeSound.completeQualification (h : s.TimeSound) : s.completeQualification.TimeSound := by
  unfold State.completeQualification
  split
  · exact h
  · split
    · split
      · exact (s.coldStart_quiet (r := true)).timeSound
          { h.withTime fun k => (k.withSupply .mains s.time.msense none false).noWait with }
      · exact (s.supplyReturn_quiet (r := true)).timeSound
          { h.withTime fun k => (k.withSupply .mains s.time.msense none s.time.coldStartPending).noWait with }
    · exact h

theorem State.TimeSound.powerUpCold (h : s.TimeSound) : s.powerUpCold.TimeSound := by
  unfold State.powerUpCold
  dsimp only
  refine State.TimeSound.quiet ?_ (State.raise_quiet (r := true) _ _)
  split
  · exact h.enterReserve.withTime (·.poweredUp)
  · exact h.withTime (·.poweredUp)

theorem State.TimeSound.assertRstn (h : s.TimeSound) : s.assertRstn.TimeSound := by
  unfold State.assertRstn
  dsimp only
  split
  · refine State.TimeSound.requestRestart ?_
    split
    · exact { h.withTime (·.noWait) with }
    · exact { h with }
  · exact { h with }

theorem State.TimeSound.whenMains (h : s.TimeSound) {act : State → State} (k : (act s).TimeSound) :
    (s.whenMains act).TimeSound := by
  unfold State.whenMains
  split
  · exact k
  · exact h

/-- Every act of a command keeps the Time Base sound. -/
theorem State.TimeSound.act (h : s.TimeSound) {act : State → State} (k : CommandAct act) : (act s).TimeSound := by
  cases k with
  | request q => exact h.hostRequest q
  | running act q => exact h.whenMains (h.quiet (q s))
  | dialAmendResumed => exact h.whenMains h.resumeAmendDial
  | requestRouted => exact h.whenMains h.routeRequest
  | timeSetAtEdge =>
    refine h.whenMains ?_
    unfold State.setTimeAtEdge
    split
    · exact h.finishSetTime true
    · exact h
  | timeSetAtTimeout =>
    refine h.whenMains ?_
    unfold State.setTimeAtTimeout
    split
    · exact h.finishSetTime false
    · exact h
  | secondEnded =>
    unfold State.endSecond
    split
    · exact h.countSecond
    · exact h
  | markAligned => exact h.alignToMark
  | mainsLost =>
    unfold State.loseMains
    split
    · exact h.enterReserve
    · exact h
  | qualificationBegun =>
    unfold State.beginQualification
    split
    · exact h.withTime fun k => { k with }
    · exact h
  | qualificationCancelled =>
    unfold State.cancelQualification
    split
    · exact h
    · split
      · exact h.withTime fun k => { k with }
      · exact h
  | qualificationCompleted => exact h.completeQualification
  | poweredUpCold => exact h.powerUpCold
  | pinChanged line high reading => exact h.quiet (s.changePin_quiet (r := true) line high reading)
  | filterExpired line =>
    exact h.quiet (.ite (fun _ => s.takeEdge_quiet (r := true) line) fun _ => .refl true s)
  | rstnAsserted => exact h.assertRstn
  | rstnReleased => exact { h with }
  | restartTaken =>
    unfold State.restartIfOpen
    split
    · exact (s.restartReset_quiet (r := true)).timeSound { h.withTime (·.noWait) with }
    · exact h
  | frameBegun => exact h.quiet (s.beginFrame_quiet (r := true))
  | frameEnded bits => exact h.endFrame bits
  | writeEnded => exact h.endWrite
  | boundaryPassed => exact h.quiet (s.passBoundary_quiet (r := true))

/-- Settles O3: every step idles or lets its counts pass and acts, and each act keeps the Time Base sound. -/
theorem timeBaseStaysSound : Obligations.TimeBaseStaysSound := by
  unfold Obligations.TimeBaseStaysSound
  intro s t h e
  rcases step_next e with rfl | ⟨rest, dt, act, k, rfl⟩
  · exact h
  · have h' : { s with pending := rest : State }.TimeSound := { h with }
    exact (h'.elapse dt).act k

end Sys2Proof.Machine
end

section
/-! The reading of whole tables: what a record is after an act for each index, and in a table mapped, filled or read past its end. -/

namespace Sys2Proof.Machine

variable {s t : State}

/-! ## Vectors read with a default -/

theorem getD_eq_getElem? {α : Type} {n : Nat} (v : Vector α n) (i : Nat) (d : α) : v.getD i d = v[i]?.getD d := by
  simp [Vector.getD]

theorem getD_map_vector {α β : Type} {n : Nat} (v : Vector α n) (f : α → β) (i : Nat) (d : α) :
    (v.map f).getD i (f d) = f (v.getD i d) := by
  rw [getD_eq_getElem?, getD_eq_getElem?, Vector.getElem?_map]
  cases v[i]? <;> rfl

theorem getD_map_vector_of_lt {α β : Type} {n : Nat} (v : Vector α n) (f : α → β) {i : Nat} (h : i < n) (d : α) (e : β) :
    (v.map f).getD i e = f (v.getD i d) := by
  simp [getD_eq_getElem?, h]

theorem getD_replicate_vector {α : Type} (n i : Nat) (x : α) : (Vector.replicate n x).getD i x = x := by
  rw [getD_eq_getElem?, Vector.getElem?_replicate]
  split <;> rfl

theorem getD_of_ge_vector {α : Type} {n : Nat} (v : Vector α n) {i : Nat} (h : n ≤ i) (d : α) : v.getD i d = d := by
  rw [getD_eq_getElem?, Vector.getElem?_eq_none h]
  rfl

theorem State.dial_outside {i : Nat} (h : Config.dials ≤ i) : s.dial i = Dial.blank := getD_of_ge_vector _ h _

/-! ## An act for each index -/

theorem eachIndex_succ (n : Nat) (act : Nat → State → State) (s : State) :
    eachIndex (n + 1) act s = act n (eachIndex n act s) := by
  simp [eachIndex, List.range_succ]

/-- What no act changes is as it was. -/
theorem eachIndex_same {β : Type} (read : State → β) {act : Nat → State → State} (same : ∀ i s, read (act i s) = read s)
    (n : Nat) (s : State) : read (eachIndex n act s) = read s := by
  induction n with
  | zero => rfl
  | succ n ih => rw [eachIndex_succ, same, ih]

/-- Acts of which each changes its own record, by a function of it, and no other. -/
theorem eachIndex_own {α : Type} (read : State → Nat → α) (f : Nat → α → α) {act : Nat → State → State} {size : Nat}
    (own : ∀ i s, i < size → read (act i s) i = f i (read s i)) (others : ∀ i j s, i ≠ j → read (act i s) j = read s j)
    {n : Nat} (hn : n ≤ size) (s : State) (j : Nat) :
    read (eachIndex n act s) j = if j < n then f j (read s j) else read s j := by
  induction n with
  | zero => rfl
  | succ n ih =>
    rw [eachIndex_succ]
    have before := ih (Nat.le_of_succ_le hn)
    by_cases e : n = j
    · subst e
      rw [own _ _ (by omega), before, if_neg (Nat.lt_irrefl n), if_pos (Nat.lt_succ_self n)]
    · rw [others _ _ _ e, before]
      exact if_congr (by omega) rfl rfl

end Sys2Proof.Machine
end
section
/-! RESERVE (section 1.7): what RESERVE ENTRY leaves, and that nothing comes to life while the supply is away (R15, R31, R56, R68,
R110, R166, R177, R188). -/

namespace Sys2Proof.Machine

variable {s t : State}

/-! ## RESERVE ENTRY, block by block -/

/-- R31: a dial at RESERVE ENTRY, in doubt where an impulse is cut. -/
def Dial.cut (d : Dial) : Dial :=
  match d.impulse with
  | none => { d with owed := false }
  | some _ => { d with impulse := none, doubt := true, owed := false }

theorem Dial.cut_impulse (d : Dial) : d.cut.impulse = none := by
  unfold Dial.cut
  split
  · assumption
  · rfl

theorem Dial.cut_position (d : Dial) : d.cut.position = d.position := by
  unfold Dial.cut
  split <;> rfl

theorem State.cutImpulse_eq (s : State) (i : Nat) : s.cutImpulse i =
    if (s.dial i).impulse.isSome then ((s.setDial i (s.dial i).cut).store (.dial i)).raise .dialDoubt
    else s.setDial i (s.dial i).cut := by
  unfold State.cutImpulse Dial.cut
  dsimp only
  cases (s.dial i).impulse <;> rfl

theorem State.cutImpulse_dial (s : State) (i : Nat) (h : i < Config.dials) : (s.cutImpulse i).dial i = (s.dial i).cut := by
  rw [State.cutImpulse_eq]
  split <;> exact State.dial_setDial_same _ _ _ h

theorem State.cutImpulse_other (s : State) {i j : Nat} (h : i ≠ j) : (s.cutImpulse i).dial j = s.dial j := by
  rw [State.cutImpulse_eq]
  split <;> exact State.dial_setDial_other _ _ _ _ h

/-- R31: every dial is cut; a place past the table reads as a blank dial, which has nothing to cut. -/
theorem State.cutImpulses_dial (s : State) (i : Nat) : s.cutImpulses.dial i = (s.dial i).cut := by
  have h := eachIndex_own (fun s i => s.dial i) (fun _ => Dial.cut) (size := Config.dials) (fun i s => s.cutImpulse_dial i)
    (fun i j s => s.cutImpulse_other) (Nat.le_refl _) s i
  refine h.trans ?_
  split
  · rfl
  · rename_i k
    rw [State.dial_outside (Nat.le_of_not_lt k)]
    rfl

/-- DIAL DOUBT is set, and fresh (section 11.5). -/
def State.DoubtRaised (s : State) : Prop := s.link.flags.getLsbD 2 = true ∧ s.link.fresh.getLsbD 2 = true

theorem State.raise_doubtRaised (s : State) : (s.raise .dialDoubt).DoubtRaised := by
  simp [State.DoubtRaised, State.raise, Condition.only, Condition.bit]

theorem State.cutImpulse_keeps_doubtRaised (i : Nat) (h : s.DoubtRaised) : (s.cutImpulse i).DoubtRaised := by
  rw [State.cutImpulse_eq]
  split
  · exact State.raise_doubtRaised _
  · exact h

/-- R31: an impulse cut raises DIAL DOUBT. -/
theorem State.cutImpulses_doubtRaised {i : Nat} (hi : i < Config.dials) (h : (s.dial i).impulse.isSome = true) :
    s.cutImpulses.DoubtRaised := by
  have go : ∀ n, i < n → n ≤ Config.dials → (eachIndex n (fun i s => s.cutImpulse i) s).DoubtRaised := by
    intro n hn hs
    induction n with
    | zero => cases hn
    | succ n ih =>
      rw [eachIndex_succ]
      rcases Nat.lt_succ_iff_lt_or_eq.1 hn with k | rfl
      · exact State.cutImpulse_keeps_doubtRaised _ (ih k (Nat.le_of_succ_le hs))
      · have d := eachIndex_own (fun s i => s.dial i) (fun _ => Dial.cut) (size := Config.dials)
          (fun i s => s.cutImpulse_dial i) (fun i j s => s.cutImpulse_other) (Nat.le_of_succ_le hs) s i
        rw [if_neg (Nat.lt_irrefl i)] at d
        rw [State.cutImpulse_eq, d, if_pos h]
        exact State.raise_doubtRaised _
  exact go _ hi (Nat.le_refl _)

/-- `t` is `s` but for its scene slots and record memory, which the freeing of RETIRING scenes changes. -/
structure ScenesFreed (s t : State) : Prop where
  clock : t.clock = s.clock
  time : t.time = s.time
  dials : t.dials = s.dials
  lines : t.lines = s.lines
  bells : t.bells = s.bells
  hammers : t.hammers = s.hammers
  tunes : t.tunes = s.tunes
  chime : t.chime = s.chime
  program : t.program = s.program
  calendar : t.calendar = s.calendar
  mixer : t.mixer = { s.mixer with scenes := t.mixer.scenes }
  feeder : t.feeder = s.feeder
  link : t.link = s.link
  pending : t.pending = s.pending

/-- The state without the scene slots and record memory. -/
def State.withoutScenes (s : State) : State :=
  { s with mixer.scenes := Vector.replicate Config.scenes ⟨0, none⟩, memory.writes := [] }

theorem ScenesFreed.of_withoutScenes (h : t.withoutScenes = s.withoutScenes) : ScenesFreed s t where
  clock := (congrArg State.clock h :)
  time := (congrArg State.time h :)
  dials := (congrArg State.dials h :)
  lines := (congrArg State.lines h :)
  bells := (congrArg State.bells h :)
  hammers := (congrArg State.hammers h :)
  tunes := (congrArg State.tunes h :)
  chime := (congrArg State.chime h :)
  program := (congrArg State.program h :)
  calendar := (congrArg State.calendar h :)
  mixer := (congrArg (fun x : State => { x.mixer with scenes := t.mixer.scenes }) h :)
  feeder := (congrArg State.feeder h :)
  link := (congrArg State.link h :)
  pending := (congrArg State.pending h :)

theorem ScenesFreed.dial (h : ScenesFreed s t) (i : Nat) : t.dial i = s.dial i := by rw [State.dial, h.dials, State.dial]

theorem ScenesFreed.bell (h : ScenesFreed s t) (i : Nat) : t.bell i = s.bell i := by rw [State.bell, h.bells, State.bell]

theorem ScenesFreed.stroke (h : ScenesFreed s t) (i : Nat) : t.stroke i = s.stroke i := by
  rw [State.stroke, h.hammers, State.stroke]

theorem ScenesFreed.toll (h : ScenesFreed s t) (i : Nat) : t.toll i = s.toll i := by rw [State.toll, h.chime, State.toll]

theorem ScenesFreed.channel (h : ScenesFreed s t) (i : Nat) : t.channel i = s.channel i := by
  rw [State.channel, h.mixer, State.channel]

theorem State.freeSceneIfRetiring_withoutScenes (i : Nat) (s : State) :
    (s.freeSceneIfRetiring i).withoutScenes = s.withoutScenes := by
  unfold State.freeSceneIfRetiring
  split <;> rfl

/-- The freeing of RETIRING scenes changes scene slots and writes alone. -/
theorem freeScenes_freed (s : State) : ScenesFreed s (eachIndex Config.scenes (fun i s => s.freeSceneIfRetiring i) s) :=
  .of_withoutScenes (eachIndex_same State.withoutScenes State.freeSceneIfRetiring_withoutScenes _ s)

/-- R166: a channel whose delivered level has become 0. -/
def Channel.darkened (c : Channel) : Channel := { c with levels := { c.levels with delivered := 0 } }

/-- R166: the mixer with its stack discarded and every delivered level 0. -/
def Mixer.darkened (m : Mixer) : Mixer :=
  { m with layers := [], computed := none, channels := m.channels.map Channel.darkened }

theorem State.darken_freed (s : State) : ScenesFreed { s with mixer := s.mixer.darkened } s.darken := by
  unfold State.darken
  exact freeScenes_freed _

theorem Mixer.darkened_delivered (m : Mixer) (i : Nat) :
    (m.darkened.channels.getD i Channel.blank).levels.delivered = 0 :=
  (congrArg (fun c : Channel => c.levels.delivered) (getD_map_vector m.channels Channel.darkened i Channel.blank) :)

/-- R15, R70, R110, R56, R177: what RESERVE ENTRY does between the end of impulses and strokes and the dark: the gate, the chimes, the
runs and the Feeder Account. -/
def State.silenced (s : State) : State :=
  let s : State := { s with hammers.gate := .closed }
  let s := s.discardChime.discardRuns
  { s with feeder := { s.feeder with asks := [], admitted := [] } }

/-- R15: the state whose Time Base has entered RESERVE. -/
def State.inReserve (s : State) : State :=
  { s with time.power := .reserve, time.reserveEntry := s.time.standard, time.setTimeWait := none, time.msense := false,
           time.qualification := none }

theorem State.enterReserve_eq (s : State) : s.enterReserve = s.inReserve.cutImpulses.restStrokes.silenced.darken.dropLink := by
  unfold State.enterReserve
  exact congrArg (fun x : State => x.cutImpulses.restStrokes.silenced.darken.dropLink) rfl

/-- R56: a bell whose run is discarded. -/
def Bell.runDiscarded (b : Bell) : Bell := { b with motor := .off }

theorem State.silenced_motor (s : State) (i : Nat) : (s.silenced.bell i).motor = .off :=
  (congrArg Bell.motor (getD_map_vector s.bells Bell.runDiscarded i Bell.blank) :)

theorem State.silenced_toll (s : State) (i : Nat) : s.silenced.toll i = none := getD_replicate_vector ..

/-- R166, R188: with the rest of the part silenced, the dark and the dropping of the link leave everything at rest. -/
theorem State.silenced_atRest (s : State) (dials : ∀ i, (s.dial i).impulse = none)
    (strokes : ∀ i, (s.stroke i).lineIsActive = false) (wait : s.time.setTimeWait = none) :
    s.silenced.darken.dropLink.AtRest := by
  have freed := s.silenced.darken_freed
  generalize s.silenced.darken = t at freed
  exact
    { dials := fun i => (congrArg Dial.impulse (freed.dial i)).trans (dials i)
      strokes := fun i => (congrArg StrokeState.lineIsActive (freed.stroke i)).trans (strokes i)
      motors := fun i => (congrArg Bell.motor (freed.bell i)).trans (s.silenced_motor i)
      lamps := fun i => (congrArg (fun c : Channel => c.levels.delivered) (freed.channel i)).trans
        (s.mixer.darkened_delivered i)
      queue := congrArg ChimeSequencer.queue freed.chime
      performance := congrArg ChimeSequencer.performance freed.chime
      tolls := fun i => (freed.toll i).trans (s.silenced_toll i)
      layers := congrArg Mixer.layers freed.mixer
      asks := congrArg Feeder.asks freed.feeder
      admitted := congrArg Feeder.admitted freed.feeder
      gate := congrArg HammerDrive.gate freed.hammers
      inProgress := rfl, waiting := rfl, frame := rfl
      setTimeWait := (congrArg TimeBase.setTimeWait freed.time).trans wait
      responses := fun w hw => by
        obtain ⟨v, -, rfl⟩ := List.mem_map.1 hw
        rfl }

/-- What the dark and the dropping of the link leave of a silenced state. -/
theorem State.silenced_dark_dial (s : State) (i : Nat) : s.silenced.darken.dropLink.dial i = s.dial i := by
  have freed := s.silenced.darken_freed
  generalize s.silenced.darken = t at freed
  exact freed.dial i

theorem State.silenced_dark_doubt (h : s.DoubtRaised) : s.silenced.darken.dropLink.DoubtRaised := by
  have freed := s.silenced.darken_freed
  generalize s.silenced.darken = t at freed
  exact ⟨(congrArg (fun l : Link => l.flags.getLsbD 2) freed.link).trans h.1,
    (congrArg (fun l : Link => l.fresh.getLsbD 2) freed.link).trans h.2⟩

theorem State.restStrokes_dial (s : State) (i : Nat) : s.restStrokes.dial i = s.dial i := by
  simp only [State.dial, State.restStrokes]

theorem State.restStrokes_link (s : State) : s.restStrokes.link = s.link := by simp only [State.restStrokes]

theorem State.restStrokes_time (s : State) : s.restStrokes.time = s.time := by simp only [State.restStrokes]

theorem State.inReserve_dial (s : State) (i : Nat) : s.inReserve.dial i = s.dial i := rfl

theorem State.enterReserve_dial (s : State) (i : Nat) : s.enterReserve.dial i = (s.dial i).cut := by
  rw [State.enterReserve_eq, State.silenced_dark_dial, State.restStrokes_dial, State.cutImpulses_dial, State.inReserve_dial]

theorem State.enterReserve_doubtRaised {i : Nat} (hi : i < Config.dials) (h : (s.dial i).impulse.isSome = true) :
    s.enterReserve.DoubtRaised := by
  rw [State.enterReserve_eq]
  refine State.silenced_dark_doubt ?_
  rw [State.DoubtRaised, State.restStrokes_link]
  exact State.cutImpulses_doubtRaised (s := s.inReserve) hi h

theorem State.enterReserve_time (s : State) : s.enterReserve.time = s.time.enterReserve :=
  (s.enterReserve_quiet (r := true)).time

theorem State.enterReserve_clock (s : State) : s.enterReserve.clock = s.clock := (s.enterReserve_quiet (r := true)).clock

/-- R15: RESERVE ENTRY leaves everything but the counting domain and record memory at rest. -/
theorem State.enterReserve_atRest (s : State) : s.enterReserve.AtRest := by
  rw [State.enterReserve_eq]
  refine State.silenced_atRest _ (fun i => ?_) (State.restStrokes_line _) ?_
  · rw [State.restStrokes_dial, State.cutImpulses_dial, Dial.cut_impulse]
  · rw [State.restStrokes_time, (State.cutImpulses_quiet (r := true) _).time]
    rfl

/-! ## At rest after an update -/

theorem State.AtRest.setDial (h : s.AtRest) (i : Nat) {d : Dial} (hd : d.impulse = none) : (s.setDial i d).AtRest :=
  { h with
    dials := fun j => by
      rw [State.dial_setDial]
      split
      · exact hd
      · exact h.dials j }

theorem State.AtRest.setBell (h : s.AtRest) (i : Nat) {b : Bell} (hb : b.motor = .off) : (s.setBell i b).AtRest :=
  { h with
    motors := fun j => by
      rw [State.bell_setBell]
      split
      · exact hb
      · exact h.motors j }

theorem State.AtRest.setChannel (h : s.AtRest) (i : Nat) {c : Channel} (hc : c.levels.delivered = 0) :
    (s.setChannel i c).AtRest :=
  { h with
    lamps := fun j => by
      rw [State.channel_setChannel]
      split
      · exact hc
      · exact h.lamps j }

theorem State.AtRest.setLine (h : s.AtRest) (i : Nat) (l : Line) : (s.setLine i l).AtRest := { h with }

theorem State.AtRest.raise (h : s.AtRest) (c : Condition) : (s.raise c).AtRest := { h with }

theorem State.AtRest.raiseIf (h : s.AtRest) (b : Bool) (c : Condition) : (s.raiseIf b c).AtRest := by
  unfold State.raiseIf
  split
  · exact h.raise c
  · exact h

theorem State.AtRest.withTime (h : s.AtRest) {x : TimeBase} (hx : x.setTimeWait = none) :
    { s with time := x : State }.AtRest := { h with setTimeWait := hx }

/-! ## Acts in RESERVE -/

theorem State.not_inMains (h : s.time.power = .reserve) : ¬s.inMains := by
  rw [State.inMains, h]
  nofun

theorem State.whenMains_reserve (h : s.time.power = .reserve) (act : State → State) : s.whenMains act = s :=
  if_neg (State.not_inMains h)

/-- R15: in RESERVE a second is counted and nothing is announced. -/
theorem State.countSecond_reserve (h : s.time.power = .reserve) :
    s.countSecond = ({ s with time := s.time.advance } : State).raiseIf s.time.atRangeEnd .timeInvalid := by
  have hp : (({ s with time := s.time.advance } : State).raiseIf s.time.atRangeEnd .timeInvalid).time.power = .reserve :=
    (congrArg TimeBase.power (State.raiseIf_time_eq _ _ _)).trans h
  unfold State.countSecond
  exact if_pos hp

theorem State.AtRest.countSecond (h : s.AtRest) (hp : s.time.power = .reserve) : s.countSecond.AtRest := by
  rw [State.countSecond_reserve hp]
  exact (h.withTime (x := s.time.advance) h.setTimeWait).raiseIf _ _

/-- R15: in RESERVE the record alone changes at the end of a write. -/
theorem State.AtRest.storeWrite (h : s.AtRest) (e : WriteEffect) : (s.storeWrite e).AtRest := by
  cases e with
  | stored _ => exact h
  | timeSettings x => exact h.withTime h.setTimeWait
  | dial i a => exact h.setDial i (h.dials i)
  | line i x => exact h.setLine i _
  | bell i c => exact h.setBell i (h.motors i)
  | channel i c => exact h.setChannel i rfl
  | scene x c =>
    unfold State.storeWrite
    dsimp only
    split
    · exact h
    · exact { h with }
  | hammerFault i f =>
    change (State.storeHammerFault s i f).AtRest
    unfold State.storeHammerFault
    dsimp only
    split
    · exact h.setBell i (h.motors i)
    · exact h
  | motorFault i => exact h.setBell i (h.motors i)
  | chimeMap | clockProgram | duskSettings | duskTable | feeder | conditions | sensorFault => exact { h with }

theorem State.storeWrite_power (s : State) (e : WriteEffect) : (s.storeWrite e).time.power = s.time.power := by
  rcases e.plain_or with p | ⟨x, rfl⟩ | ⟨c, rfl⟩
  · rw [(s.storeWrite_quiet (r := true) e p).time]
  · rfl
  · rfl

theorem State.AtRest.endWrite (h : s.AtRest) (hp : s.time.power = .reserve) : s.endWrite.AtRest := by
  unfold State.endWrite
  split
  · exact h
  · rename_i w rest hw
    have left : { s with memory.writes := rest : State }.AtRest :=
      { h with responses := fun v hv => h.responses v (hw ▸ List.mem_cons_of_mem _ hv) }
    have stored := left.storeWrite w.effect
    have answer := h.responses w (hw ▸ List.mem_cons_self ..)
    dsimp only
    rw [if_neg (State.not_inMains hp), answer, State.releaseRequest, stored.inProgress]
    exact stored

/-- What each act does in RESERVE to a state at rest, apart from the three that take the power state elsewhere. -/
theorem State.AtRest.act (h : s.AtRest) (hp : s.time.power = .reserve) {act : State → State} (k : CommandAct act) :
    act = State.loseMains ∨ act = State.completeQualification ∨ act = State.powerUpCold ∨ (act s).AtRest := by
  have away := State.not_inMains hp
  have idle (f : State → State) : (s.whenMains f).AtRest := (State.whenMains_reserve hp f).symm ▸ h
  cases k
  case mainsLost => exact .inl rfl
  case qualificationCompleted => exact .inr (.inl rfl)
  case poweredUpCold => exact .inr (.inr (.inl rfl))
  all_goals refine .inr (.inr (.inr ?_))
  case request q =>
    change (s.hostRequest q).AtRest
    rw [State.hostRequest, if_neg fun a => away a.1]
    exact h
  case secondEnded =>
    unfold State.endSecond
    split
    · exact h.countSecond hp
    · exact h
  case markAligned =>
    unfold State.alignToMark
    dsimp only
    split
    · split
      · exact h.withTime h.setTimeWait
      · split
        · exact State.AtRest.countSecond (h.withTime h.setTimeWait) hp
        · exact h
    · exact h
  case qualificationBegun =>
    unfold State.beginQualification
    split
    · exact h.withTime h.setTimeWait
    · exact h
  case qualificationCancelled =>
    unfold State.cancelQualification
    split
    · exact h
    · split
      · exact h.withTime h.setTimeWait
      · exact h
  case pinChanged line high reading =>
    change (s.changePin line high reading).AtRest
    have same : s.changePin line high reading = s.setLine line { s.line line with pinHigh := high, analog := reading } :=
      if_neg fun a => away a.1
    rw [same]
    exact h.setLine line _
  case filterExpired line =>
    have off : s.filterReady line = false := by simp [State.filterReady, hp]
    simp only [off]
    exact h
  case rstnAsserted =>
    have same : s.assertRstn = { s with hammers.rstn := true } := if_neg away
    rw [same]
    exact { h with }
  case rstnReleased => exact { h with }
  case restartTaken =>
    have shut : s.gateOpens = false := by simp [State.gateOpens, hp]
    simp only [State.restartIfOpen, shut]
    exact h
  case frameBegun =>
    unfold State.beginFrame
    split
    · exact h
    · dsimp only
      rw [if_neg away]
      exact { h with }
  case frameEnded bits =>
    change (s.endFrame bits).AtRest
    have same : s.endFrame bits = { s with link.sel := false } := by rw [State.endFrame, h.frame]
    rw [same]
    exact { h with }
  case writeEnded => exact h.endWrite hp
  case boundaryPassed =>
    have off : s.frameDue = false := by simp [State.frameDue, hp]
    simp only [State.passBoundary, off]
    exact h
  all_goals exact idle _

/-! ## The power state -/

theorem Worked.power (w : Worked s t) : t.time.power = s.time.power := by
  cases w with
  | quietly q => rw [q.time]
  | asks => rfl
  | waits => rfl
  | sets basis d n hn => exact (congrArg TimeBase.power (s.takeSetTime_quiet (r := true) n).time :)
  | restarts => rw [(s.requestRestart_quiet (r := true)).time]

theorem State.takeTask_power (s : State) (k : Task) : (s.takeTask k).time.power = s.time.power := by
  unfold State.takeTask
  dsimp only
  split
  · exact (State.workTask_worked _ _ fun p hp => by cases hp; rfl).power
  · rfl

theorem State.hostRequest_power (s : State) (q : Request) : (s.hostRequest q).time.power = s.time.power := by
  unfold State.hostRequest
  dsimp only
  split
  · split
    · exact State.takeTask_power _ _
    · rfl
  · rfl

theorem State.routeRequest_power (s : State) : s.routeRequest.time.power = s.time.power := by
  unfold State.routeRequest
  split
  · rfl
  · rename_i q hq
    split
    · refine (State.workTask_worked _ _ fun p hp => ?_).power
      simp only [State.setPhaseOfRequest, hq, Option.map_some, Option.some.injEq] at hp
      rw [← hp]
    · rfl

theorem State.resumeAmendDial_power (s : State) : s.resumeAmendDial.time.power = s.time.power := by
  rcases s.resumeAmendDial_worked with e | ⟨i, a, x, e⟩ <;> rw [e]
  rfl

theorem State.countSecond_power (s : State) : s.countSecond.time.power = s.time.power := by
  obtain ⟨m, q⟩ := s.countSecond_quiet (r := true)
  exact (congrArg TimeBase.power q.time :)

theorem State.finishSetTime_power (s : State) (atMark : Bool) : (s.finishSetTime atMark).time.power = s.time.power := by
  unfold State.finishSetTime
  split
  · rfl
  · exact (congrArg TimeBase.power (s.takeSetTime_quiet (r := true) _).time :)

theorem State.applyWrite_power (s : State) (e : WriteEffect) : (s.applyWrite e).time.power = s.time.power := by
  rcases e.plain_or with p | ⟨x, rfl⟩ | ⟨c, rfl⟩
  · rw [(s.applyWrite_quiet (r := true) e p).time]
  · exact (congrArg TimeBase.power (s.applyTimeSettings_quiet (r := true) x).time :)
  · exact congrArg TimeBase.power (State.tryAsks_quiet (r := true) { s with feeder.capacity := c }).time

theorem State.releaseRequest_time (s : State) : s.releaseRequest.time = s.time := (s.releaseRequest_quiet (r := true)).time

theorem State.endWrite_power (s : State) : s.endWrite.time.power = s.time.power := by
  unfold State.endWrite
  split
  · rfl
  · rename_i w rest _
    have acted : (if s.time.power = .mains then ({ s with memory.writes := rest } : State).applyWrite w.effect
        else ({ s with memory.writes := rest } : State).storeWrite w.effect).time.power = s.time.power := by
      split
      · exact State.applyWrite_power _ _
      · exact State.storeWrite_power _ _
    dsimp only
    split
    · rw [State.releaseRequest_time]; exact acted
    · rw [State.answer_time, State.releaseRequest_time]; exact acted

theorem State.endFrame_power (s : State) (bits : List Bool) : (s.endFrame bits).time.power = s.time.power := by
  unfold State.endFrame
  split
  · rfl
  · dsimp only
    split
    · unfold State.takeContent
      split
      · rfl
      · rfl
      · exact State.takeTask_power _ _
    · rfl

theorem State.whenMains_power (s : State) {act : State → State} (h : (act s).time.power = s.time.power) :
    (s.whenMains act).time.power = s.time.power := by
  unfold State.whenMains
  split
  · exact h
  · rfl

/-- R15 to R17: only the loss of the supply, its qualified return and the power-up after total loss change the power state. -/
theorem CommandAct.power {act : State → State} (k : CommandAct act) (s : State) :
    act = State.loseMains ∨ act = State.completeQualification ∨ act = State.powerUpCold ∨
      (act s).time.power = s.time.power := by
  cases k
  case mainsLost => exact .inl rfl
  case qualificationCompleted => exact .inr (.inl rfl)
  case poweredUpCold => exact .inr (.inr (.inl rfl))
  all_goals refine .inr (.inr (.inr ?_))
  case request q => exact s.hostRequest_power q
  case running act q => exact s.whenMains_power (congrArg TimeBase.power (q s).time)
  case dialAmendResumed => exact s.whenMains_power s.resumeAmendDial_power
  case requestRouted => exact s.whenMains_power s.routeRequest_power
  case timeSetAtEdge =>
    refine s.whenMains_power ?_
    unfold State.setTimeAtEdge
    split
    · exact s.finishSetTime_power true
    · rfl
  case timeSetAtTimeout =>
    refine s.whenMains_power ?_
    unfold State.setTimeAtTimeout
    split
    · exact s.finishSetTime_power false
    · rfl
  case secondEnded =>
    unfold State.endSecond
    split
    · exact s.countSecond_power
    · rfl
  case markAligned =>
    unfold State.alignToMark
    dsimp only
    split
    · split
      · rfl
      · split
        · exact State.countSecond_power _
        · rfl
    · rfl
  case qualificationBegun =>
    unfold State.beginQualification
    split <;> rfl
  case qualificationCancelled =>
    unfold State.cancelQualification
    split
    · rfl
    · split <;> rfl
  case pinChanged line high reading => rw [(s.changePin_quiet (r := true) line high reading).time]
  case filterExpired line =>
    dsimp only
    split
    · rw [(s.takeEdge_quiet (r := true) line).time]
    · rfl
  case rstnAsserted =>
    unfold State.assertRstn
    dsimp only
    split
    · rw [(State.requestRestart_quiet (r := true) _).time]
      dsimp only
      split <;> rfl
    · rfl
  case rstnReleased => rfl
  case restartTaken =>
    unfold State.restartIfOpen
    split
    · rw [(s.restartReset_quiet (r := true)).time]
    · rfl
  case frameBegun => rw [(s.beginFrame_quiet (r := true)).time]
  case frameEnded bits => exact s.endFrame_power bits
  case writeEnded => exact s.endWrite_power
  case boundaryPassed => rw [(s.passBoundary_quiet (r := true)).time]

/-! ## The invariant -/

theorem State.ReserveSound.of_mains (h : s.time.power = .mains) : s.ReserveSound := fun k => by
  rw [h] at k
  cases k

theorem State.completeQualification_reserveSound (h : s.ReserveSound) : s.completeQualification.ReserveSound := by
  unfold State.completeQualification
  split
  · exact h
  · split
    · split
      · exact .of_mains (congrArg TimeBase.power (s.coldStart_quiet (r := true)).time)
      · exact .of_mains (congrArg TimeBase.power (s.supplyReturn_quiet (r := true)).time)
    · exact h

/-- R17: the power-up after total loss finds or leaves everything at rest. -/
theorem State.powerUpCold_atRest (h : s.ReserveSound) : s.powerUpCold.AtRest := by
  unfold State.powerUpCold
  dsimp only
  refine State.AtRest.raise (State.AtRest.withTime ?_ rfl) _
  split
  · exact s.enterReserve_atRest
  · rename_i away
    refine h ?_
    cases e : s.time.power with
    | mains => exact absurd e away
    | reserve => rfl

theorem State.ReserveSound.act (h : s.ReserveSound) {act : State → State} (k : CommandAct act) : (act s).ReserveSound := by
  rcases k.power s with rfl | rfl | rfl | kept
  · unfold State.loseMains
    split
    · exact fun _ => s.enterReserve_atRest
    · exact h
  · exact State.completeQualification_reserveSound h
  · exact fun _ => State.powerUpCold_atRest h
  · intro hp
    rw [kept] at hp
    rcases (h hp).act hp k with rfl | rfl | rfl | rest
    · rw [State.loseMains, if_neg (State.not_inMains hp)]
      exact h hp
    · exact State.completeQualification_reserveSound h (kept.trans hp)
    · exact State.powerUpCold_atRest h
    · exact rest

/-- Settles O4: every act of a command keeps what is at rest in RESERVE at rest, or leaves the power state MAINS. -/
theorem reserveStaysAtRest : Obligations.ReserveStaysAtRest := by
  unfold Obligations.ReserveStaysAtRest
  intro s t h e
  rcases step_next e with rfl | ⟨rest, dt, act, k, rfl⟩
  · exact h
  · have h' : { s with pending := rest : State }.ReserveSound := fun hp => { h hp with }
    have elapsed : (({ s with pending := rest } : State).elapse dt).ReserveSound := fun hp => { h' hp with }
    exact elapsed.act k

end Sys2Proof.Machine
end

section
/-! RESERVE ENTRY as a command (R15), and the machine right after COLD START (R17). -/

namespace Sys2Proof.Machine

variable {s t : State}

theorem exec_reserveEntry (dt : Nat) (s : State) : exec (.reserveEntry dt) s = .next (s.elapse dt).loseMains := rfl

/-- R41, R180, R185: outside MAINS no output is active, no response shows on RDY and ATTN is released. -/
theorem State.outputActive_reserve (h : s.time.power = .reserve) (i : Nat) : s.outputActive i = false := by
  simp [State.outputActive, h]

theorem State.attn_reserve (h : s.time.power = .reserve) : s.attn = false := by simp [State.attn, h]

theorem State.rdy_reserve (h : s.time.power = .reserve) : s.rdy = false := by simp [State.rdy, h]

theorem Dial.cut_of_no_impulse {d : Dial} (h : d.impulse = none) : d.cut = { d with owed := false } := by
  unfold Dial.cut
  rw [h]

theorem Dial.cut_doubt {d : Dial} (h : d.impulse.isSome = true) : d.cut.doubt = true := by
  obtain ⟨p, hp⟩ := Option.isSome_iff_exists.1 h
  unfold Dial.cut
  rw [hp]

/-- Settles O15: in MAINS the command is `State.enterReserve`, in RESERVE the passage of time alone. -/
theorem reserveEntryReleasesEverything : Obligations.ReserveEntryReleasesEverything := by
  unfold Obligations.ReserveEntryReleasesEverything
  intro s dt e
  refine ⟨fun h => ?_, fun h => ⟨e.enterReserve, ?_, e.enterReserve_atRest, e.enterReserve_time, e.enterReserve_clock,
    ?_, ?_, ?_, fun i => ?_, fun i p hp hi => ?_, fun i hi => ?_⟩⟩
  · rw [exec_reserveEntry, State.loseMains, if_neg (State.not_inMains (s := e) h)]
  · rw [exec_reserveEntry, State.loseMains, if_pos (show e.inMains from h)]
  · exact State.attn_reserve (congrArg TimeBase.power e.enterReserve_time)
  · exact State.rdy_reserve (congrArg TimeBase.power e.enterReserve_time)
  · exact State.outputActive_reserve (congrArg TimeBase.power e.enterReserve_time)
  · rw [e.enterReserve_dial, Dial.cut_position]
    rfl
  · have driving : (e.dial i).impulse.isSome = true := (congrArg Option.isSome hp).trans rfl
    refine ⟨?_, e.enterReserve_doubtRaised hi driving⟩
    rw [e.enterReserve_dial]
    exact Dial.cut_doubt driving
  · rw [e.enterReserve_dial]
    exact Dial.cut_of_no_impulse hi

/-! ## The machine right after COLD START -/

theorem TimeBase.reset_sound : TimeBase.reset.Sound where
  prescaler := Nat.zero_le _
  lengthLow := by decide
  lengthHigh := by decide
  trimCycle := by decide
  standard := by decide
  summer := rfl
  trim := by decide
  trimInUse := by decide
  alignment := nofun
  waiting := nofun

theorem TuneLibrary.heldSteps_blank (n : Nat) (m : Vector (Option Nat) Config.degrees) :
    TuneLibrary.heldSteps { slots := Vector.replicate Config.tunes ⟨0, none⟩, freeSteps := n, chimeMap := m } = 0 := by
  simp [TuneLibrary.heldSteps]

/-- Settles O8: the Time Base stands at its reset values, the power state is MAINS, and the pool is free and every list empty. -/
theorem resetIsSound : Obligations.ResetIsSound := by
  unfold Obligations.ResetIsSound
  have noWrite (w : Write) : w ∉ State.reset.memory.writes := List.not_mem_nil
  refine ⟨State.timeSound_iff.2 ⟨TimeBase.reset_sound, fun w hw => absurd hw (noWrite w)⟩, .of_mains rfl, ?_,
    ⟨Nat.le_refl _, fun w hw => absurd hw (noWrite w), fun _ hc => by cases hc⟩,
    ⟨Nat.zero_le _, Nat.zero_le _, List.nodup_nil, Nat.zero_le _, List.nodup_nil⟩⟩
  unfold State.PoolSound TuneLibrary.allSteps
  exact congrArg (Config.pool + ·) (TuneLibrary.heldSteps_blank _ _)

end Sys2Proof.Machine
end

section
/-! The civil calendar (R4, R5, R7, R10): the years and the months follow each other without a gap, so a day number and a real date
determine each other. -/

namespace Sys2Proof

/-! ## Leap years and months (R4) -/

theorem isLeap_iff (y : Nat) : isLeap y = true ↔ 4 ∣ y ∧ (100 ∣ y → 400 ∣ y) := by
  simp only [isLeap, Bool.and_eq_true, Bool.or_eq_true, beq_iff_eq, bne_iff_ne]
  omega

theorem daysInMonth_ge (y m : Nat) : 28 ≤ daysInMonth y m := by
  unfold daysInMonth
  split
  · split <;> decide
  all_goals decide

theorem daysInMonth_list (y : Nat) : [1, 2, 3, 4, 5, 6, 7, 8, 9, 10, 11, 12].map (daysInMonth y)
    = [31, if isLeap y then 29 else 28, 31, 30, 31, 30, 31, 31, 30, 31, 30, 31] := rfl

theorem daysInYear_ge (y : Nat) : 365 ≤ daysInYear y := by
  unfold daysInYear
  split <;> decide

/-- Each of the three counts steps exactly at a multiple of its divisor. -/
theorem leapYearsBefore_succ {y : Nat} (h : 1 ≤ y) :
    leapYearsBefore (y + 1) = leapYearsBefore y + if isLeap y then 1 else 0 := by
  have leap := isLeap_iff y
  obtain ⟨k, rfl⟩ := Nat.exists_eq_add_of_le' h
  have hundreds : 400 ∣ k + 1 → 100 ∣ k + 1 := (by decide : 100 ∣ 400).trans
  have fours : 100 ∣ k + 1 → 4 ∣ k + 1 := (by decide : 4 ∣ 100).trans
  have fewer : k / 100 ≤ k / 4 := by omega
  simp only [leapYearsBefore, Nat.add_sub_cancel]
  rw [Nat.succ_div (a := k) (b := 4), Nat.succ_div (a := k) (b := 100), Nat.succ_div (a := k) (b := 400)]
  by_cases four : 4 ∣ k + 1
  · by_cases hundred : 100 ∣ k + 1
    · by_cases fourHundred : 400 ∣ k + 1
      · rw [if_pos four, if_pos hundred, if_pos fourHundred, if_pos (leap.2 ⟨four, fun _ => fourHundred⟩)]
        omega
      · rw [if_pos four, if_pos hundred, if_neg fourHundred, if_neg fun yes => fourHundred ((leap.1 yes).2 hundred)]
        omega
    · rw [if_pos four, if_neg hundred, if_neg fun yes => hundred (hundreds yes),
        if_pos (leap.2 ⟨four, fun yes => absurd yes hundred⟩)]
      omega
  · rw [if_neg four, if_neg fun yes => four (fours yes), if_neg fun yes => four (fours (hundreds yes)),
      if_neg fun yes => four (leap.1 yes).1]
    rfl

theorem dayOfYearStart_succ {y : Nat} (h : 1 ≤ y) : dayOfYearStart (y + 1) = dayOfYearStart y + daysInYear y := by
  have leap := leapYearsBefore_succ h
  unfold dayOfYearStart daysInYear
  split
  · rw [if_pos ‹_›] at leap
    omega
  · rw [if_neg ‹_›] at leap
    omega

theorem dayOfYearStart_add {y : Nat} (h : 1 ≤ y) (k : Nat) : dayOfYearStart y + 365 * k ≤ dayOfYearStart (y + k) := by
  induction k with
  | zero => simp
  | succ k ih =>
    have next := dayOfYearStart_succ (y := y + k) (by omega)
    have len := daysInYear_ge (y + k)
    rw [← Nat.add_assoc, next]
    omega

/-- A later year starts after the whole of an earlier one. -/
theorem dayOfYearStart_le_of_lt {y z : Nat} (h : 1 ≤ y) (lt : y < z) : dayOfYearStart y + daysInYear y ≤ dayOfYearStart z := by
  obtain ⟨k, rfl⟩ := Nat.exists_eq_add_of_lt lt
  have := dayOfYearStart_add (y := y + 1) (by omega) k
  rw [dayOfYearStart_succ h, Nat.add_right_comm] at this
  omega

theorem dayOfYearStart_2000 : dayOfYearStart 2000 = 0 := by decide

theorem dayOfYearStart_2200 : dayOfYearStart 2200 = 73049 := by decide

theorem daysBeforeMonth_one (y : Nat) : daysBeforeMonth y 1 = 0 := rfl

theorem daysBeforeMonth_succ {m : Nat} (y : Nat) (h : 1 ≤ m) :
    daysBeforeMonth y (m + 1) = daysBeforeMonth y m + daysInMonth y m := by
  obtain ⟨k, rfl⟩ := Nat.exists_eq_add_of_le' h
  simp [daysBeforeMonth, List.range_succ]

theorem daysBeforeMonth_thirteen (y : Nat) : daysBeforeMonth y 13 = daysInYear y := by
  have all : daysBeforeMonth y 13 = ([1, 2, 3, 4, 5, 6, 7, 8, 9, 10, 11, 12].map (daysInMonth y)).sum := rfl
  rw [all, daysInMonth_list, daysInYear]
  split <;> rfl

/-- A later month starts after the whole of an earlier one. -/
theorem daysBeforeMonth_le_of_lt (y : Nat) {m n : Nat} (h : 1 ≤ m) (lt : m < n) :
    daysBeforeMonth y m + daysInMonth y m ≤ daysBeforeMonth y n := by
  induction n, lt using Nat.le_induction with
  | base => exact (daysBeforeMonth_succ y h).ge
  | succ n lt ih =>
    rw [daysBeforeMonth_succ y (by omega)]
    omega

/-! ## Days and dates (R4) -/

theorem Date.isReal_iff (d : Date) : d.isReal = true ↔ 2000 ≤ d.year ∧ d.year ≤ 2199 ∧ 1 ≤ d.month ∧ d.month ≤ 12 ∧ 1 ≤ d.day ∧
    d.day ≤ daysInMonth d.year d.month := by
  simp [Date.isReal, and_assoc]

theorem dateTimeOk_iff (d : DateTime) :
    Machine.dateTimeOk d = true ↔ d.date.isReal = true ∧ d.hour ≤ 23 ∧ d.minute ≤ 59 ∧ d.second ≤ 59 := by
  simp [Machine.dateTimeOk, and_assoc]

/-- The day of a year of a date within it lies within the year. -/
theorem daysBeforeMonth_add_le {y m k : Nat} (hm : 1 ≤ m) (hm' : m ≤ 12) (hk : k ≤ daysInMonth y m) :
    daysBeforeMonth y m + k ≤ daysInYear y := by
  have := daysBeforeMonth_le_of_lt y hm (show m < 13 by omega)
  rw [daysBeforeMonth_thirteen] at this
  omega

theorem splitYear_sound (fuel : Nat) : ∀ y n : Nat, 1 ≤ y → n < 365 * fuel →
    let p := splitYear fuel y n
    y ≤ p.1 ∧ dayOfYearStart p.1 + p.2 = dayOfYearStart y + n ∧ p.2 < daysInYear p.1 := by
  induction fuel with
  | zero => intro y n _ h; omega
  | succ fuel ih =>
    intro y n hy hn
    rw [splitYear]
    split
    · exact ⟨Nat.le_refl y, rfl, by assumption⟩
    · have len := daysInYear_ge y
      obtain ⟨le, day, lt⟩ := ih (y + 1) (n - daysInYear y) (by omega) (by omega)
      rw [dayOfYearStart_succ hy] at day
      exact ⟨by omega, by omega, lt⟩

theorem splitMonth_sound (fuel : Nat) : ∀ y m n : Nat, 1 ≤ m → m + fuel = 13 → daysBeforeMonth y m + n < daysInYear y →
    let p := splitMonth fuel y m n
    m ≤ p.1 ∧ p.1 ≤ 12 ∧ daysBeforeMonth y p.1 + p.2 = daysBeforeMonth y m + n ∧ p.2 < daysInMonth y p.1 := by
  induction fuel with
  | zero =>
    intro y m n _ hm h
    obtain rfl : m = 13 := by omega
    rw [daysBeforeMonth_thirteen] at h
    omega
  | succ fuel ih =>
    intro y m n hm hf h
    rw [splitMonth]
    split
    · exact ⟨Nat.le_refl m, by omega, rfl, by assumption⟩
    · have next := daysBeforeMonth_succ y hm
      obtain ⟨le, le', day, lt⟩ := ih y (m + 1) (n - daysInMonth y m) (by omega) (by omega) (by omega)
      exact ⟨by omega, le', by omega, lt⟩

/-- The date of a day number is numbered by it, its month and day within their lengths. -/
theorem dateOfDay_sound {n : Nat} (h : n < 109500) :
    let d := dateOfDay n
    2000 ≤ d.year ∧ 1 ≤ d.month ∧ d.month ≤ 12 ∧ 1 ≤ d.day ∧ d.day ≤ daysInMonth d.year d.month ∧ dayNumber d = n := by
  obtain ⟨year, day, rest⟩ := splitYear_sound 300 2000 n (by decide) h
  obtain ⟨month, month', dayOf, inMonth⟩ := splitMonth_sound 12 (splitYear 300 2000 n).1 1 (splitYear 300 2000 n).2
    (by decide) rfl (by rw [daysBeforeMonth_one]; omega)
  rw [daysBeforeMonth_one] at dayOf
  rw [dayOfYearStart_2000] at day
  refine ⟨year, month, month', Nat.le_add_left 1 _, inMonth, ?_⟩
  simp only [dayNumber, dateOfDay]
  omega

/-- A date of month and day within their lengths lies within its year. -/
theorem dayNumber_bounds {d : Date} (month : 1 ≤ d.month) (month' : d.month ≤ 12) (day : 1 ≤ d.day)
    (day' : d.day ≤ daysInMonth d.year d.month) :
    dayOfYearStart d.year ≤ dayNumber d ∧ dayNumber d < dayOfYearStart d.year + daysInYear d.year := by
  have := daysBeforeMonth_add_le month month' day'
  unfold dayNumber
  omega

theorem dayNumber_range {d : Date} (h : d.isReal = true) : 0 ≤ dayNumber d ∧ dayNumber d < 73049 := by
  obtain ⟨low, high, month, month', day, day'⟩ := d.isReal_iff.1 h
  obtain ⟨start, stop⟩ := dayNumber_bounds month month' day day'
  have last := dayOfYearStart_le_of_lt (z := 2200) (by omega) (Nat.lt_succ_of_le high)
  have first := dayOfYearStart_add (y := 2000) (by decide) (d.year - 2000)
  rw [dayOfYearStart_2200] at last
  rw [dayOfYearStart_2000, show 2000 + (d.year - 2000) = d.year by omega] at first
  omega

theorem dateOfDay_isReal {n : Nat} (h : n < 73049) : (dateOfDay n).isReal = true := by
  obtain ⟨year, month, month', day, day', number⟩ := dateOfDay_sound (n := n) (by omega)
  refine (Date.isReal_iff _).2 ⟨year, ?_, month, month', day, day'⟩
  by_contra late
  have start := (dayNumber_bounds month month' day day').1
  have first := dayOfYearStart_add (y := 2200) (by decide) ((dateOfDay n).year - 2200)
  rw [dayOfYearStart_2200, show 2200 + ((dateOfDay n).year - 2200) = (dateOfDay n).year by omega] at first
  omega

/-- Two real dates of one number are one date: neither year nor month can be the earlier. -/
theorem dayNumber_inj {c d : Date} (hc : c.isReal = true) (hd : d.isReal = true) (same : dayNumber c = dayNumber d) : c = d := by
  obtain ⟨cl, _, cm, cm', cd, cd'⟩ := c.isReal_iff.1 hc
  obtain ⟨dl, _, dm, dm', dd, dd'⟩ := d.isReal_iff.1 hd
  have cb := dayNumber_bounds cm cm' cd cd'
  have db := dayNumber_bounds dm dm' dd dd'
  have year : c.year = d.year := by
    rcases Nat.lt_trichotomy c.year d.year with lt | eq | lt
    · have := dayOfYearStart_le_of_lt (by omega) lt
      omega
    · exact eq
    · have := dayOfYearStart_le_of_lt (by omega) lt
      omega
  obtain ⟨y, m, k⟩ := c
  obtain ⟨y', m', k'⟩ := d
  obtain rfl : y = y' := year
  simp only [dayNumber] at same cm dm cd' dd' cd dd
  have month : m = m' := by
    rcases Nat.lt_trichotomy m m' with lt | eq | lt
    · have := daysBeforeMonth_le_of_lt y cm lt
      omega
    · exact eq
    · have := daysBeforeMonth_le_of_lt y dm lt
      omega
  subst month
  rw [show k = k' by omega]

theorem dateOfDay_dayNumber {d : Date} (h : d.isReal = true) : dateOfDay (dayNumber d).toNat = d := by
  obtain ⟨low, high⟩ := dayNumber_range h
  have small : (dayNumber d).toNat < 73049 := by omega
  refine dayNumber_inj (dateOfDay_isReal small) h ?_
  obtain ⟨-, -, -, -, -, number⟩ := dateOfDay_sound (n := (dayNumber d).toNat) (by omega)
  rw [number]
  omega

theorem weekdayIndex_succ (n : Int) : weekdayIndex (n + 1) = (weekdayIndex n + 1) % 7 := by
  unfold weekdayIndex
  omega

/-- Settles O13: a day is split into its year, month and day and numbered again. -/
theorem calendarIsGregorian : Obligations.CalendarIsGregorian := by
  unfold Obligations.CalendarIsGregorian
  refine ⟨fun n h => ⟨dateOfDay_isReal h, ?_⟩, fun d h => ?_, by decide, by decide, weekdayIndex_succ, isLeap_iff,
    daysInMonth_list, Date.isReal_iff, dateTimeOk_iff⟩
  · obtain ⟨-, -, -, -, -, number⟩ := dateOfDay_sound (n := n) (by omega)
    exact number
  · obtain ⟨low, high⟩ := dayNumber_range h
    exact ⟨low, high, dateOfDay_dayNumber h⟩

/-! ## The occurrences of a weekday in a month (R5) -/

theorem Weekday.index_lt (w : Weekday) : w.index < 7 := by cases w <;> decide

theorem dayNumber_day (y m k : Nat) : dayNumber ⟨y, m, k⟩ = dayNumber ⟨y, m, 1⟩ + k - 1 := by
  simp only [dayNumber]
  omega

/-- The first day of a month that falls on a weekday; the others of that weekday follow by sevens. -/
def firstWeekday (y m : Nat) (w : Weekday) : Nat := 1 + (w.index + 7 - weekdayIndex (dayNumber ⟨y, m, 1⟩)) % 7

theorem firstWeekday_le (y m : Nat) (w : Weekday) : 1 ≤ firstWeekday y m w ∧ firstWeekday y m w ≤ 7 := by
  unfold firstWeekday
  omega

theorem weekdayIndex_firstWeekday (y m : Nat) (w : Weekday) (k : Nat) :
    weekdayIndex (dayNumber ⟨y, m, firstWeekday y m w + 7 * k⟩) = w.index := by
  have bound := w.index_lt
  rw [dayNumber_day]
  unfold firstWeekday weekdayIndex
  omega

theorem nthWeekday_of_le {week : Nat} (y m : Nat) (w : Weekday) (h : week ≤ 4) :
    nthWeekday y m week w = firstWeekday y m w + 7 * (week - 1) := by
  unfold nthWeekday
  exact if_pos h

theorem nthWeekday_last (y m : Nat) (w : Weekday) :
    nthWeekday y m 5 w = firstWeekday y m w + 7 * ((daysInMonth y m - firstWeekday y m w) / 7) := rfl

/-- Settles O14: the first occurrence of a weekday falls on day 1 to 7, the others a week apart. -/
theorem nthWeekdayOfMonth : Obligations.NthWeekdayOfMonth := by
  unfold Obligations.NthWeekdayOfMonth
  refine ⟨fun y m w _ _ _ _ => ⟨fun week low high => ?_, ?_⟩, fun r y => ⟨rfl, rfl⟩, fun week day w months => ?_⟩
  · have first := firstWeekday_le y m w
    rw [nthWeekday_of_le y m w high]
    exact ⟨weekdayIndex_firstWeekday y m w _, by omega, by omega⟩
  · have first := firstWeekday_le y m w
    have long := daysInMonth_ge y m
    rw [nthWeekday_last]
    exact ⟨weekdayIndex_firstWeekday y m w _, by omega, by omega⟩
  · simp [Machine.recurs]

end Sys2Proof
end

section
/-! SET TIME: the reading of a local instant (R10) and the ways it takes effect (R11). -/

namespace Sys2Proof

theorem SummerRule.shift_true (r : SummerRule) : r.shift true = r.offset * 60 := rfl

theorem SummerRule.shift_false (r : SummerRule) : r.shift false = 0 := rfl

theorem readLocal_disabled {r : SummerRule} (h : r.enabled = false) (g : Int) : readLocal r g = some g := by
  simp [readLocal, h]

/-- The three readings of a local instant against an enabled rule. -/
theorem readLocal_summer {r : SummerRule} {g : Int} (h : r.enabled = true) (summer : summerAt r (g - (r.offset * 60 : Nat)) = true) :
    readLocal r g = some (g - (r.offset * 60 : Nat)) := by
  simp only [readLocal, h, summer, Bool.not_true, Bool.false_eq_true, if_false, if_true]

theorem readLocal_standard {r : SummerRule} {g : Int} (h : r.enabled = true)
    (summer : summerAt r (g - (r.offset * 60 : Nat)) = false) (standard : summerAt r g = false) : readLocal r g = some g := by
  simp only [readLocal, h, summer, standard, Bool.not_true, Bool.not_false, Bool.false_eq_true, if_false, if_true]

theorem readLocal_skipped {r : SummerRule} {g : Int} (h : r.enabled = true)
    (summer : summerAt r (g - (r.offset * 60 : Nat)) = false) (standard : summerAt r g = true) : readLocal r g = none := by
  simp only [readLocal, h, summer, standard, Bool.not_true, Bool.false_eq_true, if_false]

/-- A standard instant that shows the local instant `g` is the summer reading in summer, else the standard one. -/
theorem shows_cases {r : SummerRule} {g t : Int} (h : t + (r.shift (summerAt r t) : Nat) = g) :
    (summerAt r t = true ∧ t = g - (r.offset * 60 : Nat)) ∨ (summerAt r t = false ∧ t = g) := by
  cases summer : summerAt r t with
  | true =>
    rw [summer, r.shift_true] at h
    exact .inl ⟨rfl, by omega⟩
  | false =>
    rw [summer, r.shift_false] at h
    exact .inr ⟨rfl, by omega⟩

/-- What is read shows the local instant it was read from. -/
theorem readLocal_shows {r : SummerRule} {g t : Int} (h : r.enabled = true) (read : readLocal r g = some t) :
    t + (r.shift (summerAt r t) : Nat) = g := by
  cases summer : summerAt r (g - (r.offset * 60 : Nat)) with
  | true =>
    obtain rfl := Option.some.inj ((readLocal_summer h summer).symm.trans read)
    rw [summer, r.shift_true]
    omega
  | false =>
    cases standard : summerAt r g with
    | true => exact absurd read (by rw [readLocal_skipped h summer standard]; nofun)
    | false =>
      obtain rfl := Option.some.inj ((readLocal_standard h summer standard).symm.trans read)
      rw [standard, r.shift_false]
      omega

theorem readLocal_eq_none_iff {r : SummerRule} (h : r.enabled = true) (g : Int) :
    readLocal r g = none ↔ ∀ t : Int, t + (r.shift (summerAt r t) : Nat) ≠ g := by
  refine ⟨fun none t shows => ?_, fun none => ?_⟩
  · cases summer : summerAt r (g - (r.offset * 60 : Nat)) with
    | true => exact absurd none (by rw [readLocal_summer h summer]; nofun)
    | false =>
      obtain ⟨inSummer, rfl⟩ | ⟨inStandard, rfl⟩ := shows_cases shows
      · exact Bool.false_ne_true (summer.symm.trans inSummer)
      · exact absurd none (by rw [readLocal_standard h summer inStandard]; nofun)
  · cases read : readLocal r g with
    | none => rfl
    | some t => exact absurd (readLocal_shows h read) (none t)

namespace Machine

/-- R10: an instant, when it lies in the calendar range. -/
def instantInRange (t : Int) : Option Nat := if inRange t then some t.toNat else none

theorem instantInRange_eq_some_iff (t : Int) (x : Nat) : instantInRange t = some x ↔ x < 6311433600 ∧ (x : Int) = t := by
  unfold instantInRange
  split
  · rename_i inside
    have inside := of_decide_eq_true inside
    unfold Config.rangeEnd at inside
    rw [Option.some.injEq]
    omega
  · rename_i outside
    have outside := mt decide_eq_true outside
    unfold Config.rangeEnd at outside
    refine iff_of_false nofun ?_
    omega

theorem setTimeInstant_of_not_ok {d : DateTime} (h : dateTimeOk d ≠ true) (r : SummerRule) (basis : TimeBasis) :
    setTimeInstant r basis d = none := if_neg h

theorem setTimeInstant_standardTime {d : DateTime} (h : dateTimeOk d = true) (r : SummerRule) :
    setTimeInstant r .standardTime d = instantInRange d.instant := if_pos h

theorem setTimeInstant_localTime {d : DateTime} (h : dateTimeOk d = true) (r : SummerRule) :
    setTimeInstant r .localTime d = (readLocal r d.instant).bind instantInRange := by
  refine (if_pos h).trans ?_
  cases readLocal r d.instant <;> rfl

/-- Settles O12: of a local instant the summer reading is tried first, then the standard one. -/
theorem localReadingIsConsistent : Obligations.LocalReadingIsConsistent := by
  unfold Obligations.LocalReadingIsConsistent
  refine ⟨fun r g t => readLocal_shows, fun r g h => readLocal_eq_none_iff h g, ?_, fun r g h => readLocal_disabled h g, ?_⟩
  · intro r t u g h shows _ summer _
    obtain ⟨_, rfl⟩ | ⟨standard, _⟩ := shows_cases shows
    · exact readLocal_summer h summer
    · exact absurd (summer.symm.trans standard) nofun
  · intro r basis d x
    by_cases ok : dateTimeOk d = true
    · rw [and_iff_right ok]
      cases basis with
      | standardTime => exact setTimeInstant_standardTime ok r ▸ instantInRange_eq_some_iff _ x
      | localTime =>
        simp only [setTimeInstant_localTime ok, Option.bind_eq_some_iff, instantInRange_eq_some_iff]
        exact ⟨fun ⟨_, read, inside, same⟩ => ⟨inside, same ▸ read⟩, fun ⟨inside, read⟩ => ⟨x, read, inside, rfl⟩⟩
    · rw [setTimeInstant_of_not_ok ok]
      exact iff_of_false nofun fun ⟨yes, _⟩ => ok yes

end Machine
end Sys2Proof
end

section
/-! SET TIME: the ways it takes effect (R11) and what TIME SET brings. -/

namespace Sys2Proof.Machine

variable {s t : State}

theorem State.takeSetTime_time (s : State) (x : Nat) : (s.takeSetTime x).time = s.time.setTo x :=
  (s.takeSetTime_quiet (r := true) x).time

theorem State.takeSetTime_clock (s : State) (x : Nat) : (s.takeSetTime x).clock = s.clock :=
  (s.takeSetTime_quiet (r := true) x).clock

/-- R11: TIME SET reaches the dials, the Clock Program, the calendar and the standing list. -/
theorem State.takeSetTime_eq (s : State) (x : Nat) : s.takeSetTime x =
    let landed := State.landingMark (State.reconcileDials { s with time := s.time.setTo x })
    let jumped := if s.time.valid then landed.calendarJump true else landed.calendarFirstValidity
    jumped.endStandingEntries.settleContexts := by
  simp only [State.takeSetTime, State.announceTimeSet, TimeBase.setTo]
  cases s.time.valid
  · rw [if_pos Bool.not_false, if_neg Bool.false_ne_true]
  · rw [if_neg (by decide), if_pos rfl]

/-- R11: a SET TIME that takes effect and is answered. -/
theorem State.takeSetTime_answered (s : State) (x : Nat) (atMark : Bool) :
    s.TimeSetTo ((s.takeSetTime x).answerSetTime atMark) x atMark := by
  have time : ((s.takeSetTime x).answerSetTime atMark).time = s.time.setTo x :=
    (State.answer_time (s := s.takeSetTime x) _).trans (s.takeSetTime_time x)
  constructor
  case time => rw [time]; rfl
  case clock => exact (State.answer_clock (s := s.takeSetTime x) _).trans (s.takeSetTime_clock x)
  case noRequest => rfl
  case answer =>
    unfold State.answerSetTime
    rw [State.answer_waiting, State.localNow, s.takeSetTime_time]
    rfl
  case event =>
    rw [time]
    exact ⟨_, congrArg (State.answer · _) (s.takeSetTime_eq x)⟩

theorem State.workSetTime_none {basis : TimeBasis} {d : DateTime} (h : setTimeInstant s.time.settings.rule basis d = none) :
    s.workSetTime basis d = s.answer (reply .badField 0 0) := by
  unfold State.workSetTime
  rw [h]
  rfl

theorem State.workSetTime_atOnce {basis : TimeBasis} {d : DateTime} {x : Nat}
    (h : setTimeInstant s.time.settings.rule basis d = some x) (hm : s.time.settings.markEnable = false) :
    s.workSetTime basis d = (s.takeSetTime x).answerSetTime false := by
  unfold State.workSetTime
  rw [h]
  exact if_neg (by rw [hm]; nofun)

theorem State.workSetTime_waits {basis : TimeBasis} {d : DateTime} {x : Nat}
    (h : setTimeInstant s.time.settings.rule basis d = some x) (hm : s.time.settings.markEnable = true) :
    s.workSetTime basis d = State.deferRequest { s with time.setTimeWait := some { since := s.takenAt, instant := x } } := by
  unfold State.workSetTime
  rw [h]
  exact if_pos hm

theorem State.finishSetTime_eq {w : SetTimeWait} (h : s.time.setTimeWait = some w) (atMark : Bool) :
    s.finishSetTime atMark = (s.takeSetTime w.instant).answerSetTime atMark := by
  unfold State.finishSetTime
  rw [h]

theorem State.setTimeAtEdge_soon {w : SetTimeWait} (h : s.time.setTimeWait = some w) (soon : s.clock ≤ w.since + 65536) :
    s.setTimeAtEdge = (s.takeSetTime w.instant).answerSetTime true := by
  unfold State.setTimeAtEdge
  rw [if_pos (by rw [h, Option.any_some, decide_eq_true_eq]; exact soon), State.finishSetTime_eq h]

theorem State.setTimeAtEdge_late {w : SetTimeWait} (h : s.time.setTimeWait = some w) (late : w.since + 65536 < s.clock) :
    s.setTimeAtEdge = s := by
  unfold State.setTimeAtEdge
  rw [if_neg (by rw [h, Option.any_some, decide_eq_true_eq]; exact Nat.not_le.2 late)]

theorem State.setTimeAtTimeout_late {w : SetTimeWait} (h : s.time.setTimeWait = some w) (late : w.since + 65536 ≤ s.clock) :
    s.setTimeAtTimeout = (s.takeSetTime w.instant).answerSetTime false := by
  unfold State.setTimeAtTimeout
  rw [if_pos (by rw [h, Option.any_some, decide_eq_true_eq]; exact late), State.finishSetTime_eq h]

theorem State.setTimeAtTimeout_soon {w : SetTimeWait} (h : s.time.setTimeWait = some w) (soon : s.clock < w.since + 65536) :
    s.setTimeAtTimeout = s := by
  unfold State.setTimeAtTimeout
  rw [if_neg (by rw [h, Option.any_some, decide_eq_true_eq]; exact Nat.not_le.2 soon)]

theorem exec_setTime (h : s.HostReady) (dt : Nat) (basis : TimeBasis) (d : DateTime) :
    exec (.setTime dt basis d) s = .next (((s.elapse dt).working (.setTime basis d)).workSetTime basis d) :=
  happen_hostRequest h dt _

theorem exec_setTimeAtMarkEdge (h : s.time.power = .mains) (dt : Nat) :
    exec (.setTimeAtMarkEdge dt) s = .next (s.elapse dt).setTimeAtEdge := happen_mains dt h

theorem exec_setTimeMarkTimeout (h : s.time.power = .mains) (dt : Nat) :
    exec (.setTimeMarkTimeout dt) s = .next (s.elapse dt).setTimeAtTimeout := happen_mains dt h

/-- Settles O11: each way a SET TIME takes effect comes to `State.takeSetTime` and its announcement. -/
theorem setTimeTakesEffect : Obligations.SetTimeTakesEffect := by
  unfold Obligations.SetTimeTakesEffect
  intro s dt basis d e r
  refine ⟨fun ready none => ?_, fun x ready reads => ⟨fun mark => ?_, fun mark => ?_⟩, fun w mains waits => ?_⟩
  · rw [exec_setTime ready, State.workSetTime_none (s := e.working r) none]
  · rw [exec_setTime ready, State.workSetTime_atOnce (s := e.working r) reads mark]
    exact ⟨_, rfl, State.takeSetTime_answered _ x false⟩
  · rw [exec_setTime ready, State.workSetTime_waits (s := e.working r) reads mark]
    rfl
  · have waits : e.time.setTimeWait = some w := waits
    rw [exec_setTimeAtMarkEdge mains, exec_setTimeMarkTimeout mains]
    refine ⟨fun soon => ⟨_, congrArg _ (State.setTimeAtEdge_soon (s := e) waits soon), e.takeSetTime_answered _ true⟩,
      fun late => congrArg _ (State.setTimeAtEdge_late (s := e) waits late),
      fun late => ⟨_, congrArg _ (State.setTimeAtTimeout_late (s := e) waits late), e.takeSetTime_answered _ false⟩,
      fun soon => congrArg _ (State.setTimeAtTimeout_soon (s := e) waits soon)⟩

end Sys2Proof.Machine
end

section
/-! SECOND_END and SMARK_EDGE (R1, R3, R4, R7, R8, R12, R15): what a counted second brings, case by case. -/

namespace Sys2Proof.Machine

variable {s t : State}

/-! ## What the dials, the ambient line and the due list leave of the link -/

theorem State.tryImpulse_link (s : State) (i : Nat) : (s.tryImpulse i).link = s.link := by
  unfold State.tryImpulse
  split
  · split <;> rfl
  · rfl

theorem State.reconcile_link (s : State) (i : Nat) : (s.reconcile i).link = s.link := by
  unfold State.reconcile
  dsimp only
  split
  · rfl
  · split
    · rfl
    · split
      · exact State.tryImpulse_link _ i
      · rfl

theorem State.reconcileOrOwe_link (s : State) (i : Nat) : (s.reconcileOrOwe i).link = s.link := by
  unfold State.reconcileOrOwe
  dsimp only
  split
  · rfl
  · exact s.reconcile_link i

theorem State.reconcileDials_link (s : State) : s.reconcileDials.link = s.link :=
  eachIndex_same State.link (fun i s => s.reconcileOrOwe_link i) Config.dials s

theorem State.putOccasion_link (s : State) (i : Nat) (o : Occasion) : (s.putOccasion i o).link = s.link := by
  unfold State.putOccasion
  split <;> rfl

theorem State.loseDue_link (s : State) (i : Nat) : (s.loseDue i).link = s.link := by
  unfold State.loseDue
  split
  · rfl
  · split
    · exact State.putOccasion_link _ i _
    · rfl

theorem State.calendarTimeLost_link (s : State) : s.calendarTimeLost.link = s.link :=
  eachIndex_same State.link (fun i s => s.loseDue_link i) Config.occasions s

theorem State.sampleAmbient_link (s : State) : s.sampleAmbient.link = s.link := by
  unfold State.sampleAmbient
  split <;> rfl

theorem State.sampleAmbient_time (s : State) : s.sampleAmbient.time = s.time := (State.sampleAmbient_quiet (r := true) s).time

theorem State.sampleAmbient_none (h : s.ambientLine = none) : s.sampleAmbient = s := by
  unfold State.sampleAmbient
  rw [h]

theorem State.halfMinutes_time (s : State) : s.halfMinutes.time = s.time := (State.halfMinutes_quiet (r := true) s).time

/-- R142: with the time invalid no dusk passes on the table. -/
theorem State.passDusk_invalid (h : s.time.valid = false) : s.passDusk = s := by
  unfold State.passDusk
  rw [h]
  rfl

/-! ## The events of a local instant (R12) -/

theorem State.announceTimeOfDay_none (h : s.localNow % 30 ≠ 0) : s.announceTimeOfDay = s := by
  unfold State.announceTimeOfDay Config.quarterSeconds Config.daySeconds
  dsimp only
  rw [if_neg h, if_neg (by omega), if_neg (by omega)]

theorem State.announceTimeOfDay_halfMinute (h : s.localNow % 30 = 0) (hq : s.localNow % 900 ≠ 0) :
    s.announceTimeOfDay = s.halfMinutes := by
  unfold State.announceTimeOfDay Config.quarterSeconds Config.daySeconds
  dsimp only
  rw [if_pos h, if_neg hq, if_neg (by omega)]

theorem State.announceTimeOfDay_quarter (hq : s.localNow % 900 = 0) (hd : s.localNow % 86400 ≠ 0) :
    s.announceTimeOfDay = (s.halfMinutes.handleMark s.time.standard s.localNow).settleContexts := by
  unfold State.announceTimeOfDay Config.quarterSeconds Config.daySeconds
  dsimp only
  rw [if_pos (show s.localNow % 30 = 0 by omega), if_pos hq, if_neg hd, State.halfMinutes_time]

theorem State.announceTimeOfDay_midnight (hd : s.localNow % 86400 = 0) :
    s.announceTimeOfDay = (s.halfMinutes.handleMark s.time.standard s.localNow).settleContexts.workTableDusk := by
  unfold State.announceTimeOfDay Config.quarterSeconds Config.daySeconds
  dsimp only
  rw [if_pos (show s.localNow % 30 = 0 by omega), if_pos (show s.localNow % 900 = 0 by omega), if_pos hd, State.halfMinutes_time]

theorem State.markHandled_localNow (s : State) (a b : Nat) :
    (s.halfMinutes.handleMark a b).settleContexts.localNow = s.localNow := by
  have time : (s.halfMinutes.handleMark a b).settleContexts.time = s.time :=
    ((State.settleContexts_quiet (r := true) _).after ((State.handleMark_quiet _ _ _).after s.halfMinutes_quiet)).time
  rw [State.localNow, time]
  rfl

/-! ## Counting a second (R1, R4, R8, R12) -/

/-- The state at a SECOND: the second counted, the ambient line sampled and a dusk not confirmed by its T passed. -/
def State.secondAnnounced (s : State) : State :=
  (State.sampleAmbient { s with time := { s.time.advance with lastSecond := some s.clock } }).passDusk

theorem State.announceSecond_counted (s : State) :
    State.announceSecond { s with time := s.time.advance } = s.secondAnnounced := rfl

theorem State.secondAnnounced_time (s : State) :
    s.secondAnnounced.time = { s.time.advance with lastSecond := some s.clock } :=
  (State.passDusk_time _).trans (State.sampleAmbient_time _)

theorem State.secondAnnounced_localNow (s : State) :
    s.secondAnnounced.localNow = s.time.advance.standard + s.time.settings.rule.shift s.time.advance.summer := by
  rw [State.localNow, s.secondAnnounced_time]
  rfl

theorem TimeBase.advance_not_reserve {x : TimeBase} (h : x.power = .mains) : ¬x.advance.power = .reserve := by
  rw [show x.advance.power = x.power from rfl, h]
  nofun

theorem State.raiseIf_false (s : State) (c : Condition) : s.raiseIf false c = s := rfl

theorem State.raiseIf_true (s : State) (c : Condition) : s.raiseIf true c = s.raise c := rfl

/-- R12, R8: a second counted in MAINS within the calendar range. -/
theorem State.countSecond_mains (h : s.time.power = .mains) (hr : s.time.atRangeEnd = false) :
    s.countSecond = if s.time.advance.valid = false then s.secondAnnounced
      else if s.time.summer = s.time.advance.summer then s.secondAnnounced.announceTimeOfDay
      else s.secondAnnounced.announceSummer := by
  have time := s.secondAnnounced_time
  unfold State.countSecond
  dsimp only
  rw [hr, State.raiseIf_false]
  dsimp only
  rw [if_neg (TimeBase.advance_not_reserve h), if_neg Bool.false_ne_true]
  rw [s.announceSecond_counted, time]
  simp only [Bool.not_eq_true']

/-- R4: the second that ends the calendar range, counted in MAINS. -/
theorem State.countSecond_rangeEnd (h : s.time.power = .mains) (hr : s.time.atRangeEnd = true) :
    s.countSecond = (State.reconcileDials (State.sampleAmbient
      (State.raise { s with time := { s.time.advance with lastSecond := some s.clock } } .timeInvalid))).calendarTimeLost := by
  have invalid : s.time.advance.valid = false := by
    have := of_decide_eq_true hr
    simp only [TimeBase.advance]
    simp only [Nat.not_lt.2 this, decide_false, Bool.and_false]
  unfold State.countSecond
  dsimp only
  rw [hr, State.raiseIf_true, State.raise_time]
  dsimp only
  rw [if_neg (TimeBase.advance_not_reserve h), if_pos rfl]
  unfold State.announceTimeLost State.announceSecond
  dsimp only
  rw [State.passDusk_invalid]
  · rfl
  · rw [State.sampleAmbient_time]
    exact invalid

theorem State.countSecond_congr (h : ({ s with time := s.time.advance } : State) = { t with time := t.time.advance })
    (hr : s.time.atRangeEnd = t.time.atRangeEnd) (hs : s.time.summer = t.time.summer) : s.countSecond = t.countSecond := by
  unfold State.countSecond
  dsimp only
  rw [h, hr, hs]

/-- The prescaler a second ends with is not read by it. -/
theorem State.countSecond_prescaler (s : State) (n : Nat) : State.countSecond { s with time.prescaler := n } = s.countSecond :=
  State.countSecond_congr rfl rfl rfl

/-- R1, R4, R7: the Time Base a counted second leaves, but for the moment of the SECOND. -/
theorem State.countSecond_time (s : State) : s.countSecond.time = { s.time.advance with lastSecond := s.countSecond.time.lastSecond } := by
  obtain ⟨m, quiet⟩ := s.countSecond_quiet (r := true)
  rw [quiet.time]

theorem State.countSecond_clock (s : State) : s.countSecond.clock = s.clock := by
  obtain ⟨m, quiet⟩ := s.countSecond_quiet (r := true)
  rw [quiet.clock]

/-- R4: the end of the calendar range raises TIME INVALID. -/
theorem State.countSecond_timeInvalid (hr : s.time.atRangeEnd = true) :
    s.countSecond.link.flags.getLsbD 10 = true ∧ s.countSecond.link.fresh.getLsbD 10 = true := by
  have link : s.countSecond.link = (s.raise .timeInvalid).link := by
    cases power : s.time.power with
    | reserve => rw [State.countSecond_reserve power, hr]; rfl
    | mains =>
      rw [State.countSecond_rangeEnd power hr, State.calendarTimeLost_link, State.reconcileDials_link, State.sampleAmbient_link]
      rfl
  rw [link, State.raise_flags, State.raise_fresh]
  simp [Condition.only, Condition.bit]

theorem State.countSecond_reserve_inRange (h : s.time.power = .reserve) (hr : s.time.atRangeEnd = false) :
    s.countSecond = { s with time := s.time.advance } := by
  rw [State.countSecond_reserve h, hr, State.raiseIf_false]

/-! ## The Time Base of a counted second -/

/-- R1, R4, R7: a counted second in the figures of the rules. -/
theorem TimeBase.advance_eq (t : TimeBase) : t.advance =
    let standard := if t.standard + 1 < 6311433600 then t.standard + 1 else 0
    let cycle := (t.trimCycle + 1) % 32
    { t with prescaler := 0, trimCycle := cycle
             secondLength := if cycle = 31 then (32768 - t.settings.trim).toNat else 32768
             trimInUse := if cycle = 31 then t.settings.trim else t.trimInUse
             standard := standard, summer := summerAt t.settings.rule standard, valid := t.valid && standard != 0 } := by
  have valid : (t.valid && decide (t.standard + 1 < Config.rangeEnd))
      = (t.valid && (if t.standard + 1 < Config.rangeEnd then t.standard + 1 else 0) != 0) := by
    split
    · rename_i inside
      rw [decide_eq_true inside]
      rfl
    · rename_i outside
      rw [decide_eq_false outside]
      rfl
  simp only [TimeBase.advance, valid]
  rfl

theorem TimeBase.atRangeEnd_iff (t : TimeBase) : t.atRangeEnd = true ↔ t.advance.standard = 0 := by
  simp only [TimeBase.atRangeEnd, TimeBase.advance, decide_eq_true_eq]
  split <;> omega

/-! ## The commands -/

theorem exec_secondEnd (dt : Nat) (s : State) : exec (.secondEnd dt) s = .next (s.elapse dt).endSecond := rfl

theorem exec_smarkEdge (dt : Nat) (s : State) : exec (.smarkEdge dt) s = .next (s.elapse dt).alignToMark := rfl

/-- R1: before the prescaler has reached the length of the second. -/
theorem State.endSecond_early {dt : Nat} (h : s.time.prescaler + dt < s.time.secondLength) :
    (s.elapse dt).endSecond = s.elapse dt :=
  if_neg (show ¬s.time.secondLength ≤ min s.time.secondLength (s.time.prescaler + dt) by omega)

theorem State.endSecond_due {dt : Nat} (h : s.time.secondLength ≤ s.time.prescaler + dt) :
    (s.elapse dt).endSecond = (s.elapse dt).countSecond :=
  if_pos (show s.time.secondLength ≤ min s.time.secondLength (s.time.prescaler + dt) by omega)

/-- R3: an edge that does not count. -/
theorem State.alignToMark_ignored (h : s.time.settings.markEnable = false ∨ s.time.setTimeWait ≠ none) : s.alignToMark = s := by
  refine if_neg fun ⟨enabled, free⟩ => ?_
  rcases h with disabled | waits
  · exact Bool.false_ne_true (disabled.symm.trans enabled)
  · exact waits free

section
variable (enabled : s.time.settings.markEnable = true) (free : s.time.setTimeWait = none)
include enabled free

theorem State.alignToMark_restart (h : s.time.prescaler ≤ 8192) :
    s.alignToMark = { s with time.prescaler := 0, time.lastAlignment := some (s.time.prescaler : Int) } :=
  (if_pos ⟨enabled, free⟩).trans (if_pos h)

theorem State.alignToMark_end (h : 8192 < s.time.prescaler) (near : s.time.secondLength ≤ s.time.prescaler + 8192) :
    s.alignToMark = State.countSecond
      { s with time.lastAlignment := some (-((s.time.secondLength : Int) - s.time.prescaler)) } :=
  (if_pos ⟨enabled, free⟩).trans ((if_neg (Nat.not_le.2 h)).trans
    (if_pos (show s.time.secondLength - 8192 ≤ s.time.prescaler by omega)))

theorem State.alignToMark_between (h : 8192 < s.time.prescaler) (far : s.time.prescaler + 8192 < s.time.secondLength) :
    s.alignToMark = s :=
  (if_pos ⟨enabled, free⟩).trans ((if_neg (Nat.not_le.2 h)).trans
    (if_neg (show ¬s.time.secondLength - 8192 ≤ s.time.prescaler by omega)))

end

/-- Settles O10: each case is one branch of `State.countSecond` and of `State.announceTimeOfDay`. -/
theorem secondsAreCountedAndAligned : Obligations.SecondsAreCountedAndAligned := by
  unfold Obligations.SecondsAreCountedAndAligned
  refine ⟨fun s dt => ?_, fun s day => rfl, fun s dt => ?_⟩
  · intro e standard cycle after counted local_
    have advance : e.time.advance = after := TimeBase.advance_eq e.time
    have announced : e.secondAnnounced = counted := by
      unfold State.secondAnnounced
      rw [advance]
    have localNow : counted.localNow = local_ := by
      rw [← announced, State.secondAnnounced_localNow, advance]
      rfl
    have countedStandard : counted.time.standard = standard := by
      rw [← announced, State.secondAnnounced_time, advance]
    have inRange (h : standard ≠ 0) : e.time.atRangeEnd = false := by
      rw [Bool.eq_false_iff, Ne, TimeBase.atRangeEnd_iff, advance]
      exact h
    have atEnd (h : standard = 0) : e.time.atRangeEnd = true := by
      rw [TimeBase.atRangeEnd_iff, advance]
      exact h
    have valid (h : standard ≠ 0) : e.time.advance.valid = s.time.valid := by
      rw [advance]
      exact (congrArg (s.time.valid && ·) (bne_iff_ne.2 h)).trans (Bool.and_true _)
    have invalidSecond (power : e.time.power = .mains) (h : standard ≠ 0) (no : s.time.valid = false) :
        e.countSecond = counted := by
      rw [State.countSecond_mains power (inRange h), if_pos ((valid h).trans no), announced]
    have plainSecond (power : e.time.power = .mains) (h : standard ≠ 0) (yes : s.time.valid = true)
        (same : after.summer = s.time.summer) : e.countSecond = counted.announceTimeOfDay := by
      rw [State.countSecond_mains power (inRange h), if_neg (by rw [valid h, yes]; nofun), announced, advance,
        if_pos (show e.time.summer = after.summer from same.symm)]
    refine ⟨fun early => ?_, fun due => ?_⟩
    · rw [exec_secondEnd, State.endSecond_early early]
    rw [exec_secondEnd, State.endSecond_due due]
    refine ⟨⟨_, rfl, ?_, State.countSecond_clock e, fun h => State.countSecond_timeInvalid (atEnd h)⟩, fun power h => ?_,
      fun power h ambient same off => ?_, fun power h => ⟨fun no => ?_, fun yes same => ⟨fun off => ?_, fun half off => ?_,
        fun quarter off => ?_, fun midnight => ?_⟩, fun yes changed => ?_⟩, fun power h => ?_⟩
    · rw [← advance]
      exact State.countSecond_time e
    · rw [State.countSecond_reserve_inRange (s := e) power (inRange h), advance]
    · have dark : counted = State.passDusk { e with time := { after with lastSecond := some e.clock } } :=
        congrArg State.passDusk (State.sampleAmbient_none ambient)
      cases on : s.time.valid with
      | false => rw [invalidSecond power h on, dark]
      | true =>
        have off : local_ % 30 ≠ 0 := off.resolve_left (by rw [on]; nofun)
        rw [plainSecond power h on same, State.announceTimeOfDay_none (localNow ▸ off), dark]
    · rw [invalidSecond power h no]
    · rw [plainSecond power h yes same, State.announceTimeOfDay_none (localNow ▸ off)]
    · rw [plainSecond power h yes same, State.announceTimeOfDay_halfMinute (localNow ▸ half) (localNow ▸ off)]
    · rw [plainSecond power h yes same, State.announceTimeOfDay_quarter (localNow ▸ quarter) (localNow ▸ off), localNow,
        countedStandard]
    · refine ⟨_, rfl, ?_⟩
      rw [plainSecond power h yes same, State.announceTimeOfDay_midnight (localNow ▸ midnight), localNow, countedStandard]
      unfold State.workTableDusk State.today
      rw [State.markHandled_localNow, localNow]
      rfl
    · rw [State.countSecond_mains (s := e) power (inRange h), if_neg (by rw [valid h, yes]; nofun), announced, advance,
        if_neg (show e.time.summer ≠ after.summer from changed.symm)]
      rfl
    · rw [State.countSecond_rangeEnd (s := e) power (atEnd h), advance]
  · intro e p l
    refine ⟨fun enabled free => ⟨fun start => ?_, fun after near => ?_, fun after far => ?_⟩, fun h => ?_⟩
    · rw [exec_smarkEdge, State.alignToMark_restart (s := e) enabled free start]
    · rw [exec_smarkEdge, State.alignToMark_end (s := e) enabled free after near, exec_secondEnd,
        State.endSecond_due (Nat.le_refl _), Int.neg_sub]
      exact congrArg _ (State.countSecond_prescaler { e with time.lastAlignment := some ((p : Int) - (l : Int)) } _).symm
    · rw [exec_smarkEdge, State.alignToMark_between (s := e) enabled free after far]
    · rw [exec_smarkEdge, State.alignToMark_ignored (s := e) h]

end Sys2Proof.Machine
end

section
/-! The reset values (R33 to R35, R50, R58, R71, R87, R110, R121, R145, R146, R149, R167, R187, R188): what each block's part of a
reset sets and what it leaves, and the values every block takes together. -/

namespace Sys2Proof.Machine

variable {s t : State}

/-! ## Acts for each index that read more than their own record -/

/-- Acts of which each changes its own record by a function of it, while `R`, which all of them keep, holds. -/
theorem eachIndex_own_while {α : Type} (read : State → Nat → α) (f : Nat → α → α) {act : Nat → State → State} {size : Nat}
    (R : State → Prop) (kept : ∀ i u, R u → R (act i u)) (own : ∀ i u, R u → i < size → read (act i u) i = f i (read u i))
    (others : ∀ i j u, i ≠ j → read (act i u) j = read u j) {n : Nat} (hn : n ≤ size) (hs : R s) (j : Nat) :
    R (eachIndex n act s) ∧ read (eachIndex n act s) j = if j < n then f j (read s j) else read s j := by
  induction n with
  | zero => exact ⟨hs, rfl⟩
  | succ n ih =>
    rw [eachIndex_succ]
    obtain ⟨holds, before⟩ := ih (Nat.le_of_succ_le hn)
    refine ⟨kept _ _ holds, ?_⟩
    by_cases e : n = j
    · subst e
      rw [own _ _ holds (by omega), before, if_neg (Nat.lt_irrefl n), if_pos (Nat.lt_succ_self n)]
    · rw [others _ _ _ e, before]
      exact if_congr (by omega) rfl rfl

/-! ## Bells (R50) -/

/-- R46: one of the locking conditions holds for a bell of a configuration. -/
def State.locks (s : State) (i : Nat) (c : BellConfig) : Bool :=
  c.hostLock || s.keyActive i || (s.ringingActive && c.group == .ring)

theorem State.lockHeld_eq (s : State) (i : Nat) : s.lockHeld i = s.locks i (s.bell i).config := rfl

theorem State.lineActive_of_lines (h : t.lines = s.lines) (f : LineFunction) (i : Nat) : t.lineActive f i = s.lineActive f i := by
  unfold State.lineActive
  rw [h]

theorem State.locks_of_lines (h : t.lines = s.lines) (i : Nat) (c : BellConfig) : t.locks i c = s.locks i c := by
  unfold State.locks State.keyActive State.ringingActive
  rw [State.lineActive_of_lines h, h]

theorem State.nowMs_of_clock (h : t.clock = s.clock) : t.nowMs = s.nowMs := by
  unfold State.nowMs
  rw [h]

/-- R50: a bell at a reset, its locks and its rest contact as the lines show them. -/
def State.freshBell (s : State) (i : Nat) (b : Bell) : Bell :=
  { b with swing := if s.locks i b.config then .locked else freshSwing b.config, halfSwing := none, lastPulse := none
           restClosedSince := if s.restClosed i then some s.nowMs else none, entered := s.nowMs, quietUntil := none, motor := .off
           lastOutcome := none }

theorem State.resetBell_eq (s : State) (i : Nat) : s.resetBell i = s.setBell i (s.freshBell i (s.bell i)) := rfl

theorem State.freshBell_congr (lines : t.lines = s.lines) (clock : t.clock = s.clock) (i : Nat) (b : Bell) :
    t.freshBell i b = s.freshBell i b := by
  unfold State.freshBell State.restClosed
  rw [State.locks_of_lines lines, State.lineActive_of_lines lines, State.nowMs_of_clock clock]

/-- What the reset of the bells changes. -/
structure State.BellsReset (s t : State) : Prop where
  frame : t = { s with bells := t.bells }
  bells : ∀ i, i < 40 → t.bell i = s.freshBell i (s.bell i)

theorem State.resetBells_reset (s : State) : s.BellsReset s.resetBells := by
  have whole (i : Nat) := eachIndex_own_while (s := s) (act := fun i s => s.resetBell i) (size := Config.bells)
    (fun u i => u.bell i) (fun i => s.freshBell i) (fun u => u = { s with bells := u.bells })
    (fun i u h => congrArg (fun x : State => { x with bells := (u.resetBell i).bells }) h)
    (fun i u h hi => by
      rw [u.resetBell_eq, State.bell_setBell_same _ _ _ hi]
      exact State.freshBell_congr (congrArg State.lines h) (congrArg State.clock h) i _)
    (fun i j u hij => State.bell_setBell_other _ _ _ _ hij) (Nat.le_refl _) rfl i
  unfold State.resetBells
  generalize eachIndex Config.bells _ _ = t at whole ⊢
  exact ⟨(whole 0).1, fun i hi => (whole i).2.trans (if_pos hi)⟩

/-! ## Tunes (R87) -/

/-- R87: a tune slot at a reset. -/
def Slot.tuneReset (x : Slot Tune) : Slot Tune :=
  if x.record.any (fun t => t.state == .retiring) then { x with record := none } else x

theorem State.freeTune_tuneSlot (s : State) (i : Nat) (h : i < Config.tunes) :
    (s.freeTune i).tuneSlot i = { s.tuneSlot i with record := none } := by
  unfold State.freeTune
  split
  · rename_i none
    rw [← none]
  · exact State.tuneSlot_setTuneSlot_same _ i _ h

theorem State.freeTune_other (s : State) {i j : Nat} (h : i ≠ j) : (s.freeTune i).tuneSlot j = s.tuneSlot j := by
  unfold State.freeTune
  split
  · rfl
  · exact State.tuneSlot_setTuneSlot_other _ i j _ h

theorem State.freeIfRetiring_tuneSlot (s : State) (i : Nat) (h : i < Config.tunes) :
    (s.freeIfRetiring i).tuneSlot i = (s.tuneSlot i).tuneReset := by
  unfold State.freeIfRetiring Slot.tuneReset
  split
  · exact s.freeTune_tuneSlot i h
  · rfl

theorem State.freeIfRetiring_other (s : State) {i j : Nat} (h : i ≠ j) : (s.freeIfRetiring i).tuneSlot j = s.tuneSlot j := by
  unfold State.freeIfRetiring
  split
  · exact s.freeTune_other h
  · rfl

/-- The freeing of a tune changes its slot, the pool and record memory. -/
theorem State.freeIfRetiring_frame (s : State) (i : Nat) : s.freeIfRetiring i =
    { s with tunes := { (s.freeIfRetiring i).tunes with chimeMap := s.tunes.chimeMap }, memory := (s.freeIfRetiring i).memory } := by
  unfold State.freeIfRetiring State.freeTune
  split
  · split <;> rfl
  · rfl

/-- What the reset of the tunes changes. -/
structure State.TunesReset (s t : State) : Prop where
  frame : t = { s with tunes := { t.tunes with chimeMap := s.tunes.chimeMap }, memory := t.memory }
  slots : ∀ i, i < 64 → t.tuneSlot i = (s.tuneSlot i).clearRefs.tuneReset

theorem State.resetTunes_reset (s : State) : s.TunesReset s.resetTunes := by
  have whole (i : Nat) := eachIndex_own_while (s := { s with tunes.slots := s.tunes.slots.map Slot.clearRefs })
    (act := fun i s => s.freeIfRetiring i) (size := Config.tunes)
    (fun u i => u.tuneSlot i) (fun _ => Slot.tuneReset)
    (fun u => u = { s with tunes := { u.tunes with chimeMap := s.tunes.chimeMap }, memory := u.memory })
    (fun i u h => (u.freeIfRetiring_frame i).trans (congrArg (fun x : State =>
      { x with tunes := { (u.freeIfRetiring i).tunes with chimeMap := x.tunes.chimeMap }
               memory := (u.freeIfRetiring i).memory }) h))
    (fun i u _ hi => u.freeIfRetiring_tuneSlot i hi) (fun i j u hij => u.freeIfRetiring_other hij) (Nat.le_refl _) rfl i
  unfold State.resetTunes
  generalize eachIndex Config.tunes _ _ = t at whole ⊢
  refine ⟨(whole 0).1, fun i hi => (whole i).2.trans ((if_pos hi).trans (congrArg Slot.tuneReset ?_))⟩
  exact getD_map_vector_of_lt s.tunes.slots Slot.clearRefs hi _ _

/-! ## The calendar (R145, R146) -/

/-- R145, R146: an occasion slot at a reset. -/
def Slot.occasionReset (cold keepDue : Bool) (x : Slot Occasion) : Slot Occasion :=
  match x.record with
  | none => x
  | some o => { x with record := if o.state = .retiring then none else some (o.afterReset cold keepDue) }

theorem State.putOccasion_occasionSlot (s : State) (i : Nat) (o : Occasion) (h : i < Config.occasions) :
    (s.putOccasion i o).occasionSlot i = { s.occasionSlot i with record := some o } := by
  unfold State.putOccasion
  split
  · rename_i same
    rw [← same]
  · exact State.occasionSlot_setOccasionSlot_same _ i _ h

theorem State.putOccasion_other (s : State) {i j : Nat} (o : Occasion) (h : i ≠ j) :
    (s.putOccasion i o).occasionSlot j = s.occasionSlot j := by
  unfold State.putOccasion
  split
  · rfl
  · exact State.occasionSlot_setOccasionSlot_other _ i j _ h

theorem State.resetOccasion_occasionSlot (s : State) (cold keepDue : Bool) (i : Nat) (h : i < Config.occasions) :
    (s.resetOccasion cold keepDue i).occasionSlot i = (s.occasionSlot i).occasionReset cold keepDue := by
  unfold State.resetOccasion Slot.occasionReset
  cases (s.occasionSlot i).record with
  | none => rfl
  | some o =>
    dsimp only
    split
    · exact State.occasionSlot_setOccasionSlot_same _ i _ h
    · exact s.putOccasion_occasionSlot i _ h

theorem State.resetOccasion_other (s : State) (cold keepDue : Bool) {i j : Nat} (h : i ≠ j) :
    (s.resetOccasion cold keepDue i).occasionSlot j = s.occasionSlot j := by
  unfold State.resetOccasion
  split
  · rfl
  · split
    · exact State.occasionSlot_setOccasionSlot_other _ i j _ h
    · exact s.putOccasion_other _ h

/-- `t` is `s` but for the occasion slots and record memory. -/
abbrev State.OnlyOccasions (s t : State) : Prop :=
  t = { s with calendar.slots := t.calendar.slots, memory := t.memory }

theorem State.OnlyOccasions.trans {u : State} (h : s.OnlyOccasions t) (k : t.OnlyOccasions u) : s.OnlyOccasions u :=
  Eq.trans k (congrArg (fun x : State => { x with calendar.slots := u.calendar.slots, memory := u.memory }) h)

theorem State.resetOccasion_onlyOccasions (s : State) (cold keepDue : Bool) (i : Nat) :
    s.OnlyOccasions (s.resetOccasion cold keepDue i) := by
  unfold State.OnlyOccasions State.resetOccasion State.putOccasion
  split
  · rfl
  · split
    · rfl
    · split <;> rfl

/-- What the reset of the calendar changes. -/
structure State.CalendarReset (s t : State) (cold : Bool) : Prop where
  frame : t = { s with calendar := t.calendar, memory := t.memory }
  slots : ∀ i, i < 256 → t.occasionSlot i = (s.occasionSlot i).occasionReset cold (!cold && s.time.valid)
  calendar : t.calendar = { s.calendar with
    slots := t.calendar.slots, contexts := Vector.replicate Config.contexts none, window := [], belowSince := none
    zeroSince := none, fullSince := none, tableDusk := { day := s.today, instant := s.tableDuskOf s.today }, confirmed := none
    duskPassed := if s.time.valid = true ∧ s.tableDuskOf s.today < s.time.standard then [s.today] else [] }

/-- R142, R145: the values of the calendar apart from the occasions, before a dusk already past passes on the table. -/
def State.calendarCleared (s : State) : State :=
  State.workTableDusk (State.emptyWindow { s with
    calendar.contexts := Vector.replicate Config.contexts none, calendar.confirmed := none, calendar.duskPassed := [] })

/-- R142: the table dusk of the day passes when it lies before the standard instant. -/
theorem State.calendarCleared_passDusk (s : State) : s.calendarCleared.passDusk.calendar = { s.calendar with
    contexts := Vector.replicate Config.contexts none, window := [], belowSince := none, zeroSince := none, fullSince := none
    tableDusk := { day := s.today, instant := s.tableDuskOf s.today }, confirmed := none
    duskPassed := if s.time.valid = true ∧ s.tableDuskOf s.today < s.time.standard then [s.today] else [] } := by
  have passes : (if s.time.valid && decide (s.tableDuskOf s.today < s.time.standard) && true && true then [s.today] else [])
      = if s.time.valid = true ∧ s.tableDuskOf s.today < s.time.standard then [s.today] else [] := by
    simp only [Bool.and_true, Bool.and_eq_true, decide_eq_true_eq]
  rw [← passes]
  rfl

theorem State.calendarCleared_frame (s : State) :
    s.calendarCleared.passDusk = { s with calendar := s.calendarCleared.passDusk.calendar } := rfl

/-- The day and its table dusk are not the occasions'. -/
theorem State.OnlyOccasions.calendarReset {cold : Bool} (h : s.OnlyOccasions t)
    (slots : ∀ i, i < 256 → t.occasionSlot i = (s.occasionSlot i).occasionReset cold (!cold && s.time.valid)) :
    s.CalendarReset t.calendarCleared.passDusk cold where
  frame := t.calendarCleared_frame.trans
    (congrArg (fun x : State => { x with calendar := t.calendarCleared.passDusk.calendar, memory := t.memory }) h)
  slots := slots
  calendar := by
    have calendar : t.calendar = { s.calendar with slots := t.calendar.slots } := (congrArg State.calendar h :)
    have time : t.time = s.time := (congrArg State.time h :)
    have today : t.today = s.today := by rw [State.today, State.localNow, time]; rfl
    have dusk (d : Nat) : t.tableDuskOf d = s.tableDuskOf d := by rw [State.tableDuskOf, calendar]; rfl
    rw [State.calendarCleared_passDusk, today, dusk, time]
    exact congrArg (fun x : Calendar => { x with
      contexts := Vector.replicate Config.contexts none, window := [], belowSince := none, zeroSince := none, fullSince := none
      tableDusk := { day := s.today, instant := s.tableDuskOf s.today }, confirmed := none
      duskPassed := if s.time.valid = true ∧ s.tableDuskOf s.today < s.time.standard then [s.today] else [] }) calendar

theorem State.resetCalendar_reset (s : State) (cold : Bool) : s.CalendarReset (s.resetCalendar cold) cold := by
  have whole (i : Nat) := eachIndex_own_while (s := s) (act := fun i u => u.resetOccasion cold (!cold && s.time.valid) i)
    (size := Config.occasions) (fun u i => u.occasionSlot i) (fun _ => Slot.occasionReset cold (!cold && s.time.valid))
    s.OnlyOccasions (fun i u h => h.trans (u.resetOccasion_onlyOccasions cold _ i))
    (fun i u h hi => by
      rw [u.resetOccasion_occasionSlot cold _ i hi])
    (fun i j u hij => u.resetOccasion_other cold _ hij) (Nat.le_refl _) rfl i
  unfold State.resetCalendar
  dsimp only
  generalize eachIndex Config.occasions _ _ = t at whole ⊢
  exact State.OnlyOccasions.calendarReset (whole 0).1 fun i hi => (whole i).2.trans (if_pos hi)

/-! ## The mixer (R149, R167) -/

/-- R167: a scene slot at a reset. -/
def Slot.sceneReset (x : Slot Scene) : Slot Scene :=
  if x.record.any (fun x => x.state == .retiring) then { x with record := none } else x

theorem State.freeSceneIfRetiring_sceneSlot (s : State) (i : Nat) (h : i < Config.scenes) :
    (s.freeSceneIfRetiring i).sceneSlot i = (s.sceneSlot i).sceneReset := by
  unfold State.freeSceneIfRetiring Slot.sceneReset
  split
  · exact State.sceneSlot_setSceneSlot_same _ i _ h
  · rfl

theorem State.freeSceneIfRetiring_other (s : State) {i j : Nat} (h : i ≠ j) :
    (s.freeSceneIfRetiring i).sceneSlot j = s.sceneSlot j := by
  unfold State.freeSceneIfRetiring
  split
  · exact State.sceneSlot_setSceneSlot_other _ i j _ h
  · rfl

theorem State.freeSceneIfRetiring_frame (s : State) (i : Nat) : s.freeSceneIfRetiring i =
    { s with mixer.scenes := (s.freeSceneIfRetiring i).mixer.scenes, memory := (s.freeSceneIfRetiring i).memory } := by
  unfold State.freeSceneIfRetiring
  split <;> rfl

/-- R149, R167: the mixer at a reset, its scenes apart. -/
def Mixer.afterReset (m : Mixer) (clock : Nat) : Mixer :=
  { m with layers := [], computed := none, raiseSequence := 0, nextFrame := 0, frameMark := clock / Config.countsPerFrame
           channels := m.channels.map fun c => { c with levels := Levels.dark } }

/-- What the reset of the mixer changes. -/
structure State.MixerReset (s t : State) : Prop where
  frame : t = { s with mixer := { s.mixer.afterReset s.clock with scenes := t.mixer.scenes }, memory := t.memory }
  scenes : ∀ i, i < 32 → t.sceneSlot i = (s.sceneSlot i).sceneReset

theorem State.resetMixer_reset (s : State) : s.MixerReset s.resetMixer := by
  have whole (i : Nat) := eachIndex_own_while (s := { s with mixer := s.mixer.afterReset s.clock })
    (act := fun i s => s.freeSceneIfRetiring i) (size := Config.scenes)
    (fun u i => u.sceneSlot i) (fun _ => Slot.sceneReset)
    (fun u => u = { s with mixer := { s.mixer.afterReset s.clock with scenes := u.mixer.scenes }, memory := u.memory })
    (fun i u h => (u.freeSceneIfRetiring_frame i).trans (congrArg (fun x : State =>
      { x with mixer.scenes := (u.freeSceneIfRetiring i).mixer.scenes, memory := (u.freeSceneIfRetiring i).memory }) h))
    (fun i u _ hi => u.freeSceneIfRetiring_sceneSlot i hi) (fun i j u hij => u.freeSceneIfRetiring_other hij) (Nat.le_refl _) rfl i
  unfold State.resetMixer
  unfold Mixer.afterReset at whole
  dsimp only
  generalize eachIndex Config.scenes _ _ = t at whole ⊢
  exact ⟨(whole 0).1, fun i hi => (whole i).2.trans (if_pos hi)⟩

end Sys2Proof.Machine
end

section
/-! A reset as a whole (R17, R33 to R35, R50, R71, R87, R110, R121, R145, R146, R167, R187, R188), and the two returns of the supply
(R16, R17). -/

namespace Sys2Proof.Machine

variable {s t : State}

/-! ## The values every block takes -/

/-- R58, R70: the hammers at a reset. -/
def State.strokesReset (s : State) : State := { s.restStrokes with hammers.gate := .closed }

/-- R110, R121: the chimes and the Clock Program at a reset. -/
def State.programReset (s : State) (cold : Bool) : State :=
  { s.resetChime with program := s.resetChime.program.afterReset cold }

/-- R177, R187, R188: the Feeder Account and the link at a reset. -/
def State.linkReset (s : State) : State := State.resetLink { s with feeder := s.feeder.afterReset }

theorem State.takeResetValues_eq (s : State) (cold keepStart : Bool) : s.takeResetValues cold keepStart =
    ((((s.resetLines.resetDials keepStart).resetBells.strokesReset.resetTunes.programReset cold).resetCalendar
      cold).resetMixer).linkReset := by
  unfold State.takeResetValues
  rfl

theorem getD_ofFn_vector {α : Type} {n i : Nat} (f : Fin n → α) (h : i < n) (d : α) : (Vector.ofFn f).getD i d = f ⟨i, h⟩ := by
  simp [getD_eq_getElem?, h]

theorem Dial.afterReset_eq (d : Dial) (keepStart : Bool) : d.afterReset keepStart = { d with
    state := if d.service = false then .off else if d.fault = none then .waitTime else .fault
    impulse := none, owed := false, lastStart := if keepStart then d.lastStart else none } := by
  unfold Dial.afterReset
  cases d.service <;> cases d.fault <;> rfl

theorem freshSwing_eq (c : BellConfig) :
    freshSwing c = if c.inService = true ∧ c.sensorMode = .none then .atRest else .unknown := by
  unfold freshSwing
  simp only [Bool.and_eq_true, beq_iff_eq]

theorem restState_eq (c : BellConfig) : restState c =
    if c.inService = false then .outOfService else if c.hammerInService = true then .idle else .fault := by
  unfold restState
  cases c.inService <;> rfl

theorem Slot.tuneReset_eq (x : Slot Tune) : x.clearRefs.tuneReset = { gen := x.gen, record := match x.record with
    | none => none
    | some t => if t.state = .retiring then none else some { t with refs := 0 } } := by
  unfold Slot.tuneReset Slot.clearRefs
  cases x.record with
  | none => rfl
  | some t =>
    simp only [Option.map_some, Option.any_some, beq_iff_eq]
    split <;> rfl

theorem Slot.sceneReset_eq (x : Slot Scene) : x.sceneReset = { gen := x.gen, record := match x.record with
    | none => none
    | some c => if c.state = .retiring then none else some c } := by
  obtain ⟨gen, record⟩ := x
  unfold Slot.sceneReset
  cases record with
  | none => rfl
  | some c =>
    simp only [Option.any_some, beq_iff_eq]
    split <;> rfl

theorem Outcome.interrupt_eq : Outcome.interrupt = fun x => if x.kind = .pending ∨ x.kind = .started then
    { kind := .skipped, note := .interrupted, skipped := 0, depth := false } else x := rfl

theorem Occasion.afterReset_eq {o : Occasion} (h : o.state ≠ .retiring) (cold valid : Bool) :
    o.afterReset cold (!cold && valid) = { o with
      outcome := if o.context = none then o.outcome else o.outcome.map fun x =>
        if x.kind = .pending ∨ x.kind = .started then
          { kind := .skipped, note := .interrupted, skipped := 0, depth := false }
        else x
      context := none, waiting := false
      state := if o.state = .firing then (if cold = true ∨ o.due ≠ none then .armed else .spent) else o.state
      due := if (o.state = .firing ∨ o.state = .armed) ∧ (cold = true ∨ valid = false) then none else o.due } := by
  unfold Occasion.afterReset
  have outcome : (if o.context.isSome then o.outcome.map Outcome.interrupt else o.outcome)
      = if o.context = none then o.outcome else o.outcome.map Outcome.interrupt := by cases o.context <;> rfl
  have due : (if !cold && valid then o.due else none) = if cold = true ∨ valid = false then none else o.due := by
    cases cold <;> cases valid <;> rfl
  rw [due, outcome, Outcome.interrupt_eq]
  cases state : o.state with
  | retiring => exact absurd state h
  | firing => simp [Option.isSome_iff_ne_none]
  | armed => simp
  | suspended => simp
  | spent => simp

theorem Slot.occasionReset_eq (x : Slot Occasion) (cold valid : Bool) : x.occasionReset cold (!cold && valid) =
    { gen := x.gen, record := match x.record with
      | none => none
      | some o =>
        if o.state = .retiring then none
        else some { o with
          outcome := if o.context = none then o.outcome else o.outcome.map fun x =>
            if x.kind = .pending ∨ x.kind = .started then
              { kind := .skipped, note := .interrupted, skipped := 0, depth := false }
            else x
          context := none, waiting := false
          state := if o.state = .firing then (if cold = true ∨ o.due ≠ none then .armed else .spent) else o.state
          due := if (o.state = .firing ∨ o.state = .armed) ∧ (cold = true ∨ valid = false) then none else o.due } } := by
  obtain ⟨gen, record⟩ := x
  unfold Slot.occasionReset
  cases record with
  | none => rfl
  | some o =>
    dsimp only
    split
    · rfl
    · rename_i h
      rw [Occasion.afterReset_eq h]

theorem State.strokesReset_time (s : State) : s.strokesReset.time = s.time := by
  simp only [State.strokesReset, State.restStrokes]

theorem State.strokesReset_calendar (s : State) : s.strokesReset.calendar = s.calendar := by
  simp only [State.strokesReset, State.restStrokes]

theorem State.strokesReset_mixer (s : State) : s.strokesReset.mixer = s.mixer := by
  simp only [State.strokesReset, State.restStrokes]

theorem State.strokesReset_tunes (s : State) : s.strokesReset.tunes = s.tunes := by
  simp only [State.strokesReset, State.restStrokes]

theorem State.strokesReset_rstn (s : State) : s.strokesReset.hammers.rstn = s.hammers.rstn := by
  simp only [State.strokesReset, State.restStrokes]

/-- R58: every stroke machine takes its state outside a stroke. -/
theorem State.strokesReset_strokes (s : State) {i : Nat} (h : i < 40) :
    s.strokesReset.hammers.strokes.getD i .outOfService = restState (s.bell i).config := by
  simp only [State.strokesReset, State.restStrokes]
  exact getD_ofFn_vector _ h _

theorem State.programReset_time (s : State) (cold : Bool) : (s.programReset cold).time = s.time := rfl

theorem State.programReset_calendar (s : State) (cold : Bool) : (s.programReset cold).calendar = s.calendar := rfl

theorem State.programReset_mixer (s : State) (cold : Bool) : (s.programReset cold).mixer = s.mixer := rfl

theorem State.tableDuskOf_of_duskTable (h : t.calendar.duskTable = s.calendar.duskTable) (day : Nat) :
    t.tableDuskOf day = s.tableDuskOf day := by
  unfold State.tableDuskOf
  rw [h]

theorem State.resetDrives_lines (s : State) (keepStart : Bool) :
    (s.resetLines.resetDials keepStart).lines = s.lines.map Line.afterReset := rfl

section
variable {b d f g : State} {cold keepStart : Bool} (hb : (s.resetLines.resetDials keepStart).BellsReset b)
  (hd : b.strokesReset.TunesReset d) (hf : (d.programReset cold).CalendarReset f cold) (hg : f.MixerReset g)
include hb hd hf hg

/-- The blocks reset one after the other, each leaving the others' parts. -/
theorem resetStages_frame : g.linkReset = { s with
    time.setTimeWait := none, dials := s.dials.map fun d => d.afterReset keepStart, lines := s.lines.map Line.afterReset
    bells := b.bells, hammers := b.strokesReset.hammers, tunes := { d.tunes with chimeMap := s.tunes.chimeMap }
    chime := s.resetChime.chime, program := s.program.afterReset cold, calendar := f.calendar
    mixer := { s.mixer.afterReset s.clock with scenes := g.mixer.scenes }, feeder := s.feeder.afterReset
    link.inProgress := none, link.waiting := none
    memory.writes := g.memory.writes.map fun w => { w with response := none } } := by
  obtain ⟨scenes, memory, rfl⟩ : ∃ x y, g = { f with mixer := { f.mixer.afterReset f.clock with scenes := x }, memory := y } :=
    ⟨_, _, hg.frame⟩
  obtain ⟨calendar, memory', rfl⟩ : ∃ x y, f = { d.programReset cold with calendar := x, memory := y } := ⟨_, _, hf.frame⟩
  obtain ⟨tunes, memory'', rfl⟩ : ∃ (x : TuneLibrary) (y : RecordMemory), d = { b.strokesReset with
    tunes := { x with chimeMap := b.strokesReset.tunes.chimeMap }, memory := y } := ⟨_, _, hd.frame⟩
  obtain ⟨bells, rfl⟩ : ∃ x, b = { s.resetLines.resetDials keepStart with bells := x } := ⟨_, hb.frame⟩
  rfl

theorem resetStages_lines : g.linkReset.lines = (s.resetLines.resetDials keepStart).lines :=
  (congrArg State.lines (resetStages_frame hb hd hf hg) :).trans (s.resetDrives_lines keepStart).symm

theorem resetStages_bell {i : Nat} (hi : i < 40) :
    g.linkReset.bell i = (s.resetLines.resetDials keepStart).freshBell i (s.bell i) := by
  rw [State.bell, congrArg State.bells (resetStages_frame hb hd hf hg)]
  exact hb.bells i hi

omit hf hg in
theorem resetStages_time : (d.programReset cold).time = s.time := by
  rw [d.programReset_time, congrArg State.time hd.frame, b.strokesReset_time, congrArg State.time hb.frame]
  rfl

omit hf hg in
theorem resetStages_calendar : (d.programReset cold).calendar = s.calendar := by
  rw [d.programReset_calendar, congrArg State.calendar hd.frame, b.strokesReset_calendar, congrArg State.calendar hb.frame]
  rfl

omit hf hg in
theorem resetStages_today : (d.programReset cold).today = s.localNow / 86400 := by
  rw [State.today, State.localNow, resetStages_time hb hd, State.localNow, Config.daySeconds]

omit hf hg in
theorem resetStages_mixer : (d.programReset cold).mixer = s.mixer := by
  rw [d.programReset_mixer, congrArg State.mixer hd.frame, b.strokesReset_mixer, congrArg State.mixer hb.frame]
  rfl

theorem resetStages_taken : s.ResetTaken g.linkReset cold keepStart := by
  have frame := resetStages_frame hb hd hf hg
  have lines := resetStages_lines hb hd hf hg
  have time := resetStages_time (cold := cold) hb hd
  have calendar := resetStages_calendar (cold := cold) hb hd
  constructor
  case clock => exact (congrArg State.clock frame :)
  case time => exact (congrArg State.time frame :)
  case dials =>
    intro i hi
    rw [State.dial, congrArg State.dials frame]
    exact (getD_map_vector_of_lt _ _ hi Dial.blank _).trans (Dial.afterReset_eq _ _)
  case lines =>
    intro i hi
    rw [State.line, congrArg State.lines frame]
    exact getD_map_vector_of_lt _ _ hi Line.blank _
  case bells =>
    intro i hi
    have bell := resetStages_bell hb hd hf hg hi
    rw [State.lockHeld_eq, State.locks_of_lines lines, State.lineActive_of_lines lines, bell]
    unfold State.freshBell
    rw [freshSwing_eq]
    rfl
  case strokes =>
    intro i hi
    rw [State.stroke, congrArg State.hammers frame]
    dsimp only
    rw [b.strokesReset_strokes hi, restState_eq, hb.bells i hi]
    rfl
  case gate =>
    rw [congrArg State.hammers frame]
    exact ⟨rfl, b.strokesReset_rstn.trans (congrArg (fun x : State => x.hammers.rstn) hb.frame :)⟩
  case tunes =>
    intro i hi
    rw [State.tuneSlot, congrArg State.tunes frame]
    refine (hd.slots i hi).trans ?_
    rw [Slot.tuneReset_eq, State.tuneSlot, b.strokesReset_tunes, congrArg State.tunes hb.frame]
    rfl
  case chimeMap => exact (congrArg (fun x : State => x.tunes.chimeMap) frame :)
  case chime =>
    have chime : g.linkReset.chime = s.resetChime.chime := (congrArg State.chime frame :)
    refine ⟨by rw [chime]; rfl, by rw [chime]; rfl, fun c => ?_, by rw [chime]; rfl, by rw [chime]; rfl, by rw [chime]; rfl,
      by rw [chime]; rfl⟩
    rw [State.toll, chime]
    exact getD_replicate_vector ..
  case program => exact (congrArg State.program frame :)
  case occasions =>
    intro i hi
    rw [State.occasionSlot, congrArg State.calendar frame]
    refine (hf.slots i hi).trans ?_
    rw [Slot.occasionReset_eq, State.occasionSlot, calendar, time]
    rfl
  case contexts =>
    intro k
    rw [State.context, congrArg State.calendar frame]
    dsimp only
    rw [hf.calendar]
    exact getD_replicate_vector ..
  case calendar =>
    rw [congrArg State.calendar frame]
    dsimp only
    rw [hf.calendar, calendar]
    exact ⟨rfl, rfl, rfl, rfl, rfl, rfl, rfl⟩
  case duskPassed =>
    rw [congrArg State.calendar frame]
    dsimp only
    rw [hf.calendar, time, resetStages_today hb hd]
  case tableDusk =>
    have table : g.linkReset.calendar.duskTable = (d.programReset cold).calendar.duskTable := by
      rw [congrArg State.calendar frame]
      dsimp only
      rw [hf.calendar]
    rw [State.tableDuskOf_of_duskTable table, congrArg State.calendar frame]
    dsimp only
    rw [hf.calendar, resetStages_today hb hd]
  case channels =>
    intro i hi
    rw [State.channel, congrArg State.mixer frame]
    exact getD_map_vector_of_lt _ _ hi Channel.blank _
  case scenes =>
    intro i hi
    have stood : (d.programReset cold).mixer = s.mixer := resetStages_mixer hb hd
    have mixer : f.mixer = s.mixer := (congrArg State.mixer hf.frame :).trans stood
    rw [State.sceneSlot, congrArg State.mixer frame]
    refine (hg.scenes i hi).trans ?_
    rw [Slot.sceneReset_eq, State.sceneSlot, mixer]
    rfl
  case mixer =>
    rw [congrArg State.mixer frame]
    exact ⟨rfl, rfl, rfl, rfl, rfl⟩
  case feeder => exact (congrArg State.feeder frame :)
  case link => exact (congrArg State.link frame :)
  case responses =>
    rw [congrArg State.memory frame]
    intro w hw
    obtain ⟨v, -, rfl⟩ := List.mem_map.1 hw
    rfl

end

/-- The values every block takes at a reset. -/
theorem State.takeResetValues_taken (s : State) (cold keepStart : Bool) :
    s.ResetTaken (s.takeResetValues cold keepStart) cold keepStart := by
  rw [s.takeResetValues_eq]
  exact resetStages_taken (State.resetBells_reset _) (State.resetTunes_reset _) (State.resetCalendar_reset _ cold)
    (State.resetMixer_reset _)

end Sys2Proof.Machine
end

section
/-! What the blocks do to the Command Link while they act on an event: conditions are raised, and nothing else of the link changes
(R182, R185). Operation by operation, in the order of the model's text. -/

namespace Sys2Proof.Machine

variable {s t u : State}

/-- `t` follows `s` with nothing of the link changed but conditions raised. -/
structure LinkRaised (s t : State) : Prop where
  rest : t.link = { s.link with flags := t.link.flags, fresh := t.link.fresh }
  flags : ∀ i, s.link.flags.getLsbD i = true → t.link.flags.getLsbD i = true
  fresh : ∀ i, s.link.fresh.getLsbD i = true → t.link.fresh.getLsbD i = true

namespace LinkRaised

theorem of_link (h : t.link = s.link) : LinkRaised s t where
  rest := by rw [h]
  flags i := by rw [h]; exact id
  fresh i := by rw [h]; exact id

theorem refl (s : State) : LinkRaised s s := of_link rfl

theorem trans (h : LinkRaised s t) (k : LinkRaised t u) : LinkRaised s u where
  rest := k.rest.trans (congrArg (fun l : Link => { l with flags := u.link.flags, fresh := u.link.fresh }) h.rest)
  flags i := k.flags i ∘ h.flags i
  fresh i := k.fresh i ∘ h.fresh i

/-- `trans` with the later part first, from which the state in between is read. -/
theorem after (k : LinkRaised t u) (h : LinkRaised s t) : LinkRaised s u := h.trans k

theorem ite {c : Prop} [Decidable c] (ht : c → LinkRaised s t) (hu : ¬c → LinkRaised s u) :
    LinkRaised s (if c then t else u) := by
  split
  · exact ht ‹_›
  · exact hu ‹_›

theorem foldl {α : Type} {act : State → α → State} (h : ∀ s x, LinkRaised s (act s x)) :
    ∀ (l : List α) (s : State), LinkRaised s (l.foldl act s)
  | [], s => refl s
  | x :: l, s => (h s x).trans (foldl h l (act s x))

theorem each {act : Nat → State → State} (h : ∀ i s, LinkRaised s (act i s)) (n : Nat) (s : State) :
    LinkRaised s (eachIndex n act s) := foldl (fun s i => h i s) _ s

theorem inProgress (h : LinkRaised s t) : t.link.inProgress = s.link.inProgress := by rw [h.rest]

theorem waiting (h : LinkRaised s t) : t.link.waiting = s.link.waiting := by rw [h.rest]

end LinkRaised

theorem State.raise_raised (s : State) (c : Condition) : LinkRaised s (s.raise c) where
  rest := rfl
  flags i h := by rw [State.raise_flags, BitVec.getLsbD_or, h]; rfl
  fresh i h := by rw [State.raise_fresh, BitVec.getLsbD_or, h]; rfl

theorem State.raiseIf_raised (s : State) (b : Bool) (c : Condition) : LinkRaised s (s.raiseIf b c) :=
  .ite (fun _ => s.raise_raised c) fun _ => .refl s

/-! ## Tunes and the Feeder Account (chapters 5, 10) -/

theorem State.setTune_raised (s : State) (i : Nat) (x : Tune) : LinkRaised s (s.setTune i x) := .of_link rfl

theorem State.freeTune_raised (s : State) (i : Nat) : LinkRaised s (s.freeTune i) := by
  unfold State.freeTune
  split
  · exact .refl s
  · exact .of_link rfl

theorem State.takeRef_raised (s : State) (h : Handle) : LinkRaised s (s.takeRef h) := by
  unfold State.takeRef
  split
  · exact .refl s
  · exact s.setTune_raised _ _

theorem State.dropRef_raised (s : State) (h : Handle) : LinkRaised s (s.dropRef h) := by
  unfold State.dropRef
  split
  · exact .refl s
  · exact (s.setTune_raised _ _).trans (.ite (fun _ => State.freeTune_raised _ _) fun _ => .refl _)

theorem admitHeads_raised : ∀ (l : List Ask) (s : State), LinkRaised s (admitHeads l s)
  | [], _ => .of_link rfl
  | a :: rest, s => .ite (fun _ => (admitHeads_raised rest (s.admitAsk a)).after (.of_link rfl)) fun _ => .of_link rfl

theorem State.tryAsks_raised (s : State) : LinkRaised s s.tryAsks := admitHeads_raised _ s

theorem State.ask_raised (s : State) (bell rating : Nat) : LinkRaised s (s.ask bell rating) :=
  .ite (fun _ => (State.tryAsks_raised _).after (.of_link rfl)) fun _ => .of_link rfl

/-! ## Scenes and the standing list (chapter 9) -/

theorem State.leaveStack_raised (s : State) (h : Handle) : LinkRaised s (s.leaveStack h) :=
  .ite (fun _ => .of_link rfl) fun _ => .of_link rfl

theorem State.raiseScene_raised (s : State) (h : Handle) : LinkRaised s (s.raiseScene h).1 := by
  unfold State.raiseScene
  split
  · exact .refl s
  · split
    · exact .refl s
    · split
      · split
        · exact .of_link rfl
        · exact .refl s
      · split
        · exact .of_link rfl
        · split
          · exact (s.leaveStack_raised _).trans (.of_link rfl)
          · split
            · exact (s.leaveStack_raised _).trans (.of_link rfl)
            · exact s.raise_raised _

theorem State.lowerScene_raised (s : State) (h : Handle) : LinkRaised s (s.lowerScene h) := by
  unfold State.lowerScene
  split
  · exact .refl s
  · exact .ite (fun _ => .refl s) fun _ => .of_link rfl

theorem State.removeStanding_raised (s : State) (h : Handle) : LinkRaised s (s.removeStanding h) :=
  .ite (fun _ => .of_link rfl) fun _ => .refl s

theorem State.lowerAndRemove_raised (s : State) (h : Handle) : LinkRaised s (s.lowerAndRemove h) :=
  (s.lowerScene_raised h).trans (State.removeStanding_raised _ h)

theorem State.makeStanding_raised (s : State) (h : Handle) (x : Nat) (c : Creator) : LinkRaised s (s.makeStanding h x c).1 := by
  unfold State.makeStanding
  dsimp only
  split
  · exact .of_link rfl
  · split
    · exact .of_link rfl
    · exact .refl s

theorem State.reRaise_raised (s : State) (e : StandingEntry) : LinkRaised s (s.reRaise e) := by
  unfold State.reRaise
  split
  · have h := s.raiseScene_raised e.scene
    split
    · rename_i eq
      rw [eq] at h
      exact h
    · rename_i eq
      rw [eq] at h
      exact h.trans (State.removeStanding_raised _ _)
  · exact .refl s

/-! ## Reports (R94, R117, R135) -/

theorem State.putOccasion_raised (s : State) (i : Nat) (o : Occasion) : LinkRaised s (s.putOccasion i o) :=
  .of_link (s.putOccasion_link i o)

theorem State.setPhase_raised (s : State) (k j : Nat) (x : ActionPhase) : LinkRaised s (s.setPhase k j x) := by
  unfold State.setPhase
  split
  · exact .refl s
  · split
    · exact .refl s
    · exact .of_link rfl

theorem State.setOutcome_raised (s : State) (k j : Nat) (x : Outcome) : LinkRaised s (s.setOutcome k j x) := by
  unfold State.setOutcome
  split
  · exact .refl s
  · split
    · exact .refl s
    · exact (s.putOccasion_raised _ _).trans (State.raiseIf_raised _ _ _)

theorem State.finishAction_raised (s : State) (k j : Nat) (x : Outcome) : LinkRaised s (s.finishAction k j x) :=
  (s.setOutcome_raised k j x).trans (State.setPhase_raised _ k j _)

theorem State.reportToAction_raised (s : State) (k j n : Nat) (r : EntryReport) (skipped : Nat) (depth : Bool) :
    LinkRaised s (s.reportToAction k j n r skipped depth) := by
  cases r with
  | queued => exact (s.setPhase_raised k j _).trans (State.setOutcome_raised _ k j _)
  | started => exact s.setOutcome_raised k j _
  | done | stopped | refusedFull | expired | preEmptedDropped | gone | notLive => exact s.finishAction_raised k j _

theorem State.reportToClock_raised (s : State) (x : ClockSource) (mark : Nat) (r : EntryReport) (started : Bool) (skipped : Nat) :
    LinkRaised s (s.reportToClock x mark r started skipped) :=
  (State.raiseIf_raised _ _ _).after (.of_link rfl)

theorem State.reportEntry_raised (s : State) (e : Entry) (r : EntryReport) (skipped : Nat) (depth : Bool) :
    LinkRaised s (s.reportEntry e r skipped depth) := by
  unfold State.reportEntry
  split
  · exact s.reportToClock_raised _ _ _ _ _
  · exact s.reportToClock_raised _ _ _ _ _
  · exact s.reportToAction_raised _ _ _ _ _ _
  · exact .ite (fun _ => .of_link rfl) fun _ => .refl s

theorem State.reportToll_raised (s : State) (c : Nat) (x : TollRun) (r : EntryReport) : LinkRaised s (s.reportToll c x r) := by
  unfold State.reportToll
  split
  · exact s.reportToAction_raised _ _ _ _ _ _
  · exact .ite (fun _ => .of_link rfl) fun _ => .refl s

theorem State.reportMotorStarted_raised (s : State) (x : MotorSource) : LinkRaised s (s.reportMotorStarted x) := by
  cases x with
  | action k j => exact s.setOutcome_raised k j _
  | command => exact .refl s

theorem State.acceptSwing_raised (s : State) (bell minutes : Nat) (x : MotorSource) :
    LinkRaised s (s.acceptSwing bell minutes x) := by
  unfold State.acceptSwing
  dsimp only
  split
  · exact (State.ask_raised _ _ _).after (.of_link rfl)
  · exact .of_link rfl
  · exact .ite (fun _ => .of_link rfl) fun _ => (State.reportMotorStarted_raised _ x).after (.of_link rfl)

/-! ## The Chime Sequencer (R82, R89 to R93, R106, R107) -/

theorem State.dropEntryRef_raised (s : State) (e : Entry) : LinkRaised s (s.dropEntryRef e) := by
  unfold State.dropEntryRef
  split
  · exact s.dropRef_raised _
  · exact .refl s

theorem State.beginPerformance_raised (s : State) (e : Entry) : LinkRaised s (s.beginPerformance e) :=
  .ite (fun _ => .of_link rfl) fun _ => (State.reportEntry_raised _ e _ _ _).after (.of_link rfl)

theorem dequeueFrom_raised : ∀ (q : List Entry) (s : State), LinkRaised s (dequeueFrom q s)
  | [], _ => .of_link rfl
  | e :: rest, s =>
    .ite
      (fun _ => (dequeueFrom_raised rest _).after ((State.dropEntryRef_raised _ e).after (s.reportEntry_raised e _ _ _)))
      fun _ => (State.beginPerformance_raised _ e).after (.of_link rfl)

theorem State.dequeue_raised (s : State) : LinkRaised s s.dequeue := by
  unfold State.dequeue
  split
  · exact .refl s
  · exact dequeueFrom_raised _ s

theorem State.testPreemption_raised (s : State) (e : Entry) : LinkRaised s (s.testPreemption e) := by
  unfold State.testPreemption
  split
  · exact .refl s
  · exact .ite (fun _ => .of_link rfl) fun _ => .refl s

theorem State.placeArrival_raised (s : State) (e : Entry) : LinkRaised s (s.placeArrival e) := by
  unfold State.placeArrival
  dsimp only
  have h : LinkRaised s (State.reportEntry { s with chime.queue := insertEntry s.chime.queue e } e .queued) :=
    (State.reportEntry_raised _ e _ _ _).after (.of_link rfl)
  split
  · exact h.trans (State.dequeue_raised _)
  · exact h.trans (State.testPreemption_raised _ e)

theorem State.displaceEntry_raised (s : State) (e : Entry) : LinkRaised s (s.displaceEntry e) :=
  (State.dropEntryRef_raised _ e).after ((State.reportEntry_raised _ e _ _ _).after (.of_link rfl))

theorem State.settleArrival_raised (s : State) (e : Entry) : LinkRaised s (s.settleArrival e).1 := by
  unfold State.settleArrival
  split
  · exact s.placeArrival_raised e
  · split
    · exact s.placeArrival_raised e
    · split
      · exact (s.displaceEntry_raised _).trans (State.placeArrival_raised _ e)
      · exact (s.reportEntry_raised e _ _ _).trans (State.dropEntryRef_raised _ e)

theorem State.admitArrival_raised (s : State) (e : Entry) : LinkRaised s (s.admitArrival e).1 := by
  have h := s.settleArrival_raised e
  unfold State.admitArrival
  split <;> rename_i eq <;> rw [eq] at h <;> exact h

theorem State.arrive_raised (s : State) (e : Entry) : LinkRaised s (s.arrive e).1 := by
  unfold State.arrive
  dsimp only
  have counted : LinkRaised s s.countArrival := .of_link rfl
  split
  · exact counted.trans (State.admitArrival_raised _ _)
  · split
    · exact counted.trans (State.reportEntry_raised _ _ _ _ _)
    · exact counted.trans ((State.takeRef_raised _ _).trans (State.admitArrival_raised _ _))

theorem State.removeEntry_raised (s : State) (e : Entry) : LinkRaised s (s.removeEntry e) :=
  (State.dropEntryRef_raised _ e).after ((State.reportEntry_raised _ e _ _ _).after (.of_link rfl))

theorem State.removeClockEntries_raised (s : State) : LinkRaised s s.removeClockEntries :=
  .foldl (fun s e => s.removeEntry_raised e) _ s

theorem State.acceptToll_raised (s : State) (c bell interval blows velocity : Nat) (x : TollSource) :
    LinkRaised s (s.acceptToll c bell interval blows velocity x) :=
  (State.reportToll_raised _ c _ _).after (.of_link rfl)

/-! ## The Clock Program (R113 to R120) -/

theorem State.silence_raised (s : State) (minutes : Nat) : LinkRaised s (s.silence minutes) :=
  (State.removeClockEntries_raised _).after (.of_link rfl)

theorem State.quarterPart_raised (s : State) (mark local_ : Nat) : LinkRaised s (s.quarterPart mark local_) := by
  unfold State.quarterPart
  dsimp only
  split
  · exact .refl s
  · exact .ite (fun _ => .refl s) fun _ => .ite (fun _ => .of_link rfl) fun _ => s.arrive_raised _

theorem State.hourPart_raised (s : State) (mark local_ : Nat) : LinkRaised s (s.hourPart mark local_) :=
  .ite (fun _ => .refl s) fun _ => .ite (fun _ => .of_link rfl) fun _ => s.arrive_raised _

theorem State.handleMark_raised (s : State) (mark local_ : Nat) : LinkRaised s (s.handleMark mark local_) :=
  ((s.quarterPart_raised mark local_).trans (State.hourPart_raised _ mark local_)).trans (.of_link rfl)

theorem State.handleLateMark_raised (s : State) (mark local_ : Nat) : LinkRaised s (s.handleLateMark mark local_) :=
  .ite (fun _ => s.handleMark_raised mark local_) fun _ => .refl s

theorem State.owedMark_raised (s : State) (entry : Nat) : LinkRaised s (s.owedMark entry) :=
  .ite (fun _ => s.handleLateMark_raised _ _) fun _ => .refl s

/-! ## The calendar (R129 to R136, R146) -/

theorem State.startPlay_raised (s : State) (holds : Bool) (k j : Nat) (tune : Handle) (e : Entry) :
    LinkRaised s (s.startPlay holds k j tune e) :=
  .ite (fun _ => s.arrive_raised e) fun _ =>
    (State.finishAction_raised _ k j _).after (.ite (fun _ => s.dropRef_raised tune) fun _ => .refl s)

theorem State.startToll_raised (s : State) (h : Handle) (k j bell interval blows velocity : Nat) :
    LinkRaised s (s.startToll h k j bell interval blows velocity) := by
  unfold State.startToll
  split
  · exact s.finishAction_raised k j _
  · exact (s.setPhase_raised k j _).trans (State.acceptToll_raised _ _ _ _ _ _ _)

theorem State.startSwingAction_raised (s : State) (k j bell minutes : Nat) :
    LinkRaised s (s.startSwingAction k j bell minutes) := by
  unfold State.startSwingAction
  split
  · exact s.finishAction_raised k j _
  · exact (s.setPhase_raised k j _).trans (State.acceptSwing_raised _ _ _ _)

theorem State.sceneUp_raised (s : State) (h : Handle) (k j : Nat) (scene : Handle) (hold : Nat) :
    LinkRaised s (s.sceneUp h k j scene hold) := by
  unfold State.sceneUp
  split
  · have raised := s.raiseScene_raised scene
    split <;> rename_i eq <;> rw [eq] at raised
    · exact raised.trans ((State.makeStanding_raised _ _ _ _).trans (State.finishAction_raised _ k j _))
    all_goals exact raised.trans (State.finishAction_raised _ k j _)
  · exact s.finishAction_raised k j _

theorem State.sceneDown_raised (s : State) (k j : Nat) (scene : Handle) : LinkRaised s (s.sceneDown k j scene) :=
  .ite (fun _ => (s.lowerAndRemove_raised scene).trans (State.finishAction_raised _ k j _)) fun _ => s.finishAction_raised k j _

theorem State.startAction_raised (s : State) (c : Context) (o : Occasion) (k j : Nat) (a : ContextAction) (holds : Bool) :
    LinkRaised s (s.startAction c o k j a holds) := by
  unfold State.startAction
  split
  · exact s.startPlay_raised _ k j _ _
  · exact s.startToll_raised _ k j _ _ _ _
  · exact s.startSwingAction_raised k j _ _
  · exact s.sceneUp_raised _ k j _ _
  · exact s.sceneDown_raised k j _
  · exact (s.silence_raised _).trans (State.finishAction_raised _ k j _)

theorem State.startIfDue_raised (s : State) (k j : Nat) : LinkRaised s (s.startIfDue k j) := by
  unfold State.startIfDue
  split
  · exact .refl s
  · split
    · split
      · exact .ite (fun _ => s.startAction_raised _ _ k j _ _) fun _ => .refl s
      · exact .refl s
      · exact .refl s
    · exact .refl s

theorem State.startDueActions_raised (s : State) (k : Nat) : LinkRaised s (s.startDueActions k) :=
  .each (fun j s => s.startIfDue_raised k j) 4 s

theorem State.takeForAction_raised (s : State) (due : Nat) (a : Action) : LinkRaised s (s.takeForAction due a).1 := by
  unfold State.takeForAction
  dsimp only
  split
  · split
    · exact s.takeRef_raised _
    · exact .refl s
  · exact .refl s

theorem takeActions_raised (due : Nat) : ∀ (l : List Action) (s : State), LinkRaised s (takeActions due l s).1
  | [], s => .refl s
  | a :: rest, s => (s.takeForAction_raised due a).trans (takeActions_raised due rest _)

theorem State.fire_raised (s : State) (i k : Nat) (o : Occasion) (due : Nat) : LinkRaised s (s.fire i k o due) := by
  unfold State.fire
  have taken := takeActions_raised due o.config.actions s
  exact (State.startDueActions_raised _ k).after ((State.putOccasion_raised _ _ _).after (taken.trans (.of_link rfl)))

theorem State.missOccasion_raised (s : State) (i : Nat) (o : Occasion) : LinkRaised s (s.missOccasion i o) :=
  (s.putOccasion_raised _ _).trans (State.raise_raised _ _)

theorem State.reach_raised (s : State) (i : Nat) : LinkRaised s (s.reach i) := by
  unfold State.reach
  split
  · exact .refl s
  · split
    · exact .refl s
    · refine .ite (fun _ => s.missOccasion_raised i _) fun _ => .ite (fun _ => .ite (fun _ => s.missOccasion_raised i _) fun _ => ?_)
        fun _ => .refl s
      split
      · exact s.fire_raised i _ _ _
      · exact .of_link rfl

theorem State.leaveContext_raised (s : State) (h : Handle) : LinkRaised s (s.leaveContext h) := by
  unfold State.leaveContext
  split
  · exact .refl s
  · split
    · exact .of_link rfl
    all_goals exact s.putOccasion_raised _ _

theorem State.releaseContext_raised (s : State) (k : Nat) : LinkRaised s (s.releaseContext k) := by
  unfold State.releaseContext
  split
  · exact .refl s
  · exact (State.leaveContext_raised _ _).after (.of_link rfl)

theorem State.offerContext_raised (s : State) (k : Nat) : LinkRaised s (s.offerContext k) := by
  unfold State.offerContext
  split
  · exact .refl s
  · refine .ite (fun _ => s.missOccasion_raised _ _) fun _ => ?_
    split
    · exact s.fire_raised _ k _ _
    · exact .refl s

theorem settleLoop_raised : ∀ (fuel : Nat) (s : State), LinkRaised s (settleLoop fuel s)
  | 0, s => .refl s
  | fuel + 1, s => by
    unfold settleLoop
    split
    · exact (s.releaseContext_raised _).trans (settleLoop_raised fuel _)
    · split
      · exact (s.offerContext_raised _).trans (settleLoop_raised fuel _)
      · exact .refl s

theorem State.settleContexts_raised (s : State) : LinkRaised s s.settleContexts := settleLoop_raised _ s

theorem State.reachHeld_raised (s : State) : LinkRaised s s.reachHeld := .foldl (fun s i => s.reach_raised i) _ s

theorem State.reRaiseStanding_raised (s : State) (l : List StandingEntry) : LinkRaised s (s.reRaiseStanding l) :=
  .foldl (fun s e => s.reRaise_raised e) l s

theorem State.resume_raised (s : State) (l : List StandingEntry) : LinkRaised s (s.resume l) :=
  (State.settleContexts_raised _).after ((State.reRaiseStanding_raised _ l).after s.reachHeld_raised)

end Sys2Proof.Machine
end

section
/-! The returns of the supply and the power-up after total loss (R16, R17). -/

namespace Sys2Proof.Machine

variable {s t u : State}

/-! ## The qualification of MSENSE (R16) -/

theorem exec_msenseQualificationStart (dt : Nat) (s : State) :
    exec (.msenseQualificationStart dt) s = .next (s.elapse dt).beginQualification := rfl

theorem exec_msenseQualificationCancel (dt : Nat) (s : State) :
    exec (.msenseQualificationCancel dt) s = .next (s.elapse dt).cancelQualification := rfl

theorem exec_msenseQualificationExpiry (dt : Nat) (s : State) :
    exec (.msenseQualificationExpiry dt) s = .next (s.elapse dt).completeQualification := rfl

theorem exec_countingDomainPowerUp (dt : Nat) (s : State) :
    exec (.countingDomainPowerUp dt) s = .next (s.elapse dt).powerUpCold := rfl

theorem State.beginQualification_begins (h : s.time.power = .reserve) (hq : s.time.qualification = none) :
    s.beginQualification = { s with time.msense := true, time.qualification := some s.clock } := if_pos ⟨h, hq⟩

theorem State.beginQualification_none (h : s.time.power = .mains ∨ s.time.qualification ≠ none) : s.beginQualification = s := by
  refine if_neg fun ⟨reserve, idle⟩ => ?_
  rcases h with mains | runs
  · exact PowerState.noConfusion (mains.symm.trans reserve)
  · exact runs idle

section
variable {q : Nat} (hq : s.time.qualification = some q)
include hq

theorem State.cancelQualification_early (h : s.clock < q + 65536) :
    s.cancelQualification = { s with time.msense := false, time.qualification := none } := by
  unfold State.cancelQualification
  rw [hq]
  exact if_pos h

theorem State.completeQualification_early (h : s.clock < q + 65536) : s.completeQualification = s := by
  unfold State.completeQualification
  rw [hq]
  exact if_neg (Nat.not_le.2 h)

theorem State.completeQualification_cold (h : q + 65536 ≤ s.clock) (hc : s.time.coldStartPending = true) :
    s.completeQualification = s.coldStart := by
  unfold State.completeQualification
  rw [hq]
  exact (if_pos h).trans (if_pos hc)

theorem State.completeQualification_return (h : q + 65536 ≤ s.clock) (hc : s.time.coldStartPending = false) :
    s.completeQualification = s.supplyReturn := by
  unfold State.completeQualification
  rw [hq]
  exact (if_pos h).trans (if_neg (by rw [hc]; nofun))

end

/-! ## COLD START (R17, R145, R167, R188) -/

/-- R17: MAINS comes back, the cold start no longer pending. -/
def TimeBase.coldStarted (t : TimeBase) : TimeBase :=
  { t with power := .mains, qualification := none, coldStartPending := false }

/-- R167: the standing list is cleared, and its write asked for where it held an entry. -/
theorem State.clearStanding_eq (s : State) : s.clearStanding = { s with
    mixer.standing := []
    memory.writes := s.memory.writes
      ++ if s.mixer.standing = [] then [] else [{ effect := .stored .standingList, response := none }] } := by
  unfold State.clearStanding
  cases none : s.mixer.standing with
  | nil =>
    rw [if_pos List.isEmpty_nil, if_pos rfl, List.append_nil, ← none]
  | cons x l =>
    rw [if_neg (by simp), if_neg (by simp)]
    rfl

theorem State.coldStart_split (s : State) : s.coldStart =
    { State.clearStanding (State.takeResetValues { s with time := s.time.coldStarted } true false) with
      link.flags := Condition.timeInvalid.only, link.fresh := Condition.timeInvalid.only, link.lastReport := 0#12 } := by
  simp only [State.coldStart, TimeBase.coldStarted]

theorem only_timeInvalid : Condition.timeInvalid.only = 0x400#12 := by decide

theorem State.coldStart_eq (s : State) : ∃ u, State.ResetTaken { s with time := s.time.coldStarted } u true false ∧
    s.coldStart = { u with
      mixer.standing := []
      memory.writes := u.memory.writes
        ++ if s.mixer.standing = [] then [] else [{ effect := .stored .standingList, response := none }]
      link := { u.link with flags := 0x400#12, fresh := 0x400#12, lastReport := 0#12 } } := by
  have taken := State.takeResetValues_taken { s with time := s.time.coldStarted } true false
  refine ⟨_, taken, ?_⟩
  rw [s.coldStart_split, only_timeInvalid]
  generalize State.takeResetValues _ true false = u at taken
  have standing : u.mixer.standing = s.mixer.standing := taken.mixer.2.1
  rw [u.clearStanding_eq, standing]

/-! ## SUPPLY RETURN (R16, R34, R120, R146, R167, R188) -/

/-- R16: MAINS comes back. -/
def TimeBase.returned (t : TimeBase) : TimeBase := { t with power := .mains, qualification := none }

theorem State.settleStanding_eq (s : State) : s.settleStanding = s.standingKept := by
  unfold State.settleStanding State.standingKept State.endedStanding
  by_cases all : ∀ y ∈ s.mixer.standing, s.time.standard < y.endAt
  · rw [if_pos all, if_neg]
    simpa using all
  · rw [if_neg all, if_pos]
    · rfl
    · simpa using all

theorem State.supplyReturn_split (s : State) : s.supplyReturn =
    let kept := (State.takeResetValues { s with time := s.time.returned } false false).settleStanding.raise .supplyReturned
    (kept.reconcileDials.owedMark kept.time.reserveEntry).resume kept.mixer.standing := by
  simp only [State.supplyReturn, TimeBase.returned]

theorem State.standingKept_time (s : State) : s.standingKept.time = s.time := by
  unfold State.standingKept
  split <;> rfl

theorem State.supplyReturn_eq (s : State) : ∃ u, State.ResetTaken { s with time := s.time.returned } u false false ∧
    s.supplyReturn = ((u.standingKept.raise .supplyReturned).reconcileDials.owedMark s.time.reserveEntry).resume
      u.standingKept.mixer.standing := by
  have taken := State.takeResetValues_taken { s with time := s.time.returned } false false
  refine ⟨_, taken, ?_⟩
  rw [s.supplyReturn_split]
  generalize State.takeResetValues _ false false = u at taken
  have entry : u.standingKept.time.reserveEntry = s.time.reserveEntry := by
    rw [u.standingKept_time, taken.time]
    rfl
  dsimp only
  rw [u.settleStanding_eq, State.raise_time, State.raise_mixer, entry]

/-! ## What either return leaves -/

/-- R16, R188: the state of the supply, the gate and the link right after a return of the supply. -/
structure State.BackInMains (s t : State) : Prop where
  time : t.time = { s.time with power := .mains, qualification := none, coldStartPending := false, setTimeWait := none }
  clock : t.clock = s.clock
  gate : t.hammers.gate = .closed
  noRequest : t.link.inProgress = none
  noResponse : t.link.waiting = none

theorem State.coldStart_back (s : State) : s.BackInMains s.coldStart := by
  have quiet := s.coldStart_quiet (r := true)
  obtain ⟨u, taken, eq⟩ := s.coldStart_eq
  have link : s.coldStart.link = { u.link with flags := 0x400#12, fresh := 0x400#12, lastReport := 0#12 } := by rw [eq]
  rw [taken.link] at link
  exact ⟨quiet.time, quiet.clock, quiet.gate, congrArg Link.inProgress link, congrArg Link.waiting link⟩

theorem State.standingKept_link (s : State) : s.standingKept.link = s.link := by
  unfold State.standingKept
  split <;> rfl

/-- R35, R167, R185: SUPPLY RETURNED is raised, and what the blocks then do raises conditions alone. -/
theorem State.supplyReturn_link (s : State) :
    s.supplyReturn.link.inProgress = none ∧ s.supplyReturn.link.waiting = none ∧
      s.supplyReturn.link.flags.getLsbD 11 = true ∧ s.supplyReturn.link.fresh.getLsbD 11 = true := by
  obtain ⟨u, taken, eq⟩ := s.supplyReturn_eq
  have raised : LinkRaised (u.standingKept.raise .supplyReturned) s.supplyReturn := by
    rw [eq]
    exact (State.resume_raised _ _).after ((State.owedMark_raised _ _).after (.of_link (State.reconcileDials_link _)))
  have link := (u.standingKept_link).trans taken.link
  refine ⟨raised.inProgress.trans ?_, raised.waiting.trans ?_, raised.flags 11 ?_, raised.fresh 11 ?_⟩
  · rw [State.raise_inProgress, link]
  · rw [State.raise_waiting, link]
  · simp [Condition.only, Condition.bit]
  · simp [Condition.only, Condition.bit]

theorem State.supplyReturn_back (h : s.time.coldStartPending = false) : s.BackInMains s.supplyReturn := by
  have quiet := s.supplyReturn_quiet (r := true)
  obtain ⟨noRequest, noResponse, -, -⟩ := s.supplyReturn_link
  refine ⟨quiet.time.trans ?_, quiet.clock, quiet.gate, noRequest, noResponse⟩
  rw [← h]

/-! ## Total loss (R17) -/

/-- R17: the Time Base after total loss: 2000-01-01 00:00:00 standard, invalid, a cold start pending. -/
def TimeBase.lost (t : TimeBase) : TimeBase :=
  { t with prescaler := 0, secondLength := Config.countsPerSecond, trimInUse := t.settings.trim, trimCycle := 0, standard := 0
           summer := summerAt t.settings.rule 0, valid := false, lastAlignment := none, power := .reserve, setTimeWait := none
           qualification := none, coldStartPending := true, reserveEntry := 0 }

theorem State.powerUpCold_eq (s : State) :
    ∃ u : State, u.time.settings = s.time.settings ∧ u.clock = s.clock ∧
      s.powerUpCold = State.raise { u with time := u.time.lost } .timeInvalid := by
  by_cases mains : s.inMains
  · refine ⟨s.enterReserve, (congrArg TimeBase.settings s.enterReserve_time :), s.enterReserve_clock, ?_⟩
    unfold State.powerUpCold
    rw [if_pos mains]
    rfl
  · refine ⟨s, rfl, rfl, ?_⟩
    unfold State.powerUpCold
    rw [if_neg mains]
    rfl

/-- Settles O16: the qualification, then the values of each return block by block. -/
theorem returnNeedsTwoSeconds : Obligations.ReturnNeedsTwoSeconds := by
  unfold Obligations.ReturnNeedsTwoSeconds
  refine ⟨fun s dt => ?_, fun s dt => ?_⟩
  · intro e
    rw [exec_msenseQualificationStart, exec_msenseQualificationCancel, exec_msenseQualificationExpiry]
    refine ⟨fun reserve idle => congrArg _ (e.beginQualification_begins reserve idle),
      fun h => congrArg _ (e.beginQualification_none h),
      fun q runs early => ⟨congrArg _ (e.cancelQualification_early runs early), congrArg _ (e.completeQualification_early runs early)⟩,
      fun q runs late => ?_, fun q runs late cold => ?_, fun q runs late warm => ?_⟩
    · cases pending : s.time.coldStartPending with
      | true =>
        obtain ⟨time, clock, gate, noRequest, noResponse⟩ := e.coldStart_back
        refine ⟨_, congrArg _ (e.completeQualification_cold runs late pending), time, clock, gate, noRequest, noResponse,
          fun _ => ?_, nofun⟩
        obtain ⟨u, -, eq⟩ := e.coldStart_eq
        rw [eq]
        exact ⟨rfl, rfl, rfl⟩
      | false =>
        obtain ⟨time, clock, gate, noRequest, noResponse⟩ := e.supplyReturn_back pending
        obtain ⟨-, -, flag, fresh⟩ := e.supplyReturn_link
        exact ⟨_, congrArg _ (e.completeQualification_return runs late pending), time, clock, gate, noRequest, noResponse, nofun,
          fun _ => ⟨flag, fresh⟩⟩
    · obtain ⟨u, taken, eq⟩ := e.coldStart_eq
      rw [e.completeQualification_cold runs late cold, eq]
      exact ⟨u, taken, rfl⟩
    · obtain ⟨u, taken, eq⟩ := e.supplyReturn_eq
      rw [e.completeQualification_return runs late warm, eq]
      exact ⟨u, taken, rfl⟩
  · have rest (h : s.ReserveSound) : (s.elapse dt).powerUpCold.AtRest :=
      State.powerUpCold_atRest fun reserve => { h reserve with }
    obtain ⟨u, settings, clock, eq⟩ := (s.elapse dt).powerUpCold_eq
    rw [exec_countingDomainPowerUp]
    refine ⟨_, rfl, ?_⟩
    rw [eq] at rest ⊢
    have settings : u.time.settings = s.time.settings := settings
    refine ⟨rfl, rfl, rfl, rfl, rfl, congrArg TimeSettings.trim settings, rfl, congrArg (fun x : TimeSettings => summerAt x.rule 0) settings,
      settings, rfl, rfl, rfl, rfl, clock, ?_, ?_, rest⟩
    · simp [Condition.only, Condition.bit]
    · simp [Condition.only, Condition.bit]

end Sys2Proof.Machine
end

section
/-! Host requests (R182, R184): a request taken at once is worked by its owner; what LIST NEXT, LOOK UP and READ STATE answer. -/

namespace Sys2Proof.Machine

variable {s t : State}

/-- R182: with the link OPEN a request's command works it at once. -/
theorem exec_commandOf (h : s.HostReady) (dt : Nat) (r : Request) :
    exec (commandOf dt r) s = .next (((s.elapse dt).working r).work r) := by
  cases r <;> exact happen_hostRequest h dt _

/-! ## LIST NEXT (R88, R147, R169) -/

/-- The filter of a LIST NEXT. -/
theorem filter_all_eq {α : Type} [DecidableEq α] (filter : Option α) (x : α) :
    filter.all (· == x) = (decide (filter = none) || decide (filter = some x)) := by
  cases filter with
  | none => rfl
  | some y => simp [beq_eq_decide]

/-- What a slot must be for LIST NEXT: above the one given, occupied, and passing the filter. -/
def slotPasses {α : Type} {n : Nat} (slots : Vector (Slot α) n) (after : Option Nat) (test : α → Bool) (j : Nat) : Bool :=
  after.all (· < j) && (slots.getD j ⟨0, none⟩).record.any test

section
variable {α : Type} {n : Nat} {slots : Vector (Slot α) n} {after : Option Nat} {test : α → Bool}

theorem nextSlot_eq : nextSlot slots after test = ((List.range n).find? (slotPasses slots after test)).map fun i =>
    { slot := i, gen := (slots.getD i ⟨0, none⟩).gen } := rfl

theorem slotPasses_iff (j : Nat) : slotPasses slots after test j = true ↔
    (∀ a, after = some a → a < j) ∧ (slots.getD j ⟨0, none⟩).record.any test = true := by
  unfold slotPasses
  cases after <;> simp

theorem not_slotPasses {j : Nat}
    (h : (∀ a, after = some a → a < j) → (slots.getD j ⟨0, none⟩).record.any test = false) :
    (!slotPasses slots after test j) = true := by
  rw [Bool.not_eq_true', Bool.eq_false_iff, Ne, slotPasses_iff]
  exact fun ⟨above, passes⟩ => Bool.false_ne_true ((h above).symm.trans passes)

theorem nextSlot_eq_some {j : Nat} (hj : j < n) (above : ∀ a, after = some a → a < j)
    (passes : (slots.getD j ⟨0, none⟩).record.any test = true)
    (first : ∀ k, k < j → (∀ a, after = some a → a < k) → (slots.getD k ⟨0, none⟩).record.any test = false) :
    nextSlot slots after test = some { slot := j, gen := (slots.getD j ⟨0, none⟩).gen } := by
  rw [nextSlot_eq, List.find?_range_eq_some.2
    ⟨(slotPasses_iff j).2 ⟨above, passes⟩, List.mem_range.2 hj, fun k hk => not_slotPasses (first k hk)⟩]
  rfl

theorem nextSlot_eq_none (nothing : ∀ j, j < n → (∀ a, after = some a → a < j) →
    (slots.getD j ⟨0, none⟩).record.any test = false) : nextSlot slots after test = none := by
  rw [nextSlot_eq, List.find?_range_eq_none.2 fun j hj => not_slotPasses (nothing j hj)]
  rfl

end

/-! ## Records named by an index or a handle (R73) -/

theorem State.answerIndex_of_lt {i bound : Nat} (h : i < bound) (s : State) (payload : List Byte) :
    s.answerIndex i bound payload = s.answer (reply .done i 0 payload) := if_pos h

theorem State.answerIndex_of_ge {i bound : Nat} (h : bound ≤ i) (s : State) (payload : List Byte) :
    s.answerIndex i bound payload = s.answer (reply .badField i 0) := if_neg (Nat.not_lt.2 h)

theorem handleInRange_of {h : Handle} {slots : Nat} (slot : h.slot < slots) (low : 1 ≤ h.gen) (high : h.gen ≤ 255) :
    handleInRange h slots = true := by
  simp [handleInRange, slot, low, high]

theorem State.withTune_found {h : Handle} {x : Tune} (range : handleInRange h Config.tunes = true) (found : s.findTune h = some x)
    (act : Tune → State) : s.withTune h act = act x := by
  unfold State.withTune
  rw [if_pos range, found]

theorem State.withOccasion_found {h : Handle} {x : Occasion} (range : handleInRange h Config.occasions = true)
    (found : s.findOccasion h = some x) (act : Occasion → State) : s.withOccasion h act = act x := by
  unfold State.withOccasion
  rw [if_pos range, found]

theorem State.withScene_found {h : Handle} {x : Scene} (range : handleInRange h Config.scenes = true)
    (found : s.findScene h = some x) (act : Scene → State) : s.withScene h act = act x := by
  unfold State.withScene
  rw [if_pos range, found]

end Sys2Proof.Machine
end

section
/-! What LIST NEXT, LOOK UP and READ STATE answer, and the layouts of the answers (R88, R147, R169, R184, section 11.5). -/

namespace Sys2Proof.Machine

variable {s t : State}

theorem State.answerNext_some (s : State) {found : Option Handle} {j gen : Nat} (h : found = some { slot := j, gen := gen }) :
    s.answerNext found = s.answer (reply .done 0 0 (u8 j ++ u8 gen)) := by
  rw [h]
  rfl

theorem State.answerNext_none (s : State) {found : Option Handle} (h : found = none) :
    s.answerNext found = s.answer (reply .noRecord 0 0) := by
  rw [h]
  rfl

/-- A LOOK UP or READ STATE of a record with an index answers with what its owner lists (R36, R43, R57, R72, R169). -/
theorem State.work_indexRead (s : State) (i : Nat) :
    ∀ x ∈ [(Request.lookUpDial i, 6, dialBytes (s.dial i)), (.lookUpLine i, 64, lineBytes (s.line i).record),
        (.lookUpBell i, 40, bellBytes (s.bell i).config), (.lookUpChannel i, 24, channelBytes (s.channel i).config),
        (.readStateDial i, 6, s.dialReport i), (.readStateLine i, 64, s.lineReport i),
        (.readStateBell i, 40, s.bellReport i (s.stroke i)), (.readStateChannel i, 24, s.channelReport i)],
      (s.working x.1).work x.1 = (s.working x.1).answerIndex i x.2.1 x.2.2 := by
  simp only [List.forall_mem_cons]
  exact ⟨rfl, rfl, rfl, rfl, rfl, rfl, rfl, rfl, fun _ h => absurd h List.not_mem_nil⟩

/-- A LOOK UP or READ STATE of a whole block answers with what it lists (R19, R88, R111, R122, R147, R169, R178, R186). -/
theorem State.work_blockRead (s : State) :
    ∀ x ∈ [(Request.lookUpTimeSettings, timeSettingsBytes s.time.settings), (.lookUpClockProgram, clockConfigBytes s.program.config),
        (.lookUpDuskSettings, duskSettingsBytes s.calendar.dusk), (.lookUpFeeder, u16 s.feeder.capacity),
        (.lookUpConditions, flagBytes s.link.enables), (.lookUpChimeMap, s.tunes.chimeMap.toList.flatMap (optional u8)),
        (.lookUpDuskTable, s.calendar.duskTable.toList.flatMap u16), (.readStateTimeBase, s.timeBaseState),
        (.readStateTuneLibrary, s.tuneLibraryReport), (.readStateChimeSequencer, s.chimeReport),
        (.readStateClockProgram, s.clockReport), (.readStateOccasionCalendar, s.calendarReport),
        (.readStateFloodlightMixer, s.mixerReport), (.readStateFeederAccount, s.feederReport)],
      (s.working x.1).work x.1 = (s.working x.1).answer (reply .done 0 0 x.2) := by
  simp only [List.forall_mem_cons]
  exact ⟨rfl, rfl, rfl, rfl, rfl, rfl, rfl, rfl, rfl, rfl, rfl, rfl, rfl, rfl, fun _ h => absurd h List.not_mem_nil⟩

/-! A LOOK UP or READ STATE of a record with a handle (R88, R147, R169). -/

section
variable {h : Handle} {x : Tune} (range : handleInRange h Config.tunes = true) (named : s.findTune h = some x)
include range named

theorem State.work_readStateTune : (s.working (.readStateTune h)).work (.readStateTune h)
    = (s.working (.readStateTune h)).answer (reply .done h.slot h.gen (u8 (tuneStateCode x.state) ++ u8 x.refs)) :=
  State.withTune_found range (s := s.working _) named _

theorem State.work_lookUpTune : (s.working (.lookUpTune h none)).work (.lookUpTune h none)
    = (s.working (.lookUpTune h none)).answer (reply .done h.slot h.gen (tuneBytes x)) := by
  refine (State.withTune_found range (s := s.working _) named _).trans ((if_pos rfl).trans ?_)
  rw [State.answerWith, tuneLookUp, List.append_nil]

theorem State.work_lookUpTune_steps {first : Nat} (low : 1 ≤ first) (high : first ≤ 512) :
    (s.working (.lookUpTune h (some first))).work (.lookUpTune h (some first))
      = (s.working (.lookUpTune h (some first))).answer (reply .done h.slot h.gen
        (tuneBytes x ++ ((x.steps.drop (first - 1)).take 32).flatMap stepBytes)) :=
  (State.withTune_found range (s := s.working _) named _).trans (if_pos (by simp [low, high, Config.maxTuneSteps]))

theorem State.work_lookUpTune_badField {first : Nat} (h' : first = 0 ∨ 512 < first) :
    (s.working (.lookUpTune h (some first))).work (.lookUpTune h (some first))
      = (s.working (.lookUpTune h (some first))).answer (reply .badField h.slot h.gen) := by
  refine (State.withTune_found range (s := s.working _) named _).trans (if_neg ?_)
  simp only [Option.all_some, Bool.and_eq_true, decide_eq_true_eq]
  unfold Config.maxTuneSteps
  omega

end

section
variable {h : Handle} {o : Occasion} (range : handleInRange h Config.occasions = true) (named : s.findOccasion h = some o)
include range named

theorem State.work_lookUpOccasion : (s.working (.lookUpOccasion h)).work (.lookUpOccasion h)
    = (s.working (.lookUpOccasion h)).answer (reply .done h.slot h.gen (s.occasionLookUp o)) :=
  State.withOccasion_found range (s := s.working _) named _

theorem State.work_readStateOccasion : (s.working (.readStateOccasion h)).work (.readStateOccasion h)
    = (s.working (.readStateOccasion h)).answer (reply .done h.slot h.gen (s.occasionReport o)) :=
  State.withOccasion_found range (s := s.working _) named _

end

section
variable {h : Handle} {x : Scene} (range : handleInRange h Config.scenes = true) (named : s.findScene h = some x)
include range named

theorem State.work_lookUpScene : (s.working (.lookUpScene h)).work (.lookUpScene h) = (s.working (.lookUpScene h)).answer
    (reply .done h.slot h.gen (sceneConfigBytes x.config ++ u8 (sceneStateCode x.state))) :=
  State.withScene_found range (s := s.working _) named _

theorem State.work_readStateScene : (s.working (.readStateScene h)).work (.readStateScene h)
    = (s.working (.readStateScene h)).answer (reply .done h.slot h.gen (s.sceneReport h x)) :=
  State.withScene_found range (s := s.working _) named _

end

/-! LIST NEXT of each class with slots. -/

theorem State.work_listNextTune (s : State) (after : Option Nat) (f : Option TuneState) :
    (s.working (.listNextTune after f)).work (.listNextTune after f)
      = (s.working (.listNextTune after f)).answerNext (nextSlot s.tunes.slots after fun x => f.all (· == x.state)) := rfl

theorem State.work_listNextOccasion (s : State) (after : Option Nat) (f : Option OccasionState) :
    (s.working (.listNextOccasion after f)).work (.listNextOccasion after f)
      = (s.working (.listNextOccasion after f)).answerNext (nextSlot s.calendar.slots after fun x => f.all (· == x.state)) := rfl

theorem State.work_listNextScene (s : State) (after : Option Nat) (f : Option SceneState) :
    (s.working (.listNextScene after f)).work (.listNextScene after f)
      = (s.working (.listNextScene after f)).answerNext (nextSlot s.mixer.scenes after fun x => f.all (· == x.state)) := rfl

/-! ## Layouts (R184, section 11.5) -/

/-- R184: the bytes of a field, most significant first, each by its place. -/
theorem bytesOf_eq (k n : Nat) :
    (List.range k).map (fun j => BitVec.ofNat 8 (n / 256 ^ (k - 1 - j))) = bytesOf k n := by
  induction k generalizing n with
  | zero => rfl
  | succ k ih =>
    rw [List.range_succ, List.map_append, bytesOf, ← ih]
    congr 1
    · refine List.map_congr_left fun j hj => ?_
      have place : k + 1 - 1 - j = (k - 1 - j) + 1 := by have := List.mem_range.1 hj; omega
      rw [place, Nat.pow_succ', Nat.div_div_eq_div_mul]
    · simp

theorem bytesOf_one : bytesOf 1 = u8 := rfl

theorem bytesOf_two : bytesOf 2 = u16 := rfl

theorem bytesOf_three : bytesOf 3 = u24 := rfl

theorem bytesOf_four : bytesOf 4 = u32 := rfl

theorem optional_map {α : Type} (f : α → List Byte) (x : Option α) : optional id (x.map f) = optional f x := by
  cases x <;> rfl

theorem listed_map {α : Type} (f : α → List Byte) (l : List α) : listed id (l.map f) = listed f l := by
  simp [listed, List.flatMap]

theorem polarityCode_eq (p : Polarity) : polarityCode p = if p = .positive then 0 else 1 := by
  cases p <;> rfl

theorem nightModeCode_eq (m : NightMode) : nightModeCode m = if m = .all then 0 else 1 := by
  cases m <;> rfl

theorem modeCode_eq (m : LayerMode) : modeCode m = if m = .top then 0 else 1 := by
  cases m <;> rfl

theorem flatMap_four {α : Type} (f : α → List Byte) (a b c d : α) : [a, b, c, d].flatMap f = f a ++ f b ++ f c ++ f d := by
  simp

theorem labelBytes_length (l : Label) : (labelBytes l).length = 16 := by
  simp only [labelBytes, List.length_append, List.length_take, List.length_replicate]
  omega

theorem recurrenceBytes_length (x : Recurrence) : (recurrenceBytes x).length = 5 := by
  cases x <;> rfl

theorem anchorBytes_length (x : Anchor) : (anchorBytes x).length = 4 := by
  cases x <;> rfl

theorem windowBytes_length (d : Option Date) : (windowBytes d).length = 4 := by
  cases d <;> rfl

theorem actionBytes_length (a : Action) : (actionBytes a).length = 10 := by
  obtain ⟨_, kind⟩ := a
  cases kind <;> rfl

/-- Section 11.5: the configuration of an occasion record takes 77 bytes. -/
theorem occasionConfigBytes_length {c : OccasionConfig} (four : c.actions.length ≤ 4) : (occasionConfigBytes c).length = 77 := by
  have blocks : (c.actions.flatMap actionBytes).length = 10 * c.actions.length := by
    simp [List.length_flatMap, actionBytes_length, Nat.mul_comm]
  simp only [occasionConfigBytes, List.length_append, labelBytes_length, recurrenceBytes_length, anchorBytes_length,
    windowBytes_length, blocks, List.length_replicate, u8, List.length_singleton]
  omega

theorem countP_toList {α : Type} {n : Nat} (x : Vector α n) (p : α → Bool) (blank : α) :
    x.toList.countP p = ((List.range n).filter fun j => p (x.getD j blank)).length := by
  have listed : x.toList = (List.range n).map fun j => x.getD j blank := by
    refine List.ext_getElem (by simp) fun j h _ => ?_
    have lt : j < n := by simpa using h
    simp [lt, Vector.getD]
  rw [listed, List.countP_map, List.countP_eq_length_filter]
  rfl

theorem countSlots_eq {α : Type} {n : Nat} (slots : Vector (Slot α) n) (test : Option α → Bool) :
    countSlots slots test = ((List.range n).filter fun j => test (slots.getD j ⟨0, none⟩).record).length :=
  countP_toList slots _ _


theorem tollReport_none {c : Nat} (h : s.toll c = none) : s.tollReport c = u8 0 ++ u8 0 ++ (u8 (s.lastToll c).interval
    ++ u16 (s.lastToll c).blowsLeft ++ u8 (s.lastToll c).velocity ++ tollSourceBytes (s.lastToll c).source
    ++ fromNow s (s.lastToll c).start ++ u16 (s.lastToll c).nextBlow
    ++ optional (fun b : ScheduledBlow => fromNow s b.sounding ++ fromNow s b.requestAt) (s.lastToll c).scheduled
    ++ u16 (s.lastToll c).skipped) := by
  simp [State.tollReport, h, optional, u8]

theorem tollReport_some {c : Nat} {t : TollRun} (h : s.toll c = some t) : s.tollReport c = u8 1 ++ u8 1 ++ u8 t.bell
    ++ (u8 t.interval ++ u16 t.blowsLeft ++ u8 t.velocity ++ tollSourceBytes t.source ++ fromNow s t.start ++ u16 t.nextBlow
    ++ optional (fun b : ScheduledBlow => fromNow s b.sounding ++ fromNow s b.requestAt) t.scheduled ++ u16 t.skipped) := by
  simp [State.tollReport, h, optional, u8]

theorem chimeReport_eq (s : State) : s.chimeReport = listed entryBytes s.chime.queue
    ++ optional (performanceBytes s) s.chime.performance ++ s.tollReport 0 ++ s.tollReport 1
    ++ optional commandOutcomeBytes s.chime.lastOutcome := by
  simp only [State.chimeReport, Config.tolls, List.range_succ_eq_map, List.range_zero, List.map_nil, List.map_cons,
    List.flatMap_cons, List.flatMap_nil, List.append_nil, List.append_assoc, Nat.succ_eq_add_one, Nat.zero_add]

theorem lineReport_ambient {i : Nat} (h : (s.line i).record.function = .ambient) : s.lineReport i
    = u8 (functionCode (s.line i).record.function) ++ optional u8 (s.line i).record.bound ++ optional u16 (s.line i).lastReading := by
  simp only [State.lineReport, if_pos h]

theorem lineReport_output {i : Nat} (h : (s.line i).record.function ≠ .ambient)
    (output : isOutput (s.line i).record.function = true) : s.lineReport i
    = u8 (functionCode (s.line i).record.function) ++ optional u8 (s.line i).record.bound ++ yesNo (s.outputActive i) := by
  simp only [State.lineReport, if_neg h, if_pos output]

theorem lineReport_input {i : Nat} (h : (s.line i).record.function ≠ .ambient)
    (input : isOutput (s.line i).record.function = false) : s.lineReport i
    = u8 (functionCode (s.line i).record.function) ++ optional u8 (s.line i).record.bound ++ yesNo (s.line i).filtered
      ++ yesNo (s.line i).pinHigh := by
  simp only [State.lineReport, if_neg h, input, Bool.false_eq_true, if_false, List.append_assoc]

/-- Settles O60: what each request is answered, then the layouts of the answers. -/
theorem readingChangesNothing : Obligations.ReadingChangesNothing := by
  unfold Obligations.ReadingChangesNothing
  refine ⟨fun s dt i ready => ?_, rfl, rfl, rfl, rfl, rfl, rfl, fun _ _ => rfl, rfl, rfl, rfl, rfl, rfl, rfl, rfl, rfl, rfl,
    fun s => ?_⟩
  · intro answers e found
    have answered {r : Request} {x : Response} (h : (e.working r).work r = (e.working r).answer x) : answers r x :=
      (exec_commandOf ready dt r).trans (congrArg _ h)
    have list {α σ : Type} [DecidableEq σ] {n : Nat} {slots : Vector (Slot α) n} {after : Option Nat} {f : Option σ} (state : α → σ)
        {r : Request} (h : (e.working r).work r = (e.working r).answerNext (nextSlot slots after fun x => f.all (· == state x))) :
        found r (fun j => (slots.getD j ⟨0, none⟩).record.any fun x => f = none || f = some (state x)) n
          (fun j => (slots.getD j ⟨0, none⟩).gen) after := by
      simp only [filter_all_eq] at h
      exact ⟨fun j hj above passes first =>
          answered (h.trans (State.answerNext_some _ (nextSlot_eq_some hj above passes first))),
        fun nothing => answered (h.trans (State.answerNext_none _ (nextSlot_eq_none nothing)))⟩
    refine ⟨fun after f => ?_, fun after f => ?_, fun after f => ?_, ?_, fun h t first slot low high named => ?_,
      fun h o slot low high named => ?_, fun h x slot low high named => ?_, ?_⟩
    · exact list Tune.state (e.work_listNextTune after f)
    · exact list Occasion.state (e.work_listNextOccasion after f)
    · exact list Scene.state (e.work_listNextScene after f)
    · exact fun x hx =>
        ⟨fun lt => answered ((e.work_indexRead i x hx).trans (State.answerIndex_of_lt lt _ _)),
          fun ge => answered ((e.work_indexRead i x hx).trans (State.answerIndex_of_ge ge _ _))⟩
    · have range := handleInRange_of slot low high
      exact ⟨answered (State.work_readStateTune (s := e) range named), answered (State.work_lookUpTune (s := e) range named),
        fun out => answered (State.work_lookUpTune_badField (s := e) range named out),
        fun low high => answered (State.work_lookUpTune_steps (s := e) range named low high)⟩
    · have range := handleInRange_of slot low high
      exact ⟨answered (State.work_lookUpOccasion (s := e) range named), answered (State.work_readStateOccasion (s := e) range named)⟩
    · have range := handleInRange_of slot low high
      exact ⟨answered (State.work_lookUpScene (s := e) range named), answered (State.work_readStateScene (s := e) range named)⟩
    · exact fun x hx => answered (e.work_blockRead x hx)
  · intro be yes opt zeros two many lab hand hm date instant localInstant ago
    have be_eq : be = bytesOf := funext fun k => funext fun n => bytesOf_eq k n
    have yes_eq : yes = yesNo := funext fun b => by cases b <;> rfl
    have opt_eq : opt = optional id := funext fun x => by cases x <;> rfl
    have zeros_eq : zeros = fun n => List.replicate n 0 := rfl
    have two_eq : two = signed := funext fun k => funext fun x => bytesOf_eq k _
    have many_eq : many = listed id := funext fun l => by simp [many, listed, be_eq, bytesOf_one]
    have lab_eq : lab = labelBytes := rfl
    have hand_eq : hand = handleBytes := funext fun h => by simp only [hand, be_eq]; rfl
    have hm_eq : hm = hourMinuteBytes := funext fun t => by simp only [hm, be_eq]; rfl
    have date_eq : date = dateBytes := funext fun d => by simp only [date, be_eq]; rfl
    have instant_eq : instant = instantBytes := funext fun t => by simp only [instant, date_eq, be_eq]; rfl
    have local_eq : localInstant = s.localBytes := funext fun t => by simp only [localInstant, instant_eq]; rfl
    have ago_eq : ago = fromNow s := funext fun t => by simp only [ago, two_eq]; rfl
    clear_value ago localInstant instant date hm hand lab many two zeros opt yes be
    subst be_eq yes_eq opt_eq zeros_eq two_eq many_eq lab_eq hand_eq hm_eq date_eq instant_eq local_eq ago_eq
    simp -zeta only [bytesOf_one, bytesOf_two, bytesOf_three, bytesOf_four, optional_map, listed_map]
    refine ⟨fun _ => rfl, rfl, fun d => ?dial, fun _ => rfl, fun _ => rfl, fun _ => rfl, fun _ _ _ _ => rfl, fun _ => rfl,
      fun _ _ => rfl, fun c => ?clock, fun _ => rfl, fun _ => rfl, fun c => ?scene, fun _ => rfl, fun c => ?configuration,
      fun o => ?occasion, rfl, fun i => ?dialReport, fun i => ⟨lineReport_ambient, lineReport_output, lineReport_input⟩,
      fun i k => ?bellReport, ?tuneReport, ?chimeReport, ?clockReport, ?calendarReport, fun i => ?channelReport, ?mixerReport, rfl⟩
    case dial => rw [dialBytes, polarityCode_eq]
    case clock => rw [clockConfigBytes, flatMap_four, nightModeCode_eq]; simp only [List.append_assoc]
    case scene => rw [sceneConfigBytes, modeCode_eq]
    case configuration =>
      intro recurrence anchor block day
      have recurrence_eq : recurrence = recurrenceBytes c.recurrence := by
        simp only [recurrence]
        cases c.recurrence <;> rfl
      have anchor_eq : anchor = anchorBytes c.anchor := by
        simp only [anchor]
        cases c.anchor <;> rfl
      have block_eq : block = actionBytes := by
        funext ⟨_, kind⟩
        cases kind <;> rfl
      have day_eq : day = windowBytes := by
        funext d
        cases d <;> rfl
      rw [recurrence_eq, anchor_eq, block_eq, day_eq]
      exact ⟨rfl, occasionConfigBytes_length⟩
    case occasion =>
      intro outcome four due actions phase
      have actions_eq : actions = match o.context with | some i => (s.context i).elim [] (·.actions) | none => [] := by
        simp only [actions]
        cases o.context with
        | none => rfl
        | some i =>
          change ((s.context i).map (·.actions)).getD [] = (s.context i).elim [] (·.actions)
          cases s.context i <;> rfl
      have phase_eq : phase = s.phaseBytes := by
        funext ⟨_, _, p⟩
        cases p with
        | active h => cases h <;> rfl
        | _ => rfl
      rw [actions_eq, phase_eq]
      exact ⟨rfl, rfl⟩
    case dialReport => simp only [State.dialReport, polarityCode_eq]
    case bellReport =>
      intro b running stroke hammer motor
      have running_eq : running = fun x => fromNow s x.sounding ++ u8 x.velocity ++ u8 (requesterCode x.requester) ++ yesNo x.raised := by
        funext x
        simp only [running]
        cases x.requester <;> rfl
      have stroke_eq : stroke = s.strokeDetail k := by
        simp only [stroke, running_eq]
        cases k <;> rfl
      have hammer_eq : hammer = s.hammerReport i k := by
        simp only [hammer, stroke_eq, State.hammerReport]
        cases s.hasMachine i <;> cases s.hasLine .hammerBusy i <;> rfl
      have motor_eq : motor = s.motorReport b := by
        simp only [motor, State.motorReport]
        cases b.motor <;> rfl
      rw [hammer_eq, motor_eq]
      rfl
    case tuneReport => simp only [State.tuneLibraryReport, countSlots_eq]; rfl
    case chimeReport =>
      intro content source entry performance tollFields toll outcome
      have content_eq : content = contentBytes := by
        funext x
        cases x <;> rfl
      have source_eq : source = sourceBytes := by
        funext x
        cases x <;> rfl
      have outcome_eq : outcome = commandOutcomeBytes := by
        funext ⟨what, _, _, _⟩
        cases what <;> rfl
      have entry_eq : entry = entryBytes := by
        funext x
        simp only [entry, source_eq, content_eq]
        rfl
      have performance_eq : performance = performanceBytes s := by
        funext p
        simp only [performance, performanceBytes, passesByte]
        cases p.passes <;> rfl
      have tollFields_eq : tollFields = fun t => u8 t.interval ++ u16 t.blowsLeft ++ u8 t.velocity ++ tollSourceBytes t.source
          ++ fromNow s t.start ++ u16 t.nextBlow
          ++ optional (fun b : ScheduledBlow => fromNow s b.sounding ++ fromNow s b.requestAt) t.scheduled ++ u16 t.skipped := by
        funext t
        simp only [tollFields]
        cases t.source <;> rfl
      have toll_eq : toll = s.tollReport := by
        funext c
        simp only [toll, tollFields_eq]
        cases h : s.toll c with
        | none => rw [tollReport_none h]
        | some t => rw [tollReport_some h]
      rw [entry_eq, performance_eq, toll_eq, outcome_eq, chimeReport_eq]
    case clockReport =>
      have outcome_eq : clockOutcomeBytes = fun x => u8 (if x.source = .quarter then 0 else 1) ++ instantBytes x.mark
          ++ u8 (entryReportCode x.report) ++ u16 x.skipped := by
        funext ⟨source, _, _, _⟩
        cases source <;> rfl
      simp only [State.clockReport, flatMap_four, outcome_eq, ← List.append_assoc]
      rfl
    case calendarReport => 
      simp only [State.calendarReport, countSlots_eq, countP_toList _ Option.isSome none]
      rfl
    case channelReport => rfl
    case mixerReport => 
      intro fade creator ending
      have creator_eq : creator = creatorBytes := by
        funext x
        cases x <;> rfl
      simp only [ending, creator_eq, State.sceneReport, State.mixerReport, countSlots_eq]
      refine ⟨fun h x => ?_, ?_⟩
      · simp only [← beq_eq_decide]
        rfl
      · rfl

end Sys2Proof.Machine
end

section
/-! What an AMEND is answered, and the ranges its fields are put to (R2, R6, R37 to R39, R44, R85, R112, R144, R148, R164, R170). -/

namespace Sys2Proof.Machine

variable {s : State}

/-! ## Answers of each AMEND -/

theorem State.writeThenAnswer_first (h : s.memory.writes = []) (w : WriteEffect) (x : Response) :
    s.writeThenAnswer w x = { s with memory.writes := [{ effect := w, response := some x }] } := by
  simp only [State.writeThenAnswer, h, List.nil_append]

section
variable {i : Nat} {r : LineRecord}

theorem State.workAmendLine_badField (h : 64 ≤ i ∨ s.lineRecordOk i r = false) : s.workAmendLine i r = s.badField i :=
  if_neg fun ⟨lt, ok⟩ => h.elim (Nat.not_le.2 lt) fun bad => Bool.false_ne_true (bad.symm.trans ok)

theorem State.workAmendLine_wrongState (lt : i < 64) (ok : s.lineRecordOk i r = true)
    (h : s.boundInService (s.line i).record = true ∨ s.boundInService r = true) : s.workAmendLine i r = s.wrongState i :=
  (if_pos ⟨lt, ok⟩).trans (if_pos (by simpa using h))

theorem State.workAmendLine_free (lt : i < 64) (ok : s.lineRecordOk i r = true)
    (h : s.boundInService (s.line i).record = false) (h' : s.boundInService r = false) :
    s.workAmendLine i r = if s.motorFull i r then s.answer (reply .full i 0) else s.writeThenAnswer (.line i r) (reply .done i 0) :=
  (if_pos ⟨lt, ok⟩).trans (if_neg (by simp [h, h']))

end

section
variable {i : Nat} {c : BellConfig}

theorem State.workAmendBell_badField (h : 40 ≤ i ∨ s.bellAmendOk i c = false) : s.workAmendBell i c = s.badField i :=
  if_neg fun ⟨lt, ok⟩ => h.elim (Nat.not_le.2 lt) fun bad => Bool.false_ne_true (bad.symm.trans ok)

theorem State.workAmendBell_wrongState (lt : i < 40) (ok : s.bellAmendOk i c = true)
    (rating : (s.bell i).config.motorRating ≠ c.motorRating) (motor : (s.bell i).motor ≠ .off) :
    s.workAmendBell i c = s.wrongState i :=
  (if_pos ⟨lt, ok⟩).trans (if_pos ⟨rating, motor⟩)

theorem State.workAmendBell_written (lt : i < 40) (ok : s.bellAmendOk i c = true)
    (h : (s.bell i).config.motorRating = c.motorRating ∨ (s.bell i).motor = .off) :
    s.workAmendBell i c = s.writeThenAnswer (.bell i c) (reply .done i 0) :=
  (if_pos ⟨lt, ok⟩).trans (if_neg fun ⟨rating, motor⟩ => h.elim rating motor)

end

theorem State.workAmendChannel_badField {i : Nat} {c : ChannelConfig} (h : 24 ≤ i ∨ s.channelAmendOk i c = false) :
    s.workAmendChannel i c = s.badField i :=
  if_neg fun ⟨lt, ok⟩ => h.elim (Nat.not_le.2 lt) fun bad => Bool.false_ne_true (bad.symm.trans ok)

theorem handleInRange_eq_false {h : Handle} {slots : Nat} (out : slots ≤ h.slot ∨ h.gen = 0 ∨ 255 < h.gen) :
    handleInRange h slots = false := by
  simp only [handleInRange, Bool.and_eq_false_iff, decide_eq_false_iff_not]
  omega

theorem State.withScene_out {h : Handle} (out : handleInRange h Config.scenes = false) (act : Scene → State) :
    s.withScene h act = s.badField h.slot h.gen := by
  unfold State.withScene
  rw [if_neg (by simp [out])]

theorem State.withScene_none {h : Handle} (range : handleInRange h Config.scenes = true) (none : s.findScene h = none)
    (act : Scene → State) : s.withScene h act = s.noRecord h.slot h.gen := by
  unfold State.withScene
  rw [if_pos range, none]

section
variable {h : Handle} {x : Scene} {c : SceneConfig} (range : handleInRange h Config.scenes = true) (found : s.findScene h = some x)
include range found

theorem State.workAmendScene_retiring (state : x.state = .retiring) : s.workAmendScene h c = s.wrongState h.slot h.gen :=
  (State.withScene_found range found _).trans (if_pos state)

theorem State.workAmendScene_live (state : x.state = .live) : s.workAmendScene h c
    = if sceneConfigOk c then s.writeThenAnswer (.scene h c) (reply .done h.slot h.gen) else s.badField h.slot h.gen :=
  (State.withScene_found range found _).trans (if_neg (by simp [state]))

end

section
variable {c : Nat}

theorem State.workAmendFeeder_badField (h : 60000 < c) : s.workAmendFeeder c = s.badField :=
  if_neg (by simpa [capacityOk] using h)

theorem State.workAmendFeeder_wrongState (h : c ≤ 60000) (under : c < s.loadSeen) : s.workAmendFeeder c = s.wrongState :=
  (if_pos (by simpa [capacityOk] using h)).trans (if_pos under)

theorem State.workAmendFeeder_written (h : c ≤ 60000) (enough : s.loadSeen ≤ c) :
    s.workAmendFeeder c = s.writeThenAnswer (.feeder c) (reply .done 0 0) :=
  (if_pos (by simpa [capacityOk] using h)).trans (if_neg (Nat.not_lt.2 enough))

end

/-! ## The checks, field by field -/

theorem HourMinute.isReal_iff (t : HourMinute) : t.isReal = true ↔ t.hour ≤ 23 ∧ t.minute ≤ 59 := by
  simp [HourMinute.isReal]

theorem labelOk_iff (l : Label) : labelOk l = true ↔ l.length ≤ 16 := decide_eq_true_iff

theorem handleInRange_iff (h : Handle) (slots : Nat) : handleInRange h slots = true ↔ h.slot < slots ∧ 1 ≤ h.gen ∧ h.gen ≤ 255 := by
  simp [handleInRange, and_assoc]

theorem distinct_iff (l : List Nat) : distinct l = true ↔ l.Nodup := decide_eq_true_iff

theorem summerRuleOk_iff (r : SummerRule) : summerRuleOk r = true ↔ 15 ≤ r.offset ∧ r.offset ≤ 120 ∧ r.offset % 15 = 0 ∧
    1 ≤ r.startMonth ∧ r.startMonth ≤ 12 ∧ 1 ≤ r.endMonth ∧ r.endMonth ≤ 12 ∧ r.startMonth ≠ r.endMonth ∧ 1 ≤ r.startWeek ∧
    r.startWeek ≤ 5 ∧ 1 ≤ r.endWeek ∧ r.endWeek ≤ 5 ∧ r.startTime.hour ≤ 23 ∧ r.startTime.minute ≤ 59 ∧ r.endTime.hour ≤ 23 ∧
    r.endTime.minute ≤ 59 ∧ r.startTime.hour * 60 + r.startTime.minute + r.offset < 1440 ∧
    r.offset ≤ r.endTime.hour * 60 + r.endTime.minute := by
  have start : r.startTime.seconds + r.offset * 60 < 86400 ↔ r.startTime.hour * 60 + r.startTime.minute + r.offset < 1440 := by
    unfold HourMinute.seconds
    omega
  have stop : r.offset * 60 ≤ r.endTime.seconds ↔ r.offset ≤ r.endTime.hour * 60 + r.endTime.minute := by
    unfold HourMinute.seconds
    omega
  simp only [summerRuleOk, Config.daySeconds, Bool.and_eq_true, decide_eq_true_eq, beq_iff_eq, bne_iff_ne, HourMinute.isReal_iff,
    start, stop]
  tauto

theorem boundKind_bell (f : LineFunction) : boundKind f = some .bell ↔
    f ∈ [.hammerStrike, .hammerBusy, .swingSense, .restSense, .motor, .bellKey] := by
  cases f <;> decide

theorem boundKind_dial (f : LineFunction) : boundKind f = some .dial ↔ f ∈ [.dialPositive, .dialNegative, .dialSense] := by
  cases f <;> decide

theorem boundKind_channel (f : LineFunction) : boundKind f = some .channel ↔ f = .lamp := by
  cases f <;> decide

theorem boundOk_iff (r : LineRecord) : boundOk r = true ↔ (boundKind r.function = none → r.bound = none) ∧
    (boundKind r.function ≠ none → ∃ b, r.bound = some b ∧ (boundKind r.function = some .bell → b < 40) ∧
      (boundKind r.function = some .dial → b < 6) ∧ (boundKind r.function = some .channel → b < 24)) := by
  unfold boundOk
  cases boundKind r.function with
  | none => simp
  | some k =>
    cases r.bound with
    | none => simp
    | some b =>
      simp only [decide_eq_true_eq]
      cases k <;> simp [BoundKind.size, Config.bells, Config.dials, Config.channels]

theorem State.boundElsewhere_iff (s : State) (i : Nat) (r : LineRecord) : s.boundElsewhere i r = true ↔
    ∃ j, j < 64 ∧ j ≠ i ∧ (s.line j).record.function = r.function ∧ (s.line j).record.bound = r.bound := by
  simp [State.boundElsewhere, Config.lines]

theorem State.lineRecordOk_iff (s : State) (i : Nat) (r : LineRecord) : s.lineRecordOk i r = true ↔
    (r.function = .ambient → 56 ≤ i) ∧ r.filter ≤ 15 ∧ (boundKind r.function = none → r.bound = none) ∧
    (boundKind r.function ≠ none → ∃ b, r.bound = some b ∧ (boundKind r.function = some .bell → b < 40) ∧
      (boundKind r.function = some .dial → b < 6) ∧ (boundKind r.function = some .channel → b < 24)) ∧
    (boundKind r.function ≠ none → r.function ≠ .bellKey → ∀ j, j < 64 → j ≠ i →
      ¬((s.line j).record.function = r.function ∧ (s.line j).record.bound = r.bound)) := by
  have exclusive : (!(isExclusive r.function && s.boundElsewhere i r)) = true ↔
      (boundKind r.function ≠ none → r.function ≠ .bellKey → ∀ j, j < 64 → j ≠ i →
        ¬((s.line j).record.function = r.function ∧ (s.line j).record.bound = r.bound)) := by
    rw [Bool.not_eq_true', Bool.eq_false_iff, Ne, Bool.and_eq_true, State.boundElsewhere_iff, isExclusive, Bool.and_eq_true,
      Option.isSome_iff_ne_none, bne_iff_ne]
    push Not
    tauto
  have ambient : (r.function != .ambient || decide (56 ≤ i)) = true ↔ (r.function = .ambient → 56 ≤ i) := by
    simp only [Bool.or_eq_true, bne_iff_ne, decide_eq_true_eq]
    tauto
  rw [State.lineRecordOk, Bool.and_eq_true, Bool.and_eq_true, Bool.and_eq_true, exclusive, ambient, boundOk_iff, decide_eq_true_eq]
  tauto

theorem State.boundInService_iff (s : State) {r : LineRecord} {b : Nat} (h : r.bound = some b) : s.boundInService r = true ↔
    (boundKind r.function = some .bell ∧ (s.bell b).config.inService = true) ∨
    (boundKind r.function = some .dial ∧ (s.dial b).service = true) ∨
    (boundKind r.function = some .channel ∧ (s.channel b).config.inService = true) := by
  unfold State.boundInService
  rw [h]
  cases boundKind r.function with
  | none => simp
  | some k => cases k <;> simp

theorem State.motorFull_iff (s : State) (i : Nat) (r : LineRecord) : s.motorFull i r = true ↔ r.function = .motor ∧
    6 ≤ ((List.range 64).filter fun j => j != i && decide ((s.line j).record.function = .motor)).length := by
  simp only [State.motorFull, Bool.and_eq_true, decide_eq_true_eq, List.countP_eq_length_filter, beq_eq_decide]
  rfl

theorem State.countLines_eq (s : State) (f : LineFunction) (b : Nat) : s.countLines f b
    = (s.lines.toList.filter fun l => decide (l.record.function = f ∧ l.record.bound = some b)).length :=
  List.countP_eq_length_filter

theorem bellConfigOk_iff (c : BellConfig) : bellConfigOk c = true ↔ c.label.length ≤ 16 ∧ 10 ≤ c.settle ∧ c.settle ≤ 600 ∧
    c.lead ≤ 400 ∧ (∀ v ∈ [c.velocity0, c.velocity1, c.velocity2, c.velocity3], 10 ≤ v ∧ v ≤ 200) ∧
    100 ≤ c.repeatInterval ∧ c.repeatInterval ≤ 3000 ∧ c.motorRating ≤ 7500 := by
  simp only [bellConfigOk, Bool.and_eq_true, decide_eq_true_eq, labelOk_iff, List.all_eq_true, and_assoc]

/-- R39: the lines a bell's settings call for. -/
theorem State.bellLinesOk_iff (s : State) (i : Nat) (c : BellConfig) : s.bellLinesOk i c = true ↔
    (c.hammerInService = true → s.countLines .hammerStrike i = 1 ∧ s.countLines .hammerBusy i = if c.feedback = .busy then 1 else 0) ∧
    (c.hammerInService = false → s.countLines .hammerStrike i ≤ 1 ∧ s.countLines .hammerBusy i ≤ 1) ∧
    s.countLines .swingSense i = (if c.sensorMode = .none then 0 else 1) ∧
    s.countLines .restSense i = (if c.sensorMode = .swingAndRest then 1 else 0) ∧
    (c.motorRating = 0 → s.countLines .motor i = 0) ∧
    (0 < c.motorRating → s.countLines .motor i = 1 ∧ c.sensorMode ≠ .none) := by
  have hammer : (if c.hammerInService then
        s.countLines .hammerStrike i == 1 && s.countLines .hammerBusy i == (if c.feedback = .busy then 1 else 0)
      else decide (s.countLines .hammerStrike i ≤ 1) && decide (s.countLines .hammerBusy i ≤ 1)) = true ↔
      (c.hammerInService = true → s.countLines .hammerStrike i = 1 ∧
        s.countLines .hammerBusy i = if c.feedback = .busy then 1 else 0) ∧
      (c.hammerInService = false → s.countLines .hammerStrike i ≤ 1 ∧ s.countLines .hammerBusy i ≤ 1) := by
    cases c.hammerInService <;> simp
  have sensors : (match c.sensorMode with
        | .none => s.countLines .swingSense i == 0 && s.countLines .restSense i == 0
        | .swingOnly => s.countLines .swingSense i == 1 && s.countLines .restSense i == 0
        | .swingAndRest => s.countLines .swingSense i == 1 && s.countLines .restSense i == 1) = true ↔
      s.countLines .swingSense i = (if c.sensorMode = .none then 0 else 1) ∧
      s.countLines .restSense i = (if c.sensorMode = .swingAndRest then 1 else 0) := by
    cases c.sensorMode <;> simp
  have motor : (if 0 < c.motorRating then s.countLines .motor i == 1 && c.sensorMode != .none else s.countLines .motor i == 0) = true ↔
      (c.motorRating = 0 → s.countLines .motor i = 0) ∧
      (0 < c.motorRating → s.countLines .motor i = 1 ∧ c.sensorMode ≠ .none) := by
    by_cases h : c.motorRating = 0 <;> simp [h, Nat.pos_iff_ne_zero]
  rw [State.bellLinesOk, Bool.and_eq_true, Bool.and_eq_true]
  refine (and_congr (and_congr hammer sensors) motor).trans ?_
  simp only [and_assoc]

theorem bellLinesFieldsDiffer_iff (old new : BellConfig) : bellLinesFieldsDiffer old new = true ↔
    old.hammerInService ≠ new.hammerInService ∨ old.feedback ≠ new.feedback ∨ old.sensorMode ≠ new.sensorMode ∨
    old.motorRating ≠ new.motorRating := by
  simp only [bellLinesFieldsDiffer, Bool.or_eq_true, bne_iff_ne, or_assoc]

theorem State.bellAmendOk_iff (s : State) (i : Nat) (c : BellConfig) : s.bellAmendOk i c = true ↔ bellConfigOk c = true ∧
    (c.inService = true → ((s.bell i).config.inService = false ∨ bellLinesFieldsDiffer (s.bell i).config c = true) →
      s.bellLinesOk i c = true) := by
  simp only [State.bellAmendOk, Bool.and_eq_true, Bool.or_eq_true, Bool.not_eq_true', Bool.if_true_right, decide_eq_false_iff_not]
  tauto

theorem mapPairsOk_iff (p : List (Nat × Option Nat)) : mapPairsOk p = true ↔ 1 ≤ p.length ∧ p.length ≤ 32 ∧ (p.map (·.1)).Nodup ∧
    ∀ x ∈ p, x.1 < 32 ∧ ∀ b, x.2 = some b → b < 40 := by
  simp only [mapPairsOk, Bool.and_eq_true, decide_eq_true_eq, List.all_eq_true, distinct_iff, Option.all_eq_true]
  unfold Config.degrees Config.bells
  tauto

theorem nightOk_iff (start stop : Option HourMinute) :
    (match start, stop with
      | none, none => true
      | some a, some b => a.isReal && b.isReal && a != b
      | _, _ => false) = true ↔
    (start = none ∧ stop = none) ∨ ∃ a b, start = some a ∧ stop = some b ∧ a ≠ b ∧ a.hour ≤ 23 ∧ a.minute ≤ 59 ∧ b.hour ≤ 23 ∧
      b.minute ≤ 59 := by
  cases start <;> cases stop <;> simp [HourMinute.isReal_iff]
  tauto

theorem clockConfigOk_iff (c : ClockConfig) : clockConfigOk c = true ↔
    (∀ x ∈ [c.first, c.second, c.third, c.fourth], ∀ h, x = some h → h.slot < 64 ∧ 1 ≤ h.gen ∧ h.gen ≤ 255) ∧
    c.hourBell < 40 ∧ 100 ≤ c.blowInterval ∧ c.blowInterval ≤ 1000 ∧ c.hourVelocity ≤ 3 ∧ c.strikeGap ≤ 1000 ∧
    c.quarterPriority ≤ 7 ∧ c.hourPriority ≤ 7 ∧ 10 ≤ c.expiry ∧ c.expiry ≤ 300 ∧
    ((c.nightStart = none ∧ c.nightEnd = none) ∨ ∃ a b, c.nightStart = some a ∧ c.nightEnd = some b ∧ a ≠ b ∧ a.hour ≤ 23 ∧
      a.minute ≤ 59 ∧ b.hour ≤ 23 ∧ b.minute ≤ 59) := by
  rw [clockConfigOk, Bool.and_eq_true]
  refine (and_congr_right' (nightOk_iff c.nightStart c.nightEnd)).trans ?_
  simp only [Bool.and_eq_true, decide_eq_true_eq, List.all_eq_true, Option.all_eq_true, handleInRange_iff, and_assoc]

theorem duskSettingsOk_iff (l : Option Nat) (a b : Nat) : duskSettingsOk l a b = true ↔ (∀ i, l = some i → 56 ≤ i ∧ i ≤ 63) ∧
    a ≤ 1023 ∧ 1 ≤ b ∧ b ≤ 30 := by
  simp only [duskSettingsOk, Bool.and_eq_true, decide_eq_true_eq, Option.all_eq_true, and_assoc]

theorem duskPairsOk_iff (p : List (Nat × Nat)) : duskPairsOk p = true ↔ 1 ≤ p.length ∧ p.length ≤ 53 ∧ (p.map (·.1)).Nodup ∧
    ∀ x ∈ p, x.1 < 53 ∧ x.2 ≤ 1439 := by
  simp only [duskPairsOk, Bool.and_eq_true, decide_eq_true_eq, List.all_eq_true, distinct_iff]
  unfold Config.weeks
  tauto

theorem State.channelAmendOk_iff (s : State) (i : Nat) (c : ChannelConfig) : s.channelAmendOk i c = true ↔ c.label.length ≤ 16 ∧
    c.rating ≤ 6000 ∧ c.ceiling ≤ 4095 ∧ c.floor ≤ 4095 ∧
    (c.inService = true → (s.channel i).config.inService = false → s.countLines .lamp i = 1) := by
  have lamp : (!c.inService || (s.channel i).config.inService || s.countLines .lamp i == 1) = true ↔
      (c.inService = true → (s.channel i).config.inService = false → s.countLines .lamp i = 1) := by
    cases c.inService <;> cases (s.channel i).config.inService <;> simp
  simp only [State.channelAmendOk, Bool.and_eq_true, decide_eq_true_eq, labelOk_iff, lamp, and_assoc]

/-- Settles O58: what each AMEND is answered, then its checks field by field. -/
theorem amendsAskForOneWrite : Obligations.AmendsAskForOneWrite := by
  unfold Obligations.AmendsAskForOneWrite
  intro s dt ready asks answers
  let taken (r : Request) : State := (s.elapse dt).working r
  have answered {r : Request} {t : State} (h : (taken r).work r = t) : exec (commandOf dt r) s = .next t :=
    (exec_commandOf ready dt r).trans (congrArg _ h)
  have asked {r : Request} {w : WriteEffect} {slot gen : Nat} (h : (taken r).work r = (taken r).writeThenAnswer w (reply .done slot gen)) :
      asks r w slot gen :=
    answered (h.trans (State.writeThenAnswer_first (s := taken r) ready.noWrite _ _))
  refine ⟨fun x => ⟨fun ok => asked (if_pos ok), fun bad => answered (if_neg (by simp [bad]))⟩, fun i r => ?line, fun i c => ?bell,
    fun p => ⟨fun ok => asked (if_pos ok), fun bad => answered (if_neg (by simp [bad]))⟩,
    fun c => ⟨fun ok => asked (if_pos ok), fun bad => answered (if_neg (by simp [bad]))⟩,
    fun l a b => ⟨fun ok => asked (if_pos ok), fun bad => answered (if_neg (by simp [bad]))⟩,
    fun p => ⟨fun ok => asked (if_pos ok), fun bad => answered (if_neg (by simp [bad]))⟩,
    fun i c => ⟨fun lt ok => asked (if_pos ⟨lt, ok⟩),
      fun bad => answered (State.workAmendChannel_badField (s := taken _) bad)⟩,
    fun h x c slot low high found live ok => ?scene, fun h c => ?sceneRefused, fun c => ?feeder, fun f => asked rfl,
    summerRuleOk_iff, fun f => ⟨boundKind_bell f, boundKind_dial f, boundKind_channel f⟩, s.lineRecordOk_iff,
    fun r b => s.boundInService_iff, s.motorFull_iff, s.countLines_eq, fun i c => ?bellChecks, mapPairsOk_iff, clockConfigOk_iff,
    duskSettingsOk_iff, duskPairsOk_iff, s.channelAmendOk_iff⟩
  case line =>
    refine ⟨fun bad => answered (State.workAmendLine_badField (s := taken _) bad), fun lt ok =>
      ⟨fun served => answered (State.workAmendLine_wrongState (s := taken _) lt ok served), fun free free' => ?_⟩⟩
    have judged := State.workAmendLine_free (s := taken (.amendLine i r)) lt ok free free'
    exact ⟨fun full => answered (judged.trans (if_pos full)),
      fun room => asked (judged.trans (if_neg fun full => Bool.false_ne_true (room.symm.trans full)))⟩
  case bell =>
    exact ⟨fun bad => answered (State.workAmendBell_badField (s := taken _) bad), fun lt ok =>
      ⟨fun rating motor => answered (State.workAmendBell_wrongState (s := taken _) lt ok rating motor),
        fun h => asked (State.workAmendBell_written (s := taken _) lt ok h)⟩⟩
  case scene =>
    have judged := State.workAmendScene_live (c := c) (s := taken (.amendScene h c)) (handleInRange_of slot low high) found live
    exact asked (judged.trans (if_pos ok))
  case sceneRefused =>
    refine ⟨fun out => answered (State.withScene_out (s := taken _) (handleInRange_eq_false out) _), fun slot low high => ?_⟩
    have range := handleInRange_of slot low high
    exact ⟨fun stale => answered (State.withScene_none (s := taken _) range stale _),
      fun x found retiring => answered (State.workAmendScene_retiring (s := taken _) range found retiring),
      fun x found live bad => answered ((State.workAmendScene_live (s := taken _) range found live).trans (if_neg (by simp [bad])))⟩
  case feeder =>
    exact ⟨fun bad => answered (State.workAmendFeeder_badField (s := taken _) bad),
      fun h under => answered (State.workAmendFeeder_wrongState (s := taken _) h under),
      fun h enough => asked (State.workAmendFeeder_written (s := taken _) h enough)⟩
  case bellChecks =>
    rw [State.bellAmendOk_iff, bellConfigOk_iff, bellLinesFieldsDiffer_iff, State.bellLinesOk_iff]
    simp only [and_assoc]

end Sys2Proof.Machine
end

section
/-! What an AMEND of a bell brings when its write ends (R44 to R46, R66, R67, R183): its swing machine, its stroke machine and its
motor run, and the locks that bells then follow. -/

namespace Sys2Proof.Machine

variable {s t u : State}

/-! ## Records set twice, and set to what they are -/

theorem setIfInBounds_getD {α : Type} {n : Nat} (v : Vector α n) (i : Nat) (d : α) : v.setIfInBounds i (v.getD i d) = v := by
  refine Vector.ext fun j hj => ?_
  rw [Vector.getElem_setIfInBounds]
  split
  next e => subst e; simp [Vector.getD, hj]
  next => rfl

theorem State.setBell_setBell (s : State) (i : Nat) (x y : Bell) : (s.setBell i x).setBell i y = s.setBell i y :=
  congrArg (fun v => { s with bells := v }) (Vector.setIfInBounds_setIfInBounds x)

theorem State.setBell_bell (s : State) (i : Nat) : s.setBell i (s.bell i) = s :=
  congrArg (fun v => { s with bells := v }) (setIfInBounds_getD s.bells i _)

theorem State.setStroke_stroke (s : State) (i : Nat) : s.setStroke i (s.stroke i) = s :=
  congrArg (fun v => { s with hammers.strokes := v }) (setIfInBounds_getD s.hammers.strokes i _)

theorem State.setStroke_setBell (s : State) (i : Nat) (k : StrokeState) (x : Bell) :
    (s.setStroke i k).setBell i x = (s.setBell i x).setStroke i k := rfl

/-- Acts that each leave the state as it is leave it so together. -/
theorem eachIndex_id {n : Nat} {act : Nat → State → State} (h : ∀ i, i < n → act i s = s) : eachIndex n act s = s := by
  induction n with
  | zero => rfl
  | succ n ih => rw [eachIndex_succ, ih fun i hi => h i (Nat.lt_succ_of_lt hi), h n (Nat.lt_succ_self n)]

/-- Acts of which one alone changes the state come to that one. -/
theorem eachIndex_single {n i : Nat} {act : Nat → State → State} (hi : i < n) (before : ∀ j, j < n → j ≠ i → act j s = s)
    (after : ∀ j, j < n → j ≠ i → act j (act i s) = act i s) : eachIndex n act s = act i s := by
  induction n with
  | zero => cases hi
  | succ n ih =>
    rw [eachIndex_succ]
    by_cases e : n = i
    · subst e
      rw [eachIndex_id fun j hj => before j (Nat.lt_succ_of_lt hj) (Nat.ne_of_lt hj)]
    · rw [ih (by omega) (fun j hj => before j (Nat.lt_succ_of_lt hj)) fun j hj => after j (Nat.lt_succ_of_lt hj),
        after n (Nat.lt_succ_self n) e]

/-! ## The end of a run (R54) -/

/-- What the end of a motor run can do to lines, stroke machines and bells: each bell changes in its run and its last command outcome
alone, and a motor that is OFF stays OFF. -/
structure MotorOnly (s t : State) : Prop where
  lines : t.lines = s.lines
  hammers : t.hammers = s.hammers
  bell : ∀ i, t.bell i = { s.bell i with motor := (t.bell i).motor, lastOutcome := (t.bell i).lastOutcome }
  off : ∀ i, (s.bell i).motor = .off → (t.bell i).motor = .off

namespace MotorOnly

theorem of_same (lines : t.lines = s.lines) (hammers : t.hammers = s.hammers) (bells : t.bells = s.bells) : MotorOnly s t := by
  have same (i : Nat) : t.bell i = s.bell i := by simp only [State.bell, bells]
  exact ⟨lines, hammers, fun i => by rw [same], fun i h => by rw [same, h]⟩

theorem refl (s : State) : MotorOnly s s := of_same rfl rfl rfl

theorem trans (h : MotorOnly s t) (k : MotorOnly t u) : MotorOnly s u :=
  ⟨k.lines.trans h.lines, k.hammers.trans h.hammers, fun i => by rw [k.bell i, h.bell i], fun i => k.off i ∘ h.off i⟩

theorem foldl {α : Type} {f : State → α → State} (h : ∀ s x, MotorOnly s (f s x)) (l : List α) (s : State) :
    MotorOnly s (l.foldl f s) := by
  induction l generalizing s with
  | nil => exact refl s
  | cons x l ih => exact (h s x).trans (ih _)

/-- A bell takes another run or last command outcome. -/
theorem setBell (s : State) (i : Nat) (m : MotorRun) (x : Option MotorReport) (off : (s.bell i).motor = .off → m = .off) :
    MotorOnly s (s.setBell i { s.bell i with motor := m, lastOutcome := x }) := by
  refine ⟨rfl, rfl, fun j => ?_, fun j h => ?_⟩ <;> rw [State.bell_setBell]
  · split
    next e => rw [e.1]
    next => rfl
  · split
    next e => exact off (e.1 ▸ h)
    next => exact h

variable (h : MotorOnly s t) (i : Nat)
include h

theorem config : (t.bell i).config = (s.bell i).config :=
  (congrArg Bell.config (h.bell i) :)

theorem swing : (t.bell i).swing = (s.bell i).swing :=
  (congrArg Bell.swing (h.bell i) :)

theorem hammerFault : (t.bell i).hammerFault = (s.bell i).hammerFault :=
  (congrArg Bell.hammerFault (h.bell i) :)

theorem lockHeld : t.lockHeld i = s.lockHeld i := by
  rw [State.lockHeld_eq, State.lockHeld_eq, h.config, State.locks_of_lines h.lines]

end MotorOnly

theorem State.putOccasion_motorOnly (s : State) (i : Nat) (o : Occasion) : MotorOnly s (s.putOccasion i o) := by
  unfold State.putOccasion
  split <;> exact .of_same rfl rfl rfl

theorem State.setOutcome_motorOnly (s : State) (k j : Nat) (x : Outcome) : MotorOnly s (s.setOutcome k j x) := by
  unfold State.setOutcome State.raiseIf
  split
  · exact .refl s
  · split
    · exact .refl s
    · split
      · exact (State.putOccasion_motorOnly _ _ _).trans (.of_same rfl rfl rfl)
      · exact State.putOccasion_motorOnly _ _ _

theorem State.setPhase_motorOnly (s : State) (k j : Nat) (x : ActionPhase) : MotorOnly s (s.setPhase k j x) := by
  unfold State.setPhase
  split
  · exact .refl s
  · split
    · exact .refl s
    · exact .of_same rfl rfl rfl

theorem State.reportMotor_motorOnly (s : State) (i : Nat) (r : MotorReport) (x : MotorSource) :
    MotorOnly s (s.reportMotor i r x) := by
  cases x with
  | command => exact .setBell s i _ _ id
  | action k j => exact (s.setOutcome_motorOnly _ _ _).trans (State.setPhase_motorOnly _ _ _ _)

theorem State.admitAsk_motorOnly (s : State) (a : Ask) : MotorOnly s (s.admitAsk a) := by
  have marked : MotorOnly s (s.setBell a.bell { s.bell a.bell with motor := (s.bell a.bell).motor.markAdmitted }) :=
    .setBell s a.bell _ _ fun h => by rw [h]; rfl
  exact marked.trans (.of_same rfl rfl rfl)

theorem admitHeads_motorOnly (l : List Ask) (s : State) : MotorOnly s (admitHeads l s) := by
  induction l generalizing s with
  | nil => exact .of_same rfl rfl rfl
  | cons a l ih =>
    unfold admitHeads
    split
    · exact (s.admitAsk_motorOnly a).trans (ih _)
    · exact .of_same rfl rfl rfl

theorem State.tryAsks_motorOnly (s : State) : MotorOnly s s.tryAsks := admitHeads_motorOnly _ s

theorem State.endClaim_motorOnly (s : State) (i : Nat) : MotorOnly s (s.endClaim i) := by
  unfold State.endClaim
  dsimp only
  split
  · refine MotorOnly.trans ?_ (State.tryAsks_motorOnly _)
    exact .of_same rfl rfl rfl
  · exact .of_same rfl rfl rfl

theorem State.endRun_off {i : Nat} (h : (s.bell i).motor = .off) (r : MotorReport) : s.endRun i r = s := by
  unfold State.endRun
  simp only [h]

/-- R54: the end of a run that is not OFF, source by source. -/
theorem State.endRun_running {i : Nat} (h : (s.bell i).motor ≠ .off) (r : MotorReport) : s.endRun i r
    = (s.bell i).motor.sources.foldl (fun t x => t.reportMotor i r x) ((s.setBell i { s.bell i with motor := .off }).endClaim i) := by
  unfold State.endRun
  dsimp only
  split
  next off => exact absurd off h
  next => rfl

theorem State.endRun_motorOnly (s : State) (i : Nat) (r : MotorReport) : MotorOnly s (s.endRun i r) := by
  by_cases h : (s.bell i).motor = .off
  · rw [State.endRun_off h]
    exact .refl s
  · rw [State.endRun_running h]
    exact ((MotorOnly.setBell s i .off _ fun _ => rfl).trans (State.endClaim_motorOnly _ _)).trans
      (.foldl (fun t x => t.reportMotor_motorOnly i r x) _ _)

/-- R54: after the end of its run a motor is OFF. -/
theorem State.endRun_motor {i : Nat} (hi : i < Config.bells) (r : MotorReport) : ((s.endRun i r).bell i).motor = .off := by
  by_cases h : (s.bell i).motor = .off
  · rw [State.endRun_off h, h]
  · rw [State.endRun_running h]
    exact ((State.endClaim_motorOnly _ _).trans (.foldl (fun t x => t.reportMotor_motorOnly i r x) _ _)).off i
      (congrArg Bell.motor (State.bell_setBell_same _ _ _ hi))

theorem State.endClaim_calendar (s : State) (i : Nat) : (s.endClaim i).calendar = s.calendar := by
  unfold State.endClaim
  dsimp only
  split
  · exact admitHeads_calendar _ _
  · rfl

/-- R57: a run that COMMAND alone asked for ends with no context told. -/
theorem State.endRun_calendar {i : Nat} (h : (s.bell i).motor = .off ∨ (s.bell i).motor.sources = [.command]) (r : MotorReport) :
    (s.endRun i r).calendar = s.calendar := by
  by_cases off : (s.bell i).motor = .off
  · rw [State.endRun_off off]
  · rw [State.endRun_running off, h.resolve_left off]
    exact State.endClaim_calendar _ _

/-! ## Locks (R46) -/

/-- R46: a bell that is LOCKED exactly while a condition holds stays as it is. -/
theorem State.followLock_self {i : Nat} (h : (s.bell i).swing = .locked ↔ s.lockHeld i = true) : s.followLock i = s := by
  unfold State.followLock
  split
  next held => rw [if_pos (h.2 held)]
  next held => rw [if_neg fun locked => held (h.1 locked)]

theorem State.followLocks_self (h : ∀ i, i < 40 → ((s.bell i).swing = .locked ↔ s.lockHeld i = true)) : s.followLocks = s :=
  eachIndex_id fun i hi => State.followLock_self (h i hi)

theorem State.leaveLocked_eq (s : State) (i : Nat) : s.leaveLocked i = s.setBell i { s.bell i with
    swing := freshSwing (s.bell i).config
    entered := if freshSwing (s.bell i).config = .unknown then s.nowMs else (s.bell i).entered } := by
  unfold State.leaveLocked
  dsimp only
  split
  next h => rw [h, if_pos rfl]
  next h => rw [if_neg h]

/-- What following the locks keeps of a bell: its configuration and its hammer fault, the stroke machines, and a motor that is OFF; and
the calendar, unless a run that actions asked for ends. -/
structure LockFollowed (i : Nat) (s t : State) : Prop where
  hammers : t.hammers = s.hammers
  config : (t.bell i).config = (s.bell i).config
  hammerFault : (t.bell i).hammerFault = (s.bell i).hammerFault
  off : (s.bell i).motor = .off → (t.bell i).motor = .off
  calendar : ((s.bell i).motor = .off ∨ (s.bell i).motor.sources = [.command]) → t.calendar = s.calendar

theorem LockFollowed.refl (i : Nat) (s : State) : LockFollowed i s s := ⟨rfl, rfl, rfl, id, fun _ => rfl⟩

theorem State.followLock_followed {i : Nat} (hi : i < Config.bells) (s : State) : LockFollowed i s (s.followLock i) := by
  unfold State.followLock
  split
  · split
    · exact .refl i s
    · have put := State.bell_setBell_same s i { s.bell i with swing := .locked, quietUntil := none } hi
      have ended := State.endRun_motorOnly (s.setBell i { s.bell i with swing := .locked, quietUntil := none }) i .locked
      exact ⟨ended.hammers, (ended.config i).trans (congrArg Bell.config put :),
        (ended.hammerFault i).trans (congrArg Bell.hammerFault put :), fun off => ended.off i ((congrArg Bell.motor put :).trans off),
        fun h => State.endRun_calendar (by rw [put]; exact h) _⟩
  · split
    · rw [State.leaveLocked_eq]
      have put := State.bell_setBell_same s i { s.bell i with
        swing := freshSwing (s.bell i).config
        entered := if freshSwing (s.bell i).config = .unknown then s.nowMs else (s.bell i).entered } hi
      exact ⟨rfl, (congrArg Bell.config put :), (congrArg Bell.hammerFault put :), (congrArg Bell.motor put :).trans, fun _ => rfl⟩
    · exact .refl i s

/-! ## An AMEND of a bell (R44 to R46, R67) -/

section
variable {i : Nat} {c : BellConfig}

/-- The state an AMEND of a bell leaves its swing machine and its run to act on. -/
def State.amendedBell (s : State) (i : Nat) (c : BellConfig) : State :=
  (s.setBell i { s.bell i with config := c }).setStroke i (strokeAfterAmend (s.bell i).config c (s.stroke i))

theorem State.amendedBell_bell (hi : i < Config.bells) : (s.amendedBell i c).bell i = { s.bell i with config := c } :=
  State.bell_setBell_same s i _ hi

theorem State.applyBell_same (hi : i < 40) (h : c.inService = (s.bell i).config.inService)
    (motor : c.motorInService = true ∨ (s.bell i).motor = .off) : s.applyBell i c = (s.amendedBell i c).followLock i := by
  have noRun : c.motorInService = false → (s.amendedBell i c).endRun i .stopped = s.amendedBell i c := fun out =>
    State.endRun_off (by rw [State.amendedBell_bell hi]; exact motor.resolve_left (by simp [out])) _
  unfold State.applyBell
  dsimp only
  rw [← h]
  cases on : c.inService with
  | false => rfl
  | true =>
    cases out : c.motorInService with
    | true => rfl
    | false => exact congrArg (State.followLock · i) (noRun out)

theorem State.applyBell_motorOut (new : c.inService = true) (old : (s.bell i).config.inService = true) (motor : c.motorInService = false) :
    s.applyBell i c = ((s.amendedBell i c).endRun i .stopped).followLock i := by
  unfold State.applyBell
  simp only [new, old, motor]
  rfl

theorem State.applyBell_enters (new : c.inService = true) (old : (s.bell i).config.inService = false) :
    s.applyBell i c = ((s.amendedBell i c).startSwing i).followLock i := by
  unfold State.applyBell
  simp only [new, old]
  rfl

theorem State.applyBell_leaves (new : c.inService = false) (old : (s.bell i).config.inService = true) :
    s.applyBell i c = ((s.amendedBell i c).stopSwing i).followLock i := by
  unfold State.applyBell
  simp only [new, old]
  rfl

/-- R44, R46: a bell that stays in service, with no run to end and its lock as it is, takes its fields. -/
theorem State.applyBell_kept (hi : i < 40) (new : c.inService = true) (old : (s.bell i).config.inService = true)
    (motor : c.motorInService = true ∨ (s.bell i).motor = .off)
    (lock : (s.bell i).swing = .locked ↔ (s.setBell i { s.bell i with config := c }).lockHeld i = true) :
    s.applyBell i c = s.amendedBell i c := by
  have followed : (s.amendedBell i c).followLock i = s.amendedBell i c :=
    State.followLock_self (by rw [State.amendedBell_bell hi]; exact lock)
  rw [State.applyBell_same hi (new.trans old.symm) motor, followed]

theorem strokeAfterAmend_same {old new : BellConfig} (h : new.inService = true) (h' : old.inService = true)
    (hammer : old.hammerInService = new.hammerInService) (k : StrokeState) : strokeAfterAmend old new k = k := by
  simp [strokeAfterAmend, h, h', hammer]

theorem strokeAfterAmend_fresh {old new : BellConfig} (h : new.inService = true)
    (h' : old.inService = false ∨ old.hammerInService ≠ new.hammerInService) (k : StrokeState) :
    strokeAfterAmend old new k = if new.hammerInService then .idle else .fault := by
  have fresh : restState new = if new.hammerInService then .idle else .fault := by simp [restState, h]
  cases off : old.inService with
  | false => simp [strokeAfterAmend, h, off, fresh]
  | true => simp [strokeAfterAmend, h, off, fresh, h'.resolve_left (by simp [off])]

theorem strokeAfterAmend_out {old new : BellConfig} (h : new.inService = false) (k : StrokeState) :
    strokeAfterAmend old new k = .outOfService := by
  simp [strokeAfterAmend, h]

/-- R44, R46: of a bell that stays in service with its hammer, its lock as it is and no run to end, the fields alone change. -/
theorem State.applyBell_fields (hi : i < 40) (new : c.inService = true) (old : (s.bell i).config.inService = true)
    (motor : c.motorInService = true) (hammer : (s.bell i).config.hammerInService = c.hammerInService)
    (lock : (s.bell i).swing = .locked ↔ (s.setBell i { s.bell i with config := c }).lockHeld i = true) :
    s.applyBell i c = s.setBell i { s.bell i with config := c } := by
  rw [State.applyBell_kept hi new old (.inl motor) lock, State.amendedBell, strokeAfterAmend_same new old hammer]
  exact State.setStroke_stroke (s.setBell i { s.bell i with config := c }) i

/-- R67: the hammer of a bell that stays in service enters or leaves service. -/
theorem State.applyBell_hammer (hi : i < 40) (new : c.inService = true) (old : (s.bell i).config.inService = true)
    (motor : c.motorInService = true ∨ (s.bell i).motor = .off) (hammer : (s.bell i).config.hammerInService ≠ c.hammerInService)
    (lock : (s.bell i).swing = .locked ↔ (s.setBell i { s.bell i with config := c }).lockHeld i = true) :
    s.applyBell i c
      = (s.setBell i { s.bell i with config := c }).setStroke i (if c.hammerInService then .idle else .fault) := by
  rw [State.applyBell_kept hi new old motor lock, State.amendedBell, strokeAfterAmend_fresh new (.inr hammer)]

/-- R45, R46: a bell enters service, LOCKED while a condition holds. -/
theorem State.applyBell_entered (hi : i < 40) (new : c.inService = true) (old : (s.bell i).config.inService = false)
    (off : (s.bell i).motor = .off) : s.applyBell i c = (s.setBell i { s.bell i with
      config := c
      swing := if (s.setBell i { s.bell i with config := c }).lockHeld i then .locked
        else if c.sensorMode = .none then .atRest else .unknown
      entered := s.nowMs, quietUntil := none
      restClosedSince := if s.lineActive .restSense i then some s.nowMs else none }).setStroke i
        (if c.hammerInService then .idle else .fault) := by
  let fresh : Bell := { s.bell i with
    config := c, swing := if c.sensorMode = .none then .atRest else .unknown, entered := s.nowMs, quietUntil := none
    restClosedSince := if s.lineActive .restSense i then some s.nowMs else none }
  let u : State := (s.setBell i fresh).setStroke i (if c.hammerInService then .idle else .fault)
  have started : (s.amendedBell i c).startSwing i = u := by
    have swing : freshSwing c = if c.sensorMode = .none then .atRest else .unknown := by simp [freshSwing, new]
    unfold State.startSwing
    rw [State.amendedBell_bell hi]
    dsimp only
    rw [swing, State.amendedBell, State.setStroke_setBell, State.setBell_setBell,
      strokeAfterAmend_fresh new (.inl old)]
    rfl
  have bell : u.bell i = fresh := State.bell_setBell_same s i fresh hi
  have unlocked : (u.bell i).swing ≠ .locked := by
    rw [bell]
    change (if c.sensorMode = .none then SwingState.atRest else .unknown) ≠ .locked
    split <;> nofun
  have held : u.lockHeld i = (s.setBell i { s.bell i with config := c }).lockHeld i := by
    rw [State.lockHeld_eq, State.lockHeld_eq, bell, State.bell_setBell_same s i _ hi]
    rfl
  rw [State.applyBell_enters new old, started, State.followLock, if_neg unlocked, if_neg unlocked, held]
  split
  · rw [State.enterLocked, bell, State.endRun_off (by exact (congrArg Bell.motor (State.bell_setBell_same u i _ hi) :).trans off)]
    exact congrArg (fun t : State => t.setStroke i _) (State.setBell_setBell s i fresh _)
  · rfl

/-- R45: a bell leaves service, its lock as it is. -/
theorem State.applyBell_left (hi : i < 40) (new : c.inService = false) (old : (s.bell i).config.inService = true)
    (off : (s.bell i).motor = .off)
    (lock : (s.bell i).swing = .locked ↔ (s.setBell i { s.bell i with config := c }).lockHeld i = true) :
    s.applyBell i c = (s.setBell i { s.bell i with
      config := c, swing := if (s.bell i).swing = .locked then .locked else .unknown
      halfSwing := none, lastPulse := none, quietUntil := none }).setStroke i .outOfService := by
  let left : Bell := { s.bell i with
    config := c, swing := if (s.bell i).swing = .locked then .locked else .unknown
    halfSwing := none, lastPulse := none, quietUntil := none }
  let u : State := (s.setBell i left).setStroke i .outOfService
  have bell : u.bell i = left := State.bell_setBell_same s i left hi
  have stopped : (s.amendedBell i c).stopSwing i = u := by
    unfold State.stopSwing
    rw [State.amendedBell_bell hi]
    dsimp only
    rw [State.amendedBell, State.setStroke_setBell, State.setBell_setBell, strokeAfterAmend_out new]
    exact State.endRun_off ((congrArg Bell.motor bell :).trans off) _
  rw [State.applyBell_leaves new old, stopped]
  refine State.followLock_self ?_
  have held : u.lockHeld i = (s.setBell i { s.bell i with config := c }).lockHeld i := by
    rw [State.lockHeld_eq, State.lockHeld_eq, bell, State.bell_setBell_same s i _ hi]
    rfl
  rw [bell, held, ← lock]
  change (if (s.bell i).swing = .locked then SwingState.locked else .unknown) = .locked ↔ _
  split
  next h => simp [h]
  next h => simp [h]

/-- R54: a bell's motor leaves service, which ends its run. -/
theorem State.applyBell_stopped (hi : i < 40) (new : c.inService = true) (old : (s.bell i).config.inService = true)
    (motor : c.motorInService = false) (hammer : (s.bell i).config.hammerInService = c.hammerInService)
    (run : (s.bell i).motor ≠ .off)
    (lock : (s.bell i).swing = .locked ↔ (s.setBell i { s.bell i with config := c }).lockHeld i = true) :
    s.applyBell i c = (s.setBell i { s.bell i with config := c }).runEnded i (s.bell i).motor.sources .stopped := by
  have amended : s.amendedBell i c = s.setBell i { s.bell i with config := c } := by
    rw [State.amendedBell, strokeAfterAmend_same new old hammer]
    exact State.setStroke_stroke (s.setBell i { s.bell i with config := c }) i
  have bell := State.bell_setBell_same s i { s.bell i with config := c } hi
  have kept := State.endRun_motorOnly (s.setBell i { s.bell i with config := c }) i .stopped
  rw [State.applyBell_motorOut new old motor, amended, State.followLock_self,
    State.endRun_eq _ _ _ (by rw [bell]; exact run), bell]
  rw [kept.lockHeld, kept.swing, bell]
  exact lock

end

/-! ## Faults kept (R55, R66, R183) -/

section
variable {i : Nat}

theorem State.keepHammerFault_out {f : HammerFault} (h : (s.bell i).config.hammerInService = false) : s.keepHammerFault i f = s :=
  if_neg (by simp [h])

theorem State.keepMotorFault_out (h : (s.bell i).config.motorInService = false) : s.keepMotorFault i = s :=
  if_neg (by simp [h])

/-- R66, R183: what the write of a hammer fault brings to a bell without a run. -/
structure HammerFaultKept (i : Nat) (f : HammerFault) (s t : State) : Prop where
  config : (t.bell i).config = { (s.bell i).config with hammerInService := false }
  hammerFault : (t.bell i).hammerFault = some f
  stroke : (s.bell i).config.inService = true → t.stroke i = .fault
  calendar : t.calendar = s.calendar

theorem State.keepHammerFault_kept {f : HammerFault} (hi : i < 40) (off : (s.bell i).motor = .off)
    (on : (s.bell i).config.hammerInService = true) : HammerFaultKept i f s (s.keepHammerFault i f) := by
  let c : BellConfig := { (s.bell i).config with hammerInService := false }
  let u : State := s.setBell i { s.bell i with hammerFault := some f }
  have bell : u.bell i = { s.bell i with hammerFault := some f } := State.bell_setBell_same s i _ hi
  have amended : (u.amendedBell i c).bell i = { s.bell i with hammerFault := some f, config := c } := by
    rw [State.amendedBell_bell hi, bell]
  have followed := State.followLock_followed hi (u.amendedBell i c)
  have kept : s.keepHammerFault i f = (u.amendedBell i c).followLock i :=
    (if_pos on).trans (State.applyBell_same hi (congrArg (·.config.inService) bell).symm (.inr (by rw [bell]; exact off)))
  rw [kept]
  refine ⟨followed.config.trans (congrArg Bell.config amended :), followed.hammerFault.trans (congrArg Bell.hammerFault amended :),
    fun service => ?_, followed.calendar (.inl ((congrArg Bell.motor amended :).trans off))⟩
  have fault : strokeAfterAmend (u.bell i).config c (u.stroke i) = .fault := by
    rw [bell]
    exact strokeAfterAmend_fresh (new := c) service (.inr (by simp [on, c])) _
  calc ((u.amendedBell i c).followLock i).stroke i
      = (u.amendedBell i c).stroke i := by simp only [State.stroke, followed.hammers]
    _ = strokeAfterAmend (u.bell i).config c (u.stroke i) := State.stroke_setStroke_same _ i _ hi
    _ = .fault := fault

/-- R55, R183: what the write of a stalled motor brings to a bell whose run, if any, COMMAND alone asked for. -/
structure MotorFaultKept (i : Nat) (s t : State) : Prop where
  config : (t.bell i).config = { (s.bell i).config with motorInService := false }
  motor : (s.bell i).config.inService = true → (t.bell i).motor = .off
  calendar : t.calendar = s.calendar

theorem State.keepMotorFault_kept (hi : i < 40) (run : (s.bell i).motor = .off ∨ (s.bell i).motor.sources = [.command])
    (on : (s.bell i).config.motorInService = true) : MotorFaultKept i s (s.keepMotorFault i) := by
  let c : BellConfig := { (s.bell i).config with motorInService := false }
  have amended : (s.amendedBell i c).bell i = { s.bell i with config := c } := State.amendedBell_bell hi
  have run' : ((s.amendedBell i c).bell i).motor = .off ∨ ((s.amendedBell i c).bell i).motor.sources = [.command] := by
    rw [amended]
    exact run
  have kept : s.keepMotorFault i = s.applyBell i c := if_pos on
  cases service : (s.bell i).config.inService with
  | true =>
    have ended := State.endRun_motorOnly (s.amendedBell i c) i .stopped
    have off : (((s.amendedBell i c).endRun i .stopped).bell i).motor = .off := State.endRun_motor hi _
    have followed := State.followLock_followed hi ((s.amendedBell i c).endRun i .stopped)
    rw [kept, State.applyBell_motorOut (c := c) service service rfl]
    exact ⟨followed.config.trans ((ended.config i).trans (congrArg Bell.config amended :)), fun _ => followed.off off,
      (followed.calendar (.inl off)).trans (State.endRun_calendar run' _)⟩
  | false =>
    have followed := State.followLock_followed hi (s.amendedBell i c)
    have same : s.applyBell i c = (s.amendedBell i c).followLock i := by
      unfold State.applyBell
      simp only [c, service]
      rfl
    rw [kept, same]
    exact ⟨followed.config.trans (congrArg Bell.config amended :), fun h => by simp [service] at h, followed.calendar run'⟩

end

end Sys2Proof.Machine
end

section
/-! The end of a record memory write (R182, R183, R15): what each record's new fields bring in its block, and the answer. -/

namespace Sys2Proof.Machine

variable {s t : State}

/-! ## The end of a write (R182, R183) -/

/-- R182, R183: the answer of a write becomes the response that waits; one without lets a request that waited for it be routed. -/
def State.closeWrite (t : State) (x : Option Response) : State :=
  match x with
  | some r => t.answer r
  | none =>
    { t with link.inProgress := t.link.inProgress.map fun q => if q.phase = .awaitingWrite then { q with phase := .ready } else q }

theorem State.releaseRequest_eq (t : State) : t.releaseRequest = t.closeWrite none := by
  have progress {p : Option InProgress} (h : t.link.inProgress = p) : t = { t with link.inProgress := p } := by rw [← h]
  unfold State.releaseRequest State.closeWrite
  split
  next h => rw [h]; exact progress h
  next q h =>
    rw [h, Option.map_some]
    split
    · rfl
    · exact progress h

theorem State.closeWrite_none (h : t.link.inProgress = none) : t.closeWrite none = t := by
  rw [← State.releaseRequest_eq, State.releaseRequest, h]

theorem State.closeWrite_awaiting {q : InProgress} (h : t.link.inProgress = some q) (waits : q.phase = .awaitingWrite) :
    t.closeWrite none = { t with link.inProgress := some { q with phase := .ready } } := by
  unfold State.closeWrite
  rw [h, Option.map_some, if_pos waits]

theorem State.closeWrite_mixer (t : State) (x : Option Response) : (t.closeWrite x).mixer = t.mixer := by
  cases x <;> rfl

theorem State.closeWrite_channel (t : State) (x : Option Response) (i : Nat) : (t.closeWrite x).channel i = t.channel i := by
  cases x <;> rfl

theorem State.closeWrite_bell (t : State) (x : Option Response) (i : Nat) : (t.closeWrite x).bell i = t.bell i := by
  cases x <;> rfl

theorem State.closeWrite_stroke (t : State) (x : Option Response) (i : Nat) : (t.closeWrite x).stroke i = t.stroke i := by
  cases x <;> rfl

theorem State.closeWrite_calendar (t : State) (x : Option Response) : (t.closeWrite x).calendar = t.calendar := by
  cases x <;> rfl

theorem State.closeWrite_occasionSlot (t : State) (x : Option Response) (i : Nat) :
    (t.closeWrite x).occasionSlot i = t.occasionSlot i := by
  cases x <;> rfl

theorem State.closeWrite_waiting (t : State) (x : Option Response) :
    (t.closeWrite x).link.waiting = match x with | some r => some r | none => t.link.waiting := by
  cases x <;> rfl

/-- R183: the write in progress ends: its change is brought, the next begins, and the link closes it. -/
theorem State.endWrite_cons {w : Write} {rest : List Write} (h : s.memory.writes = w :: rest) : s.endWrite
    = State.closeWrite (if s.time.power = .mains then State.applyWrite { s with memory.writes := rest } w.effect
      else State.storeWrite { s with memory.writes := rest } w.effect) w.response := by
  unfold State.endWrite
  rw [h]
  dsimp only
  rw [State.releaseRequest_eq]
  cases w.response <;> rfl

theorem State.endWrite_nil (h : s.memory.writes = []) : s.endWrite = s := by
  unfold State.endWrite
  rw [h]

theorem exec_recordMemoryWriteEnd (dt : Nat) (s : State) : exec (.recordMemoryWriteEnd dt) s = .next (s.elapse dt).endWrite := rfl

/-- R183: RECORD_MEMORY_WRITE_END, by what the write's change brings in MAINS and in RESERVE. -/
theorem exec_endWrite {w : Write} {rest : List Write} {x : WriteEffect} (dt : Nat) (writes : s.memory.writes = w :: rest)
    (effect : w.effect = x)
    (mains : s.time.power = .mains → State.applyWrite { s.elapse dt with memory.writes := rest } x = t)
    (reserve : s.time.power ≠ .mains → State.storeWrite { s.elapse dt with memory.writes := rest } x = t) :
    exec (.recordMemoryWriteEnd dt) s = .next (t.closeWrite w.response) := by
  rw [exec_recordMemoryWriteEnd, State.endWrite_cons (s := s.elapse dt) writes, effect]
  refine congrArg (fun u : State => Host.Outcome.next (u.closeWrite w.response)) ?_
  split
  next h => exact mains h
  next h => exact reserve h

/-! ## Time settings (R6, R9) -/

section
variable {x : TimeSettings}

theorem State.applyTimeSettings_kept (h : s.time.valid = false ∨ x.rule = s.time.settings.rule) :
    s.applyTimeSettings x = { s with time.settings := x, time.summer := summerAt x.rule s.time.standard } :=
  if_pos (h.imp_left fun h => by simp [h])

theorem State.applyTimeSettings_rule (valid : s.time.valid = true) (rule : x.rule ≠ s.time.settings.rule)
    (summer : summerAt x.rule s.time.standard = s.time.summer)
    (shift : x.rule.shift (summerAt x.rule s.time.standard) = s.time.settings.rule.shift s.time.summer) :
    s.applyTimeSettings x
      = (State.calendarJump { s with time.settings := x, time.summer := summerAt x.rule s.time.standard } true).settleContexts :=
  (if_neg (by simp [valid, rule])).trans (if_pos ⟨summer, shift⟩)

theorem State.applyTimeSettings_moved (valid : s.time.valid = true) (rule : x.rule ≠ s.time.settings.rule)
    (moved : summerAt x.rule s.time.standard ≠ s.time.summer ∨
      x.rule.shift (summerAt x.rule s.time.standard) ≠ s.time.settings.rule.shift s.time.summer) :
    s.applyTimeSettings x = (State.calendarJump (State.reconcileDials
      { s with time.settings := x, time.summer := summerAt x.rule s.time.standard }).landingMark true).endStandingEntries.settleContexts :=
  (if_neg (by simp [valid, rule])).trans (if_neg fun ⟨summer, shift⟩ => moved.elim (· summer) (· shift))

end

/-! ## Dials, lines, channels, the feeder (R21, R38, R149, R170) -/

theorem State.tryAsks_none (h : s.feeder.asks = []) : s.tryAsks = s := by
  obtain ⟨_, _, _, _, _, _, _, _, _, _, _, ⟨_, asks, _⟩, _⟩ := s
  cases h
  rfl

section
variable {i : Nat} {a : DialAmend}

/-- R20, R36: a dial with the fields of an AMEND. -/
def Dial.amended (d : Dial) (a : DialAmend) : Dial :=
  { d with label := a.label, service := a.service, impulseWidth := a.impulseWidth
           spacing := clampSpacing a.impulseWidth a.spacing, window := a.window }

theorem State.applyDial_off (h : a.service = false) : s.applyDial i a
    = s.setDial i { (s.dial i).amended a with state := .off, fault := none, impulse := none, owed := false } :=
  if_pos (by simp [h])

theorem State.applyDial_kept (h : a.service = true) (served : (s.dial i).service = true) :
    s.applyDial i a = (s.setDial i ((s.dial i).amended a)).reconcileOrOwe i :=
  (if_neg (by simp [h])).trans (if_neg (by simp [served]))

theorem State.applyDial_enters (h : a.service = true) (unserved : (s.dial i).service = false) :
    s.applyDial i a = (s.setDial i { (s.dial i).amended a with state := .waitTime }).reconcileOrOwe i :=
  (if_neg (by simp [h])).trans (if_pos (by simp [unserved]))

end

theorem State.applyLine_kept {i : Nat} {x : LineRecord} (settled : s.Settled)
    (locks : ∀ b, b < 40 → ((s.bell b).swing = .locked ↔ (s.setLine i { s.line i with
      record := x, changing := none
      filtered := if isInput x.function then (s.line i).pinHigh == x.activeHigh else (s.line i).filtered }).lockHeld b = true)) :
    let set := s.setLine i { s.line i with
      record := x, changing := none
      filtered := if isInput x.function then (s.line i).pinHigh == x.activeHigh else (s.line i).filtered }
    s.applyLine i x = if set.ambientLine = s.ambientLine then set else set.emptyWindow := by
  intro set
  have followed : set.followLocks = set := State.followLocks_self locks
  have made : s.applyLine i x
      = State.settleContexts (if set.followLocks.ambientLine = s.ambientLine then set.followLocks else set.followLocks.emptyWindow) := rfl
  rw [made, followed]
  split
  · exact State.settleContexts_of_calendar settled rfl
  · exact State.settleContexts_settled (s := set.emptyWindow) settled

theorem State.applyChannel_served {i : Nat} {c : ChannelConfig} (new : c.inService = true)
    (old : (s.channel i).config.inService = true) : s.applyChannel i c = s.setChannel i { s.channel i with config := c } := by
  unfold State.applyChannel
  simp only [new, old]
  rfl

theorem State.applyChannel_dark {i : Nat} {c : ChannelConfig} (h : c.inService = false ∨ (s.channel i).config.inService = false) :
    s.applyChannel i c
      = (s.setChannel i { config := c, levels := if c.inService then (s.channel i).levels else Levels.dark }).darkComputed i :=
  if_neg (by rcases h with h | h <;> simp [h])

theorem State.channel_darkComputed (s : State) (i j : Nat) : (s.darkComputed i).channel j = s.channel j := rfl

/-! ## Scenes (R152, R164) -/

theorem State.applyScene_none {h : Handle} {c : SceneConfig} (none : s.findScene h = none) : s.applyScene h c = s := by
  unfold State.applyScene
  rw [none]

theorem State.findScene_gen {h : Handle} {x : Scene} (found : s.findScene h = some x) : h.gen = (s.sceneSlot h.slot).gen := by
  rw [State.findScene, Slot.named] at found
  by_contra stale
  rw [if_neg stale] at found
  cases found

section
variable {h : Handle} {c : SceneConfig} {x : Scene} (found : s.findScene h = some x)
include found

/-- A scene named by its handle takes new fields. -/
theorem State.setScene_named : s.setScene h.slot { x with config := c }
    = s.setSceneSlot h.slot { gen := h.gen, record := some { x with config := c } } := by
  rw [State.findScene_gen found]
  rfl

theorem State.applyScene_lowered (noLayer : s.mixer.layers.find? (fun l => l.scene = h) = none) :
    s.applyScene h c = s.setSceneSlot h.slot { gen := h.gen, record := some { x with config := c } } := by
  unfold State.applyScene
  rw [found]
  dsimp only
  rw [State.setScene_named found]
  change (match s.mixer.layers.find? (fun l => l.scene = h) with | none => _ | some l => _) = _
  rw [noLayer]

theorem State.applyScene_layer {l : Layer} (layer : s.mixer.layers.find? (fun l => l.scene = h) = some l) :
    s.applyScene h c = State.insertLayer
      { s.setSceneSlot h.slot { gen := h.gen, record := some { x with config := c } } with
        mixer.layers := s.mixer.layers.filter fun y => y.scene != h } l := by
  unfold State.applyScene
  rw [found]
  dsimp only
  rw [State.setScene_named found]
  change (match s.mixer.layers.find? (fun l => l.scene = h) with | none => _ | some l => _) = _
  rw [layer]
  rfl

end

/-- R152: a layer is placed behind those that come before it in stack order and before the first that does not. -/
theorem State.insertLayer_place (s : State) (l : Layer) : ∃ before after, before ++ after = s.mixer.layers ∧
    s.insertLayer l = { s with mixer.layers := before ++ l :: after } ∧
    (∀ y ∈ before, s.stackBefore y l = true) ∧ ∀ y, after.head? = some y → s.stackBefore y l = false := by
  refine ⟨_, _, List.takeWhile_append_dropWhile (p := fun y => s.stackBefore y l), rfl,
    fun y hy => List.mem_takeWhile_imp (p := fun y => s.stackBefore y l) hy,
    fun y hy => ?_⟩
  have first := List.head?_dropWhile_not (fun y => s.stackBefore y l) s.mixer.layers
  rw [hy] at first
  exact first

theorem State.stackBefore_iff (s : State) (a b : Layer) : s.stackBefore a b = true ↔ s.layerPriority a < s.layerPriority b ∨
    (s.layerPriority a = s.layerPriority b ∧ a.sequence < b.sequence) := by
  simp [State.stackBefore]

/-! ## Dusk (R144) -/

theorem State.recomputeDusk_none {i : Nat}
    (h : ∀ o n, (s.occasionSlot i).record = some o → o.config.anchor = .dusk n → o.due = none) : s.recomputeDusk i = s := by
  unfold State.recomputeDusk
  split
  · rfl
  next o ho =>
    split
    next n d anchor due => rw [h o n ho anchor] at due; cases due
    · rfl

theorem State.recomputeDusk_due {i : Nat} {o : Occasion} {n : Int} {d : Due} (ho : (s.occasionSlot i).record = some o)
    (anchor : o.config.anchor = .dusk n) (due : o.due = some d) : s.recomputeDusk i = s.putOccasion i (s.withNextDue o) := by
  unfold State.recomputeDusk
  simp only [ho, anchor, due]

/-- R144: with no DUSK occasion due, none is worked afresh. -/
theorem State.recomputeDuskAll_none
    (h : ∀ j o n, j < 256 → (s.occasionSlot j).record = some o → o.config.anchor = .dusk n → o.due = none) :
    s.recomputeDuskAll = s :=
  eachIndex_id fun j hj => State.recomputeDusk_none fun o n => h j o n hj

/-- R144: with one DUSK occasion due, that one alone is worked afresh. -/
theorem State.recomputeDuskAll_one {i : Nat} {o : Occasion} {n : Int} {d : Due} (hi : i < 256)
    (ho : (s.occasionSlot i).record = some o) (anchor : o.config.anchor = .dusk n) (due : o.due = some d)
    (others : ∀ j x m, j < 256 → j ≠ i → (s.occasionSlot j).record = some x → x.config.anchor = .dusk m → x.due = none) :
    s.recomputeDuskAll = s.putOccasion i (s.withNextDue o) := by
  have own := State.recomputeDusk_due ho anchor due
  refine (eachIndex_single (act := fun i s => s.recomputeDusk i) hi
    (fun j hj ne => State.recomputeDusk_none fun x m => others j x m hj ne)
    fun j hj ne => State.recomputeDusk_none fun x m hx => others j x m hj ne ?_).trans own
  rw [own, State.putOccasion_other _ _ (Ne.symm ne)] at hx
  exact hx

theorem State.putOccasion_duskTable (s : State) (i : Nat) (o : Occasion) :
    (s.putOccasion i o).calendar.duskTable = s.calendar.duskTable := by
  unfold State.putOccasion
  split <;> rfl

/-- R127: the next due of an occasion worked afresh while the time is valid. -/
theorem State.withNextDue_valid (valid : s.time.valid = true) (o : Occasion) : s.withNextDue o = { o with
    due := s.computeDue o.config o.lastFired, waiting := false
    state := if o.state = .armed ∧ s.computeDue o.config o.lastFired = none then .spent else o.state } := by
  simp only [State.withNextDue, State.nextDue, valid, if_true, and_true]

/-! ## In RESERVE (R15) -/

theorem State.storeHammerFault_out {i : Nat} {f : HammerFault} (h : (s.bell i).config.hammerInService = false) :
    s.storeHammerFault i f = s :=
  if_neg (by simp [h])

theorem State.storeMotorFault_out {i : Nat} (h : (s.bell i).config.motorInService = false) : s.storeMotorFault i = s := by
  unfold State.storeMotorFault
  rw [← h]
  exact s.setBell_bell i

theorem State.storeWrite_scene {h : Handle} {c : SceneConfig} {x : Scene} (found : s.findScene h = some x) :
    s.storeWrite (.scene h c) = s.setSceneSlot h.slot { gen := h.gen, record := some { x with config := c } } := by
  unfold State.storeWrite
  dsimp only
  rw [found]
  exact State.setScene_named found

/-- Settles O59: the end of each kind of write, in MAINS and in RESERVE. -/
theorem writeEndBringsTheChange : Obligations.WriteEndBringsTheChange := by
  unfold Obligations.WriteEndBringsTheChange
  refine ⟨fun s dt w rest => ?_, fun s dt w rest writes silent => ?_⟩
  · intro e left close waiting
    have closes {t : State} {x : WriteEffect} (writes : s.memory.writes = w :: rest) (effect : w.effect = x)
        (mains : s.time.power = .mains → left.applyWrite x = t) (reserve : s.time.power ≠ .mains → left.storeWrite x = t) :
        close t := by
      change exec (.recordMemoryWriteEnd dt) s = _
      rw [exec_endWrite dt writes effect mains reserve]
      cases w.response <;> rfl
    refine ⟨fun empty => ?empty, fun x writes => ?silent, fun writes => ?_⟩
    case empty => rw [exec_recordMemoryWriteEnd, State.endWrite_nil (s := s.elapse dt) empty]
    case silent =>
      have ended := exec_endWrite (t := left) dt writes rfl (fun _ => rfl) fun _ => rfl
      refine ⟨fun idle => ended.trans (congrArg _ (State.closeWrite_none (t := left) idle)), fun q c v waits => ended.trans ?_⟩
      exact congrArg _ (State.closeWrite_awaiting (t := left) waits rfl)
    refine ⟨fun x effect => closes writes effect (fun _ => rfl) fun _ => rfl,
      fun p effect => closes writes effect (fun _ => rfl) fun _ => rfl,
      fun c effect => closes writes effect (fun _ => rfl) fun _ => rfl,
      fun f effect => closes writes effect (fun _ => rfl) fun _ => rfl, ?_⟩
    have acts {t : State} {x : WriteEffect} (mains : s.time.power = .mains) (effect : w.effect = x) (h : left.applyWrite x = t) :
        close t := closes writes effect (fun _ => h) fun reserve => absurd mains reserve
    have stores {t : State} {x : WriteEffect} (reserve : s.time.power = .reserve) (effect : w.effect = x)
        (h : left.storeWrite x = t) : close t :=
      closes writes effect (fun mains => absurd (reserve.symm.trans mains) nofun) fun _ => h
    have brought {t : State} {x : WriteEffect} (mains : s.time.power = .mains) (effect : w.effect = x) (h : left.applyWrite x = t) :
        exec (.recordMemoryWriteEnd dt) s = .next (t.closeWrite w.response) :=
      exec_endWrite dt writes effect (fun _ => h) fun reserve => absurd mains reserve
    refine ⟨fun mains x effect => ?time, fun mains c effect => ?feeder, fun i c mains hi effect => ?channel,
      fun i a mains effect => ?dial, fun i x mains settled hi effect => ?line, fun i c mains settled hi effect => ?bell,
      fun h c mains effect => ?scene, fun mains valid => ?dusk, fun i f effect out => ?hammerFault, fun i effect out => ?motorFault,
      fun effect => closes writes effect (fun _ => rfl) fun _ => rfl⟩
    case time =>
      exact ⟨fun h => acts mains effect (State.applyTimeSettings_kept (s := left) h),
        fun valid rule summer shift => acts mains effect (State.applyTimeSettings_rule (s := left) valid rule summer shift),
        fun valid rule moved => acts mains effect (State.applyTimeSettings_moved (s := left) valid rule moved)⟩
    case feeder =>
      exact ⟨acts mains effect rfl, fun none => acts mains effect
        (State.tryAsks_none (s := { left with feeder.capacity := c }) none)⟩
    case channel =>
      refine ⟨fun new old => acts mains effect (State.applyChannel_served (s := left) new old),
        fun h => ⟨_, brought mains effect (State.applyChannel_dark (s := left) h), ?_, fun j hj => ?_, ?_⟩⟩
      · rw [State.closeWrite_channel, State.channel_darkComputed, State.channel_setChannel_same left i _ hi]
        rfl
      · rw [State.closeWrite_channel, State.channel_darkComputed, State.channel_setChannel_other left i j _ (Ne.symm hj)]
        rfl
      · rw [State.closeWrite_mixer]
        rfl
    case dial =>
      exact ⟨fun out => acts mains effect (State.applyDial_off (s := left) out),
        fun on old => acts mains effect (State.applyDial_kept (s := left) on old),
        fun on old => acts mains effect (State.applyDial_enters (s := left) on old)⟩
    case line =>
      intro shown set locks
      have applied := State.applyLine_kept (s := left) settled locks
      exact ⟨fun same => acts mains effect (applied.trans (if_pos same)),
        fun moved => acts mains effect (applied.trans (if_neg moved))⟩
    case bell =>
      intro old put
      have settles {u : State} (h : left.applyBell i c = u) (calendar : u.calendar = s.calendar) : close u :=
        acts mains effect ((congrArg State.settleContexts h).trans (State.settleContexts_of_calendar settled calendar))
      refine ⟨fun new on motor hammer lock => settles (State.applyBell_fields (s := left) hi new on motor hammer lock) rfl,
        fun new on motor hammer lock => settles (State.applyBell_hammer (s := left) hi new on motor hammer lock) rfl,
        fun new out off => settles (State.applyBell_entered (s := left) hi new out off) rfl,
        fun out on off lock => settles (State.applyBell_left (s := left) hi out on off lock) rfl,
        fun new on motor hammer sources run lock => ?_⟩
      have running : (left.bell i).motor ≠ .off ∧ (left.bell i).motor.sources = sources := by
        rcases run with ⟨_, _, _, h⟩ | ⟨_, _, _, h⟩
        · exact ⟨fun off => absurd (h.symm.trans off) nofun, congrArg MotorRun.sources h⟩
        · exact ⟨fun off => absurd (h.symm.trans off) nofun, congrArg MotorRun.sources h⟩
      obtain ⟨busy, rfl⟩ := running
      exact acts mains effect (congrArg State.settleContexts (State.applyBell_stopped (s := left) hi new on motor hammer busy lock))
    case scene =>
      refine ⟨fun none => acts mains effect (State.applyScene_none (s := left) none), fun x found => ?_⟩
      intro set
      refine ⟨fun lowered => acts mains effect (State.applyScene_lowered (s := left) found lowered), fun l slot layer => ?_⟩
      intro others outranks
      obtain ⟨before, after, split, placed, first, last⟩ := State.insertLayer_place { set with mixer.layers := others } l
      refine ⟨before, after, split, acts mains effect ((State.applyScene_layer (s := left) found layer).trans placed),
        fun y hy => (State.stackBefore_iff _ y l).1 (first y hy), fun y hy before => ?_⟩
      exact Bool.false_ne_true ((last y hy).symm.trans ((State.stackBefore_iff _ y l).2 before))
    case dusk =>
      refine ⟨fun line threshold confirm effect => ?_, fun p i o n d => ?_⟩
      · intro set undue
        exact acts mains effect (State.recomputeDuskAll_none (s := set) undue)
      intro table set effect
      refine ⟨fun undue => acts mains effect (State.recomputeDuskAll_none (s := set) undue), fun hi record anchor due others => ?_⟩
      have worked := brought mains effect (State.recomputeDuskAll_one (s := set) hi record anchor due others)
      refine ⟨_, worked, ?_, ?_, set.withNextDue o, ?_, ?_⟩
      · rw [State.closeWrite_calendar, State.putOccasion_duskTable]
      · rw [State.closeWrite_waiting, State.putOccasion_link]
        rfl
      · rw [State.closeWrite_occasionSlot, State.putOccasion_occasionSlot set i _ hi]
        rfl
      · exact State.withNextDue_valid (s := set) valid o
    case hammerFault =>
      exact ⟨fun mains settled => acts mains effect ((congrArg State.settleContexts (State.keepHammerFault_out (s := left) out)).trans
          (State.settleContexts_settled (s := left) settled)),
        fun reserve => stores reserve effect (State.storeHammerFault_out (s := left) out)⟩
    case motorFault =>
      exact ⟨fun mains settled => acts mains effect ((congrArg State.settleContexts (State.keepMotorFault_out (s := left) out)).trans
          (State.settleContexts_settled (s := left) settled)),
        fun _ reserve => stores reserve effect (State.storeMotorFault_out (s := left) out)⟩
  · intro left brings
    have brought {t : State} {x : WriteEffect} (mains : s.time.power = .mains) (effect : w.effect = x) (h : left.applyWrite x = t) :
        brings (t.closeWrite none) := by
      change exec (.recordMemoryWriteEnd dt) s = _
      rw [exec_endWrite dt writes effect (fun _ => h) fun reserve => absurd mains reserve, silent]
    refine ⟨fun i f hi mains settled off effect on => ?_, fun i hi mains settled run effect on => ?_, fun reserve idle => ?_⟩
    · have kept := State.keepHammerFault_kept (s := left) (f := f) hi off on
      refine ⟨_, brought mains effect (State.settleContexts_of_calendar settled kept.calendar), ?_, ?_, fun service => ?_⟩
      · rw [State.closeWrite_bell]
        exact kept.config
      · rw [State.closeWrite_bell]
        exact kept.hammerFault
      · rw [State.closeWrite_stroke]
        exact kept.stroke service
    · have alone : (left.bell i).motor = .off ∨ (left.bell i).motor.sources = [.command] := by
        rcases run with off | ⟨_, _, _, running⟩
        · exact .inl off
        · exact .inr (congrArg MotorRun.sources running)
      have kept := State.keepMotorFault_kept (s := left) hi alone on
      refine ⟨_, brought mains effect (State.settleContexts_of_calendar settled kept.calendar), ?_, fun service => ?_⟩
      · rw [State.closeWrite_bell]
        exact kept.config
      · rw [State.closeWrite_bell]
        exact kept.motor service
    · have stores {t : State} {x : WriteEffect} (effect : w.effect = x) (h : left.storeWrite x = t) (link : t.link.inProgress = none) :
          brings t := by
        change exec (.recordMemoryWriteEnd dt) s = _
        rw [exec_endWrite (t := t) dt writes effect (fun mains => by simp [reserve] at mains) fun _ => h, silent,
          State.closeWrite_none link]
      refine ⟨fun x effect => stores effect rfl idle, fun i a effect => stores effect rfl idle, fun i x effect => stores effect rfl idle,
        fun i c effect => stores effect rfl idle, fun p effect => stores effect rfl idle, fun c effect => stores effect rfl idle,
        fun line threshold confirm effect => stores effect rfl idle, fun p effect => stores effect rfl idle,
        fun i c effect => stores effect rfl idle,
        fun h c x effect found => stores effect (State.storeWrite_scene (s := left) found) idle, fun c effect => stores effect rfl idle,
        fun f effect => stores effect rfl idle, fun i f effect on => stores effect (if_pos on) idle,
        fun i effect on => stores effect rfl idle⟩

end Sys2Proof.Machine
end

section
/-! The Dial Drive (chapter 2): what each operation makes of the one dial it acts on, said of that dial alone, and with it the rest
rule, the reconciliation, the half-minute and the end of an impulse (R22 to R30, R35). -/

namespace Sys2Proof.Machine

variable {s t : State} {d : Dial} {i : Nat}

/-! ## One dial of the table -/

theorem State.setDial_setDial (s : State) (i : Nat) (x y : Dial) : (s.setDial i x).setDial i y = s.setDial i y :=
  congrArg (fun v => { s with dials := v }) (Vector.setIfInBounds_setIfInBounds x)

theorem State.setDial_dial (s : State) (i : Nat) : s.setDial i (s.dial i) = s :=
  congrArg (fun v => { s with dials := v }) (setIfInBounds_getD s.dials i _)

theorem State.setDial_outside (h : Config.dials ≤ i) (s : State) (x : Dial) : s.setDial i x = s :=
  congrArg (fun v => { s with dials := v }) (Vector.setIfInBounds_eq_of_size_le h)

/-- Acts on the dials by what the state holds beside them: each dial is acted on by itself, and nothing else changes. -/
theorem eachIndex_dials (f : State → Nat → Dial → Dial) (reads : ∀ (s : State) v, f { s with dials := v } = f s)
    {act : Nat → State → State} (own : ∀ i s, act i s = s.setDial i (f s i (s.dial i))) (s : State) :
    eachIndex Config.dials act s = { s with dials := (eachIndex Config.dials act s).dials } ∧
      ∀ i, i < 6 → (eachIndex Config.dials act s).dial i = f s i (s.dial i) := by
  have whole (i : Nat) := eachIndex_own_while (s := s) (act := act) (size := Config.dials) (fun u i => u.dial i) (f s)
    (fun u => u = { s with dials := u.dials })
    (fun i u h => by
      rw [own]
      exact congrArg (fun x : State => { x with dials := (u.setDial i (f u i (u.dial i))).dials }) h)
    (fun i u h hi => by
      have beside : f u = f s := (congrArg f h).trans (reads s u.dials)
      rw [own, State.dial_setDial_same _ _ _ hi, beside])
    (fun i j u hij => by rw [own, State.dial_setDial_other _ _ _ _ hij]) (Nat.le_refl _) rfl i
  exact ⟨(whole 0).1, fun i hi => (whole i).2.trans (if_pos hi)⟩

/-! ## Target and distance (R22) -/

/-- R22: the steps from a dial's hands forward to the target of the local instant shown. -/
def State.stepsLeft (s : State) (d : Dial) : Nat := distance (dialTarget s.localNow) d.position

theorem State.dialDistance_eq (s : State) (i : Nat) : s.dialDistance i = s.stepsLeft (s.dial i) := rfl

theorem dialTarget_eq (x : Nat) : dialTarget x = x % 43200 / 30 := by
  simp only [dialTarget, Config.daySeconds]
  split <;> omega

/-! ## Starting an impulse (R26 to R28, R35) -/

/-- R26, R27, R35: nothing holds back an impulse of the dial. -/
abbrev State.ImpulseFree (s : State) (d : Dial) : Prop :=
  s.time.power = .mains ∧ s.hammers.gate = .closed ∧ d.impulse = none ∧ d.owed = false ∧
    ∀ m, d.lastStart = some m → m + d.spacing ≤ s.nowMs

/-- R28, R29: the dial as its impulse starts. -/
def State.impulseStarted (s : State) (i : Nat) (d : Dial) : Dial :=
  { d with lastStart := some s.nowMs
           impulse := some { polarity := d.nextPolarity, began := s.nowMs, sensed := s.lineActive .dialSense i } }

/-- `State.impulseReady`, of a dial. -/
def State.readyFor (s : State) (d : Dial) : Bool :=
  decide s.inMains && decide (s.hammers.gate = .closed) && d.impulse.isNone && !d.owed && d.isDriven
    && (!s.time.valid || decide (1 ≤ s.stepsLeft d)) && d.rested s.nowMs

theorem State.impulseReady_eq (s : State) (i : Nat) : s.impulseReady i = s.readyFor (s.dial i) := rfl

/-- `State.tryImpulse`, of a dial. -/
def State.impulseTried (s : State) (i : Nat) (d : Dial) : Dial :=
  if s.readyFor d then (if s.time.valid then s.impulseStarted i d else { d with state := .waitTime }) else d

theorem Dial.rested_iff (d : Dial) (now : Nat) : d.rested now = true ↔ ∀ m, d.lastStart = some m → m + d.spacing ≤ now := by
  unfold Dial.rested
  cases d.lastStart <;> simp

theorem Dial.isDriven_iff (d : Dial) : d.isDriven = true ↔ d.state = .run ∨ d.state = .catchUp := by
  simp [Dial.isDriven]

theorem State.readyFor_iff (s : State) (d : Dial) : s.readyFor d = true ↔
    s.ImpulseFree d ∧ (d.state = .run ∨ d.state = .catchUp) ∧ (s.time.valid = true → s.stepsLeft d ≠ 0) := by
  have steps : (!s.time.valid || decide (1 ≤ s.stepsLeft d)) = true ↔ (s.time.valid = true → s.stepsLeft d ≠ 0) := by
    cases s.time.valid <;> simp [Nat.one_le_iff_ne_zero]
  simp only [State.readyFor, Bool.and_eq_true, decide_eq_true_eq, Option.isNone_iff_eq_none, Bool.not_eq_true', d.isDriven_iff,
    d.rested_iff, steps]
  tauto

theorem State.impulseTried_started (free : s.ImpulseFree d) (driven : d.state = .run ∨ d.state = .catchUp)
    (valid : s.time.valid = true) (behind : s.stepsLeft d ≠ 0) (i : Nat) : s.impulseTried i d = s.impulseStarted i d :=
  (if_pos ((s.readyFor_iff d).2 ⟨free, driven, fun _ => behind⟩)).trans (if_pos valid)

theorem State.impulseTried_invalid (free : s.ImpulseFree d) (driven : d.state = .run ∨ d.state = .catchUp)
    (invalid : s.time.valid = false) (i : Nat) : s.impulseTried i d = { d with state := .waitTime } :=
  (if_pos ((s.readyFor_iff d).2 ⟨free, driven, fun valid => absurd valid (by simp [invalid])⟩)).trans (if_neg (by simp [invalid]))

theorem State.impulseTried_held (held : ¬s.ImpulseFree d) (i : Nat) : s.impulseTried i d = d :=
  if_neg fun ready => held ((s.readyFor_iff d).1 ready).1

theorem State.impulseTried_undriven (h : ¬(d.state = .run ∨ d.state = .catchUp)) (i : Nat) : s.impulseTried i d = d :=
  if_neg fun ready => h ((s.readyFor_iff d).1 ready).2.1

theorem State.impulseTried_there (valid : s.time.valid = true) (there : s.stepsLeft d = 0) (i : Nat) : s.impulseTried i d = d :=
  if_neg fun ready => ((s.readyFor_iff d).1 ready).2.2 valid there

/-- With the time invalid no impulse starts. -/
theorem State.impulseTried_impulse (invalid : s.time.valid = false) (i : Nat) : (s.impulseTried i d).impulse = d.impulse := by
  unfold State.impulseTried
  rw [invalid]
  split <;> rfl

/-- What an attempt to start an impulse can change of a dial. -/
theorem State.impulseTried_frame (s : State) (i : Nat) (d : Dial) :
    let x := s.impulseTried i d
    x = { d with state := x.state, impulse := x.impulse, lastStart := x.lastStart } := by
  unfold State.impulseTried
  split
  · split <;> rfl
  · rfl

theorem State.tryImpulse_eq (s : State) (i : Nat) : s.tryImpulse i = s.setDial i (s.impulseTried i (s.dial i)) := by
  unfold State.tryImpulse State.impulseTried
  rw [s.impulseReady_eq]
  by_cases ready : s.readyFor (s.dial i) = true
  · rw [if_pos ready, if_pos ready]
    cases s.time.valid <;> rfl
  · rw [if_neg ready, if_neg ready, State.setDial_dial]

theorem State.tryImpulse_setDial (s : State) (i : Nat) (d : Dial) :
    (s.setDial i d).tryImpulse i = s.setDial i (s.impulseTried i d) := by
  by_cases hi : i < Config.dials
  · rw [State.tryImpulse_eq, State.dial_setDial_same _ _ _ hi, State.setDial_setDial]
    rfl
  · rw [State.tryImpulse_eq]
    simp only [State.setDial_outside (Nat.le_of_not_lt hi)]

/-! ## Reconciliation (R23, R24) -/

/-- `State.reconcile`, of a dial. -/
def State.reconciled (s : State) (i : Nat) (d : Dial) : Dial :=
  if d.state = .off ∨ d.state = .fault then d
  else if s.time.valid = false then { d with state := .waitTime }
  else if s.stepsLeft d = 0 then { d with state := .run }
  else if s.stepsLeft d ≤ d.window then s.impulseTried i { d with state := .catchUp }
  else { d with state := .hold }

theorem State.reconciled_resting (h : d.state = .off ∨ d.state = .fault) (i : Nat) : s.reconciled i d = d := if_pos h

theorem State.reconciled_invalid (h : ¬(d.state = .off ∨ d.state = .fault)) (invalid : s.time.valid = false) (i : Nat) :
    s.reconciled i d = { d with state := .waitTime } := (if_neg h).trans (if_pos invalid)

section
variable (h : ¬(d.state = .off ∨ d.state = .fault)) (valid : s.time.valid = true)
include h valid

theorem State.reconciled_valid (i : Nat) : s.reconciled i d =
    if s.stepsLeft d = 0 then { d with state := .run }
    else if s.stepsLeft d ≤ d.window then s.impulseTried i { d with state := .catchUp }
    else { d with state := .hold } := (if_neg h).trans (if_neg (by simp [valid]))

theorem State.reconciled_run (there : s.stepsLeft d = 0) (i : Nat) : s.reconciled i d = { d with state := .run } :=
  (State.reconciled_valid h valid i).trans (if_pos there)

theorem State.reconciled_catchUp (behind : s.stepsLeft d ≠ 0) (near : s.stepsLeft d ≤ d.window) (i : Nat) :
    s.reconciled i d = s.impulseTried i { d with state := .catchUp } :=
  (State.reconciled_valid h valid i).trans ((if_neg behind).trans (if_pos near))

theorem State.reconciled_hold (behind : s.stepsLeft d ≠ 0) (far : d.window < s.stepsLeft d) (i : Nat) :
    s.reconciled i d = { d with state := .hold } :=
  (State.reconciled_valid h valid i).trans ((if_neg behind).trans (if_neg (Nat.not_le.2 far)))

end

theorem State.reconcile_eq (s : State) (i : Nat) : s.reconcile i = s.setDial i (s.reconciled i (s.dial i)) := by
  unfold State.reconcile
  dsimp only
  by_cases resting : (s.dial i).state = .off ∨ (s.dial i).state = .fault
  · rw [if_pos resting, State.reconciled_resting resting, State.setDial_dial]
  have hi : i < Config.dials := by
    by_contra out
    exact resting (.inl (by rw [State.dial_outside (Nat.le_of_not_lt out)]; rfl))
  rw [if_neg resting]
  cases valid : s.time.valid with
  | false =>
    rw [State.reconciled_invalid resting valid]
    rfl
  | true =>
    rw [if_neg (by simp), State.dial_setDial_same _ _ _ hi, State.tryImpulse_setDial, s.dialDistance_eq]
    unfold stateForDistance
    by_cases there : s.stepsLeft (s.dial i) = 0
    · rw [if_pos there, if_neg nofun, State.reconciled_run resting valid there]
    by_cases near : s.stepsLeft (s.dial i) ≤ (s.dial i).window
    · rw [if_neg there, if_pos near, if_pos rfl, State.reconciled_catchUp resting valid there near]
    · rw [if_neg there, if_neg near, if_neg nofun, State.reconciled_hold resting valid there (Nat.lt_of_not_le near)]

theorem State.reconcile_setDial (hi : i < 6) (s : State) (d : Dial) :
    (s.setDial i d).reconcile i = s.setDial i (s.reconciled i d) := by
  rw [State.reconcile_eq, State.dial_setDial_same _ _ _ hi, State.setDial_setDial]
  rfl

/-- `State.reconcileOrOwe`, of a dial. -/
def State.reconciledOrOwed (s : State) (i : Nat) (d : Dial) : Dial :=
  if d.impulse = none then s.reconciled i d else { d with owed := true }

theorem State.reconcileOrOwe_eq (s : State) (i : Nat) :
    s.reconcileOrOwe i = s.setDial i (s.reconciledOrOwed i (s.dial i)) := by
  unfold State.reconcileOrOwe State.reconciledOrOwed
  dsimp only
  cases (s.dial i).impulse with
  | none => exact s.reconcile_eq i
  | some p => rfl

/-- R24: an event that reconciles the dials. -/
theorem State.reconcileDials_spec (s : State) : s.reconcileDials = { s with dials := s.reconcileDials.dials } ∧
    ∀ i, i < 6 → s.reconcileDials.dial i = s.reconciledOrOwed i (s.dial i) :=
  eachIndex_dials State.reconciledOrOwed (fun _ _ => rfl) (fun i s => s.reconcileOrOwe_eq i) s

/-- What a reconciliation can change of a dial. -/
theorem State.reconciled_frame (s : State) (i : Nat) (d : Dial) :
    let x := s.reconciled i d
    x = { d with state := x.state, impulse := x.impulse, lastStart := x.lastStart } := by
  unfold State.reconciled
  split_ifs
  · rfl
  · rfl
  · rfl
  · exact s.impulseTried_frame i { d with state := .catchUp }
  · rfl

/-! ## Half-minutes (R25) -/

/-- `State.halfMinute`, of a dial. -/
def State.halfMinuted (s : State) (i : Nat) (d : Dial) : Dial :=
  match d.state with
  | .off => d
  | .waitTime => d
  | .fault => d
  | .run =>
    if s.stepsLeft d = 0 then d
    else if s.stepsLeft d = 1 then s.impulseTried i d
    else s.impulseTried i { d with state := .catchUp }
  | .catchUp => s.impulseTried i d
  | .hold => if s.stepsLeft d = 0 then { d with state := .run } else d

theorem State.halfMinute_eq (s : State) (i : Nat) : s.halfMinute i = s.setDial i (s.halfMinuted i (s.dial i)) := by
  unfold State.halfMinute State.halfMinuted
  dsimp only
  rw [s.dialDistance_eq, s.tryImpulse_eq, s.tryImpulse_setDial]
  cases (s.dial i).state with
  | off => exact (s.setDial_dial i).symm
  | waitTime => exact (s.setDial_dial i).symm
  | fault => exact (s.setDial_dial i).symm
  | catchUp => rfl
  | run =>
    dsimp only
    split_ifs
    · exact (s.setDial_dial i).symm
    · rfl
    · rfl
  | hold =>
    dsimp only
    split_ifs
    · rfl
    · exact (s.setDial_dial i).symm

/-- R25: a HALF-MINUTE. -/
theorem State.halfMinutes_spec (s : State) : s.halfMinutes = { s with dials := s.halfMinutes.dials } ∧
    ∀ i, i < 6 → s.halfMinutes.dial i = s.halfMinuted i (s.dial i) :=
  eachIndex_dials State.halfMinuted (fun _ _ => rfl) (fun i s => s.halfMinute_eq i) s

/-! ## The commands -/

section
variable (hi : i < 6) (mains : s.time.power = .mains)
include hi mains

theorem exec_restRuleExpiry (dt : Nat) : exec (.restRuleExpiry dt i) s
    = .next ((s.elapse dt).setDial i ((s.elapse dt).impulseTried i (s.dial i))) :=
  (happenAt_mains dt hi mains).trans (congrArg _ ((s.elapse dt).tryImpulse_eq i))

theorem exec_deferredReconciliation (dt : Nat) : exec (.deferredReconciliation dt i) s = .next ((s.elapse dt).settleOwed i) :=
  happenAt_mains dt hi mains

theorem exec_impulseEnd (dt : Nat) : exec (.impulseEnd dt i) s = .next ((s.elapse dt).endImpulse i) := happenAt_mains dt hi mains

theorem exec_noCurrent (dt : Nat) : exec (.noCurrent dt i) s = .next ((s.elapse dt).missCurrent i) := happenAt_mains dt hi mains

end

/-- R24: an owed reconciliation of a dial without an impulse in progress. -/
theorem State.settleOwed_paid (hi : i < 6) (owed : (s.dial i).owed = true) (still : (s.dial i).impulse = none) :
    s.settleOwed i = s.setDial i (s.reconciled i { s.dial i with owed := false }) :=
  (if_pos (by simp [owed, still])).trans (s.reconcile_setDial hi _)

theorem State.settleOwed_none (h : (s.dial i).owed = false ∨ (s.dial i).impulse ≠ none) : s.settleOwed i = s :=
  if_neg (by simpa [imp_iff_not_or] using h)

end Sys2Proof.Machine
end

section
/-! The target and the distance of a dial (R22), and how an impulse ends (R26, R29, R30). -/

namespace Sys2Proof.Machine

variable {s t : State} {d : Dial} {i : Nat}

/-! ## Target and distance (R22) -/

/-- With the time invalid a reconciliation starts no impulse. -/
theorem State.reconciled_impulse (invalid : s.time.valid = false) (i : Nat) : (s.reconciled i d).impulse = d.impulse := by
  by_cases resting : d.state = .off ∨ d.state = .fault
  · rw [State.reconciled_resting resting]
  · rw [State.reconciled_invalid resting invalid]

theorem happenAt_whenMains_next {act : State → State} {dt i bound : Nat}
    (h : happenAt dt i bound (fun s => s.whenMains act) s = .next t) :
    i < bound ∧ (t = act (s.elapse dt) ∨ t = s.elapse dt) := by
  unfold happenAt at h
  split at h
  next lt =>
    refine ⟨lt, ?_⟩
    rw [← Host.Outcome.next.inj h]
    exact (ite_eq_or_eq (s.elapse dt).inMains _ _)
  next => cases h

/-- Settles O18: the target is the half-minute of the local time of day, and the two commands that drive a dial without a delivery put
it in WAIT TIME or leave it while the time is invalid. -/
theorem dialTargetAndDistance : Obligations.DialTargetAndDistance := by
  unfold Obligations.DialTargetAndDistance
  refine ⟨fun x target position low low' => ?_, fun s i => rfl, fun s dt i invalid still => ⟨fun t h => ?_, fun t h => ?_⟩⟩
  · refine ⟨rfl, dialTarget_eq x, ?_⟩
    unfold distance
    omega
  · obtain ⟨hi, rfl | rfl⟩ := happenAt_whenMains_next h
    · rw [State.tryImpulse_eq, State.dial_setDial_same _ _ _ hi]
      exact (State.impulseTried_impulse (s := s.elapse dt) invalid i).trans still
    · exact still
  · obtain ⟨hi, rfl | rfl⟩ := happenAt_whenMains_next h
    · by_cases owed : (s.dial i).owed = true
      · rw [State.settleOwed_paid (s := s.elapse dt) hi owed still, State.dial_setDial_same _ _ _ hi]
        exact (State.reconciled_impulse (s := s.elapse dt) invalid i).trans still
      · rw [State.settleOwed_none (s := s.elapse dt) (.inl (Bool.eq_false_iff.2 owed))]
        exact still
    · exact still

/-! ## The end of an impulse (R26, R29, R30) -/

theorem Polarity.flip_eq (p : Polarity) : p.flip = if p = .positive then .negative else .positive := by cases p <;> rfl

/-- R29: the dial one step on, its polarity flipped and no impulse in progress. -/
def Dial.delivered (d : Dial) : Dial :=
  { d with position := (d.position + 1) % 1440, impulse := none
           nextPolarity := if d.nextPolarity = .positive then .negative else .positive }

/-- `State.afterDelivery`, of a dial. -/
def State.cadence (s : State) (i : Nat) (d : Dial) : Dial :=
  if d.owed then d
  else if d.state = .catchUp then
    if s.time.valid = true ∧ s.stepsLeft d = 0 then { d with state := .run } else s.impulseTried i d
  else d

theorem State.afterDelivery_eq (s : State) (i : Nat) : s.afterDelivery i = s.setDial i (s.cadence i (s.dial i)) := by
  unfold State.afterDelivery State.cadence
  dsimp only
  rw [s.dialDistance_eq, s.tryImpulse_eq]
  split_ifs
  · exact (s.setDial_dial i).symm
  · rfl
  · rfl
  · exact (s.setDial_dial i).symm

/-- R29: a delivery, and what the cadence then makes of the dial. -/
theorem State.deliverImpulse_eq (hi : i < 6) (s : State) : s.deliverImpulse i =
    ((s.setDial i (s.dial i).delivered).store (.dialSettle i)).setDial i (s.cadence i (s.dial i).delivered) := by
  unfold State.deliverImpulse
  rw [State.afterDelivery_eq, Polarity.flip_eq]
  exact congrArg (fun d => State.setDial _ i (s.cadence i d)) (State.dial_setDial_same _ _ _ hi)

theorem State.store_setDial (s : State) (i : Nat) (d : Dial) (r : RecordName) :
    ((s.setDial i d).store r).setDial i d = (s.setDial i d).store r :=
  congrArg (fun u : State => u.store r) (s.setDial_setDial i d d)

theorem State.cadence_kept (h : d.owed = true ∨ d.state ≠ .catchUp) (i : Nat) : s.cadence i d = d := by
  unfold State.cadence
  rcases h with owed | other
  · rw [if_pos owed]
  · rw [if_neg other, ite_self]

section
variable (settled : d.owed = false) (behind : d.state = .catchUp)
include settled behind

theorem State.cadence_catchUp (i : Nat) : s.cadence i d =
    if s.time.valid = true ∧ s.stepsLeft d = 0 then { d with state := .run } else s.impulseTried i d :=
  (if_neg (by simp [settled])).trans (if_pos behind)

theorem State.cadence_there (valid : s.time.valid = true) (there : s.stepsLeft d = 0) (i : Nat) :
    s.cadence i d = { d with state := .run } := (State.cadence_catchUp settled behind i).trans (if_pos ⟨valid, there⟩)

theorem State.cadence_on (left : s.stepsLeft d ≠ 0) (i : Nat) : s.cadence i d = s.impulseTried i d :=
  (State.cadence_catchUp settled behind i).trans (if_neg fun there => left there.2)

end

/-- R35, R27: an impulse is held back while the gate holds or the rest rule lets none start. -/
theorem State.not_impulseFree (h : s.hammers.gate = .holding ∨ ∃ m, d.lastStart = some m ∧ s.nowMs < m + d.spacing) :
    ¬s.ImpulseFree d := by
  rintro ⟨-, closed, -, -, rested⟩
  rcases h with holding | ⟨m, last, early⟩
  · exact GateState.noConfusion (closed.symm.trans holding)
  · exact Nat.not_le.2 early (rested m last)

section
variable {p : Impulse} (runs : (s.dial i).impulse = some p)
include runs

theorem State.endImpulse_eq : s.endImpulse i =
    if (s.dial i).impulseWidth + p.began ≤ s.nowMs ∧ s.isDelivered i p = true then s.deliverImpulse i else s := by
  unfold State.endImpulse
  dsimp only
  rw [runs]

theorem State.missCurrent_eq : s.missCurrent i =
    if (s.hasLine .dialSense i && !p.sensed && decide (p.began + 50 ≤ s.nowMs)) = true then
      ((s.setDial i { s.dial i with impulse := none, state := .fault, fault := some .noCurrent, owed := false }).store
        (.dial i)).raise .dialFault
    else s := by
  unfold State.missCurrent
  dsimp only
  rw [runs]
  rfl

end

theorem State.isDelivered_iff (s : State) (i : Nat) (p : Impulse) :
    s.isDelivered i p = true ↔ s.hasLine .dialSense i = false ∨ p.sensed = true := by
  simp [State.isDelivered]

/-- Settles O19: IMPULSE_END delivers when the width has run and current has shown, and then keeps the cadence; NO_CURRENT. -/
theorem impulsesAreDeliveredOrFail : Obligations.ImpulsesAreDeliveredOrFail := by
  unfold Obligations.ImpulsesAreDeliveredOrFail
  refine ⟨fun s dt i p hi mains runs => ?_, fun s dt i p hi mains runs => ?_⟩
  · intro e d moved settled left
    have ended : exec (.impulseEnd dt i) s = .next _ :=
      (exec_impulseEnd hi mains dt).trans (congrArg _ (State.endImpulse_eq (s := e) runs))
    have delivers := State.isDelivered_iff e i p
    refine ⟨fun early => ?_, fun line dark => ?_, fun late shown => ?_⟩
    · exact ended.trans (congrArg _ (if_neg fun k => Nat.not_le.2 early (Nat.add_comm _ _ ▸ k.1)))
    · refine ended.trans (congrArg _ (if_neg fun k => ?_))
      rcases delivers.1 k.2 with none | shown
      · exact Bool.noConfusion (none.symm.trans line)
      · exact Bool.noConfusion (dark.symm.trans shown)
    have delivered : exec (.impulseEnd dt i) s = .next (settled.setDial i (e.cadence i moved)) :=
      (ended.trans (congrArg _ (if_pos ⟨Nat.add_comm _ _ ▸ late, delivers.2 shown⟩))).trans
        (congrArg _ (State.deliverImpulse_eq hi e))
    have becomes {x : Dial} (h : e.cadence i moved = x) : exec (.impulseEnd dt i) s = .next (settled.setDial i x) := h ▸ delivered
    have stays (h : e.cadence i moved = moved) : exec (.impulseEnd dt i) s = .next settled :=
      (becomes h).trans (congrArg _ (e.store_setDial i moved _))
    refine ⟨fun h => stays (State.cadence_kept (d := moved) h i), fun owed behind valid => ?_⟩
    have goesOn (far : left ≠ 0) : e.cadence i moved = e.impulseTried i moved := State.cadence_on (s := e) (d := moved) owed behind far i
    refine ⟨fun there => ?_, fun far held => ?_, fun far closed rested => ?_⟩
    · exact becomes (State.cadence_there (s := e) (d := moved) owed behind valid there i)
    · exact stays ((goesOn far).trans (State.impulseTried_held (State.not_impulseFree (s := e) (d := moved) held) i))
    · have free : e.ImpulseFree moved := ⟨mains, closed, rfl, owed, rested⟩
      exact becomes ((goesOn far).trans (State.impulseTried_started free (.inr behind) valid far i))
  · intro e
    have missed : exec (.noCurrent dt i) s = .next _ :=
      (exec_noCurrent hi mains dt).trans (congrArg _ (State.missCurrent_eq (s := e) runs))
    rw [missed]
    have line_eq : e.hasLine .dialSense i = s.hasLine .dialSense i := rfl
    rw [line_eq]
    refine ⟨fun line dark late => congrArg _ (if_pos ?_), fun h => congrArg _ (if_neg ?_)⟩
    · simp [line, dark, late]
    · simp only [Bool.and_eq_true, Bool.not_eq_true', decide_eq_true_eq]
      rintro ⟨⟨line, dark⟩, late⟩
      rcases h with none | shown | early
      · simp [line] at none
      · simp [dark] at shown
      · exact Nat.not_le.2 early late

end Sys2Proof.Machine
end

section
/-! The rest rule, the reconciliation and the half-minute (R23 to R28, R35). -/

namespace Sys2Proof.Machine

variable {s t : State} {d : Dial} {i : Nat}

/-! ## A HALF-MINUTE at one dial (R25) -/

section
variable (run : d.state = .run)
include run

theorem State.halfMinuted_run (i : Nat) : s.halfMinuted i d =
    if s.stepsLeft d = 0 then d
    else if s.stepsLeft d = 1 then s.impulseTried i d
    else s.impulseTried i { d with state := .catchUp } := by
  unfold State.halfMinuted
  rw [run]

theorem State.halfMinuted_there (there : s.stepsLeft d = 0) (i : Nat) : s.halfMinuted i d = d :=
  (State.halfMinuted_run run i).trans (if_pos there)

theorem State.halfMinuted_next (next : s.stepsLeft d = 1) (i : Nat) : s.halfMinuted i d = s.impulseTried i d :=
  (State.halfMinuted_run run i).trans ((if_neg (by omega)).trans (if_pos next))

theorem State.halfMinuted_behind (behind : 1 < s.stepsLeft d) (i : Nat) :
    s.halfMinuted i d = s.impulseTried i { d with state := .catchUp } :=
  (State.halfMinuted_run run i).trans ((if_neg (by omega)).trans (if_neg (by omega)))

end

theorem State.halfMinuted_catchUp (h : d.state = .catchUp) (i : Nat) : s.halfMinuted i d = s.impulseTried i d := by
  unfold State.halfMinuted
  rw [h]

theorem State.halfMinuted_hold (h : d.state = .hold) (i : Nat) :
    s.halfMinuted i d = if s.stepsLeft d = 0 then { d with state := .run } else d := by
  unfold State.halfMinuted
  rw [h]

theorem State.halfMinuted_resting (h : d.state = .off ∨ d.state = .waitTime ∨ d.state = .fault) (i : Nat) :
    s.halfMinuted i d = d := by
  unfold State.halfMinuted
  rcases h with h | h | h <;> rw [h]

/-! ## What an attempt comes to -/

/-- What an attempt to start an impulse comes to at a dial in CATCH-UP behind its target. -/
theorem State.impulseTried_catchUp (valid : s.time.valid = true) (behind : s.stepsLeft d ≠ 0) (i : Nat) :
    (s.ImpulseFree d → s.impulseTried i { d with state := .catchUp } = { s.impulseStarted i d with state := .catchUp }) ∧
      (¬s.ImpulseFree d → s.impulseTried i { d with state := .catchUp } = { d with state := .catchUp }) :=
  ⟨fun free => State.impulseTried_started (d := { d with state := .catchUp }) free (.inr rfl) valid behind i,
    fun held => State.impulseTried_held (d := { d with state := .catchUp }) held i⟩

/-- A started dial keeps its state. -/
theorem State.impulseStarted_state {x : DialState} (h : d.state = x) (s : State) (i : Nat) :
    s.impulseStarted i d = { s.impulseStarted i d with state := x } := by
  rw [← h]
  rfl

/-- R26, R27, R35: what holds back an impulse, or leaves none to start. -/
theorem State.impulseTried_none (h : (d.state ≠ .run ∧ d.state ≠ .catchUp) ∨ d.impulse ≠ none ∨ d.owed = true ∨
    s.hammers.gate = .holding ∨ (s.time.valid = true ∧ s.stepsLeft d = 0) ∨ ∃ m, d.lastStart = some m ∧ s.nowMs < m + d.spacing)
    (i : Nat) : s.impulseTried i d = d := by
  rcases h with ⟨notRun, notCatchUp⟩ | runs | owed | holding | ⟨valid, there⟩ | early
  · exact State.impulseTried_undriven (fun driven => driven.elim notRun notCatchUp) i
  · exact State.impulseTried_held (fun free => runs free.2.2.1) i
  · exact State.impulseTried_held (fun free => Bool.noConfusion (owed.symm.trans free.2.2.2.1)) i
  · exact State.impulseTried_held (State.not_impulseFree (.inl holding)) i
  · exact State.impulseTried_there valid there i
  · exact State.impulseTried_held (State.not_impulseFree (.inr early)) i

/-- Settles O20: REST_RULE_EXPIRY, DEFERRED_RECONCILIATION, and what a reconciliation and a HALF-MINUTE do to each dial. -/
theorem dialsStartAndReconcile : Obligations.DialsStartAndReconcile := by
  unfold Obligations.DialsStartAndReconcile
  refine ⟨fun s dt i hi mains => ?restRule, fun s dt i hi mains => ?deferred, fun s i hi => ?everyDial⟩
  case restRule =>
    intro e d
    have tried {x : Dial} (h : e.impulseTried i d = x) : exec (.restRuleExpiry dt i) s = .next (e.setDial i x) :=
      h ▸ exec_restRuleExpiry hi mains dt
    refine ⟨fun driven still settled closed rested => ?_, fun held => ?_⟩
    · have free : e.ImpulseFree d := ⟨mains, closed, still, settled, rested⟩
      exact ⟨fun valid behind => tried (State.impulseTried_started free driven valid behind i),
        fun invalid => tried (State.impulseTried_invalid free driven invalid i)⟩
    · exact (tried (State.impulseTried_none (s := e) (d := d) held i)).trans (congrArg _ (e.setDial_dial i))
  case deferred =>
    intro e d paid left
    have settles : exec (.deferredReconciliation dt i) s = .next (e.settleOwed i) := exec_deferredReconciliation hi mains dt
    refine ⟨fun h => settles.trans (congrArg _ (State.settleOwed_none (s := e) h)), fun owed still => ?_⟩
    have becomes {x : Dial} (h : e.reconciled i paid = x) : exec (.deferredReconciliation dt i) s = .next (e.setDial i x) :=
      settles.trans (congrArg _ ((State.settleOwed_paid (s := e) hi owed still).trans (congrArg (e.setDial i) h)))
    refine ⟨fun resting => becomes (State.reconciled_resting (d := paid) resting i), fun notOff notFault => ?_⟩
    have works : ¬(paid.state = .off ∨ paid.state = .fault) := fun h => h.elim notOff notFault
    refine ⟨fun invalid => becomes (State.reconciled_invalid (s := e) works invalid i),
      fun valid there => becomes (State.reconciled_run (s := e) works valid there i),
      fun valid behind far => becomes (State.reconciled_hold (s := e) works valid behind far i), fun valid behind near => ?_⟩
    have catches := State.reconciled_catchUp (s := e) works valid behind near i
    obtain ⟨starts, waits⟩ := State.impulseTried_catchUp (s := e) (d := paid) valid behind i
    exact ⟨fun held => becomes (catches.trans (waits (State.not_impulseFree held))),
      fun closed rested => becomes (catches.trans (starts ⟨mains, closed, still, rfl, rested⟩))⟩
  case everyDial =>
    intro d left d' h' free started
    have reconciled : d' = s.reconciledOrOwed i d := s.reconcileDials_spec.2 i hi
    have halved : h' = s.halfMinuted i d := s.halfMinutes_spec.2 i hi
    refine ⟨s.reconcileDials_spec.1, s.halfMinutes_spec.1, fun runs => reconciled.trans (if_neg runs), fun still => ?_, fun valid => ?_⟩
    · have becomes {x : Dial} (h : s.reconciled i d = x) : d' = x := reconciled.trans ((if_pos still).trans h)
      refine ⟨fun resting => becomes (State.reconciled_resting resting i), fun notOff notFault => ?_⟩
      have works : ¬(d.state = .off ∨ d.state = .fault) := fun h => h.elim notOff notFault
      refine ⟨fun invalid => becomes (State.reconciled_invalid works invalid i),
        fun valid there => becomes (State.reconciled_run works valid there i),
        fun valid behind far => becomes (State.reconciled_hold works valid behind far i), fun valid behind near => ?_⟩
      have catches := State.reconciled_catchUp works valid behind near i
      obtain ⟨starts, waits⟩ := State.impulseTried_catchUp (s := s) (d := d) valid behind i
      exact ⟨fun free => becomes (catches.trans (starts free)), fun held => becomes (catches.trans (waits held))⟩
    · have becomes {x : Dial} (h : s.halfMinuted i d = x) : h' = x := halved.trans h
      refine ⟨fun run => ⟨fun there => becomes (State.halfMinuted_there run there i), fun next => ?_, fun behind => ?_⟩,
        fun catchUp => ?_, fun hold => ?_, fun resting => becomes (State.halfMinuted_resting resting i)⟩
      · have tries := State.halfMinuted_next run next i
        have behind : s.stepsLeft d ≠ 0 := fun there => Nat.one_ne_zero (next.symm.trans there)
        exact ⟨fun free => becomes (tries.trans ((State.impulseTried_started free (.inl run) valid behind i).trans
            (State.impulseStarted_state run s i))),
          fun held => becomes (tries.trans (State.impulseTried_held held i))⟩
      · have tries := State.halfMinuted_behind run behind i
        obtain ⟨starts, waits⟩ := State.impulseTried_catchUp (s := s) (d := d) valid (Nat.ne_zero_of_lt behind) i
        exact ⟨fun free => becomes (tries.trans (starts free)), fun held => becomes (tries.trans (waits held))⟩
      · have tries := State.halfMinuted_catchUp (s := s) catchUp i
        refine ⟨fun free behind => becomes (tries.trans ((State.impulseTried_started free (.inr catchUp) valid behind i).trans
            (State.impulseStarted_state catchUp s i))), fun h => becomes (tries.trans ?_)⟩
        exact h.elim (fun held => State.impulseTried_held held i) fun there => State.impulseTried_there valid there i
      · have holds := State.halfMinuted_hold (s := s) hold i
        exact ⟨fun there => becomes (holds.trans (if_pos there)), fun behind => becomes (holds.trans (if_neg behind))⟩

end Sys2Proof.Machine
end

section
/-! SET DIAL and AMEND of a dial (R20, R32). -/

namespace Sys2Proof.Machine

variable {s t : State} {i n : Nat} {a : DialAmend}

/-! ## The checks and the clamp (R20) -/

theorem clampSpacing_spec (width : Nat) {spacing : Nat} (h : spacing % 500 = 0) :
    clampSpacing width spacing % 500 = 0 ∧ width + 250 ≤ clampSpacing width spacing ∧ spacing ≤ clampSpacing width spacing ∧
      (clampSpacing width spacing = spacing ∨ clampSpacing width spacing < width + 250 + 500) := by
  simp only [clampSpacing, leastSpacing]
  omega

theorem State.dialLinesOk_iff (s : State) (i : Nat) : s.dialLinesOk i = true ↔
    s.countLines .dialPositive i = 1 ∧ s.countLines .dialNegative i = 1 ∧ s.countLines .dialSense i ≤ 1 := by
  simp only [State.dialLinesOk, Bool.and_eq_true, beq_iff_eq, decide_eq_true_eq, and_assoc]

theorem State.dialAmendOk_iff (s : State) (i : Nat) (a : DialAmend) : s.dialAmendOk i a = true ↔ a.label.length ≤ 16 ∧
    100 ≤ a.impulseWidth ∧ a.impulseWidth ≤ 2000 ∧ a.impulseWidth % 10 = 0 ∧ 500 ≤ a.spacing ∧ a.spacing ≤ 30000 ∧
    a.spacing % 500 = 0 ∧ 1 ≤ a.window ∧ a.window ≤ 1439 ∧
    (a.service = true → s.countLines .dialPositive i = 1 ∧ s.countLines .dialNegative i = 1 ∧ s.countLines .dialSense i ≤ 1) := by
  have lines : (!a.service || s.dialLinesOk i) = true ↔ (a.service = true → s.dialLinesOk i = true) := by
    cases a.service <;> simp
  rw [State.dialLinesOk_iff] at lines
  simp only [State.dialAmendOk, Bool.and_eq_true, decide_eq_true_eq, labelOk_iff, beq_iff_eq, lines, and_assoc]

/-! ## SET DIAL acts (R32) -/

/-- R32: a dial at a new position, out of doubt and fault. -/
def Dial.putAt (d : Dial) (n : Nat) : Dial := { d with position := n, doubt := false, fault := none }

/-- `State.applySetDial`, of a dial. -/
def State.dialSet (s : State) (i n : Nat) (d : Dial) : Dial :=
  if !d.service then d.putAt n
  else if d.state = .fault then s.reconciledOrOwed i { d.putAt n with state := .waitTime }
  else s.reconciledOrOwed i (d.putAt n)

theorem State.reconcileOrOwe_setDial (hi : i < 6) (s : State) (d : Dial) :
    (s.setDial i d).reconcileOrOwe i = s.setDial i (s.reconciledOrOwed i d) := by
  rw [State.reconcileOrOwe_eq, State.dial_setDial_same _ _ _ hi, State.setDial_setDial]
  rfl

theorem State.applySetDial_eq (hi : i < 6) (s : State) (n : Nat) :
    s.applySetDial i n = (s.setDial i (s.dialSet i n (s.dial i))).store (.dial i) := by
  refine congrArg (fun u : State => u.store (.dial i)) ?_
  dsimp only
  rw [State.reconcileOrOwe_setDial hi, State.reconcileOrOwe_setDial hi]
  unfold State.dialSet
  split_ifs <;> rfl

theorem attachResponse_append (r : Response) (l : List Write) (w : Write) :
    attachResponse r (l ++ [w]) = l ++ [{ w with response := some r }] := by
  induction l with
  | nil => rfl
  | cons x l ih =>
    rw [List.cons_append, List.cons_append, ← ih]
    cases l <;> rfl

/-- R182: the response of a request that has asked for one write waits for its end. -/
theorem State.answerAfterWrites_store (s u : State) (h : u.memory = s.memory) (x : RecordName) (r : Response) :
    (u.store x).answerAfterWrites s.memory.writes.length r
      = { u with memory.writes := s.memory.writes ++ [{ effect := .stored x, response := some r }] } := by
  have writes : (u.store x).memory.writes = s.memory.writes ++ [{ effect := .stored x, response := none }] := by
    rw [State.store_writes, h]
  unfold State.answerAfterWrites
  rw [writes, attachResponse_append, if_pos (by simp)]
  rfl

theorem State.doSetDial_eq (hi : i < 6) (s : State) (n : Nat) : ∃ p, s.doSetDial i n =
    { s.setDial i (s.dialSet i n (s.dial i)) with
      memory.writes := s.memory.writes ++ [{ effect := .stored (.dial i), response := some (reply .done i 0 p) }] } := by
  unfold State.doSetDial
  dsimp only
  rw [State.applySetDial_eq hi]
  exact ⟨_, s.answerAfterWrites_store (s.setDial i _) rfl (.dial i) _⟩

/-! ## The dial that SET DIAL leaves (R32, R23) -/

section
variable {d : Dial}

/-- R32: what SET DIAL changes of a dial without an impulse in progress. -/
theorem State.dialSet_frame (still : d.impulse = none) (s : State) (i n : Nat) :
    let x := s.dialSet i n d
    x = { d.putAt n with state := x.state, impulse := x.impulse, lastStart := x.lastStart } := by
  unfold State.dialSet State.reconciledOrOwed
  split_ifs
  · rfl
  · exact s.reconciled_frame i { d.putAt n with state := .waitTime }
  · exact absurd still ‹_›
  · exact s.reconciled_frame i (d.putAt n)
  · exact absurd still ‹_›

/-- R32, R23: a dial in service takes its state from its distance, a fault left behind. -/
theorem State.dialSet_served (still : d.impulse = none) (served : d.service = true) (on : d.state ≠ .off) (s : State) (i n : Nat) :
    ∃ x, x.state ≠ .off ∧ x.state ≠ .fault ∧ x.position = n ∧ x.window = d.window ∧ s.dialSet i n d = s.reconciled i x := by
  unfold State.dialSet State.reconciledOrOwed
  rw [if_neg (by simp [served])]
  by_cases fault : d.state = .fault
  · rw [if_pos fault]
    exact ⟨{ d.putAt n with state := .waitTime }, nofun, nofun, rfl, rfl, if_pos still⟩
  · rw [if_neg fault]
    exact ⟨d.putAt n, on, fault, rfl, rfl, if_pos still⟩

/-- R23: with the time valid an impulse that starts, or does not, leaves the dial its state. -/
theorem State.impulseTried_state (valid : s.time.valid = true) (i : Nat) : (s.impulseTried i d).state = d.state := by
  unfold State.impulseTried
  rw [valid]
  split <;> rfl

end

/-- R32: what a SET DIAL that acts has put in place. -/
theorem State.doSetDial_put (hi : i < 6) (still : (s.dial i).impulse = none) (n : Nat) : s.DialPut (s.doSetDial i n) i n := by
  obtain ⟨p, eq⟩ := State.doSetDial_eq hi s n
  have own : (s.doSetDial i n).dial i = s.dialSet i n (s.dial i) := by
    rw [eq]
    exact State.dial_setDial_same _ _ _ hi
  have frame := State.dialSet_frame still s i n
  have served := State.dialSet_served still (s := s) (i := i) (n := n)
  refine
    { position := by rw [own, frame]; rfl
      doubt := by rw [own, frame]; rfl
      fault := by rw [own, frame]; rfl
      others := fun j other => by rw [eq]; exact State.dial_setDial_other _ _ _ _ (Ne.symm other)
      unserved := fun out => by rw [own]; exact if_pos (by simp [out])
      invalid := fun serves on invalid => ?_
      run := fun serves on valid there => ?_
      catchUp := fun serves on valid behind near => ?_
      hold := fun serves on valid far => ?_
      write := ⟨p, by rw [eq]⟩ }
  all_goals
    obtain ⟨x, notOff, notFault, position, window, becomes⟩ := served serves on
    have works : ¬(x.state = .off ∨ x.state = .fault) := fun h => h.elim notOff notFault
    have left : s.stepsLeft x = distance (dialTarget s.localNow) n := congrArg (distance _) position
    rw [own, becomes]
  · rw [State.reconciled_invalid works invalid]
  · rw [State.reconciled_run works valid (left.trans there)]
  · rw [State.reconciled_catchUp works valid (by omega) (by omega), State.impulseTried_state valid]
  · rw [State.reconciled_hold works valid (by omega) (by omega)]

/-! ## The requests (R20, R32) -/

theorem exec_setDial (ready : s.HostReady) (dt n : Nat) :
    exec (.setDial dt i n) s = .next (((s.elapse dt).working (.setDial i n)).workSetDial i n) :=
  happen_hostRequest ready dt (.setDial i n)

theorem exec_amendDial (ready : s.HostReady) (dt : Nat) :
    exec (.amendDial dt i a) s = .next (((s.elapse dt).working (.amendDial i a)).workAmendDial i a) :=
  happen_hostRequest ready dt (.amendDial i a)

theorem State.workSetDial_badField (h : 6 ≤ i ∨ 1439 < n) : s.workSetDial i n = s.badField i :=
  if_neg fun ⟨lt, le⟩ => h.elim (Nat.not_le.2 lt) (Nat.not_lt.2 le)

theorem State.workAmendDial_badField (h : 6 ≤ i ∨ s.dialAmendOk i a = false) : s.workAmendDial i a = s.badField i :=
  if_neg fun ⟨lt, ok⟩ => h.elim (Nat.not_le.2 lt) fun bad => Bool.false_ne_true (bad.symm.trans ok)

section
variable (hi : i < 6) (runs : (s.dial i).impulse ≠ none)
include hi runs

theorem State.workSetDial_deferred (le : n ≤ 1439) : s.workSetDial i n = s.deferRequest :=
  (if_pos ⟨hi, le⟩).trans (if_pos (Option.isSome_iff_ne_none.2 runs))

theorem State.workAmendDial_deferred (ok : s.dialAmendOk i a = true) : s.workAmendDial i a = s.deferRequest :=
  (if_pos ⟨hi, ok⟩).trans (if_pos (Option.isSome_iff_ne_none.2 runs))

end

section
variable (hi : i < 6) (still : (s.dial i).impulse = none)
include hi still

theorem State.workSetDial_acts (le : n ≤ 1439) : s.workSetDial i n = s.doSetDial i n :=
  (if_pos ⟨hi, le⟩).trans (if_neg (by simp [still]))

theorem State.workAmendDial_writes (ok : s.dialAmendOk i a = true) : s.workAmendDial i a = s.writeDial i a :=
  (if_pos ⟨hi, ok⟩).trans (if_neg (by simp [still]))

end

/-! A request that waits in the Dial Drive for the end of an impulse. -/

section
variable {c : Nat} {v : Seen}

theorem State.resumeSetDial_eq
    (waits : s.link.inProgress = some { task := .request (.setDial i n), phase := .deferred, taken := c, seen := v }) :
    s.resumeSetDial = if (s.dial i).impulse.isNone then (s.setPhaseOfRequest .working).doSetDial i n else s := by
  unfold State.resumeSetDial
  rw [waits]

theorem State.resumeAmendDial_eq
    (waits : s.link.inProgress = some { task := .request (.amendDial i a), phase := .deferred, taken := c, seen := v }) :
    s.resumeAmendDial = if (s.dial i).impulse.isNone then (s.setPhaseOfRequest .working).writeDial i a else s := by
  unfold State.resumeAmendDial
  rw [waits]

end

/-- Settles O21: each request refused, deferred, worked at once and resumed, then the clamp and the checks. -/
theorem dialRequestsWaitForImpulses : Obligations.DialRequestsWaitForImpulses := by
  unfold Obligations.DialRequestsWaitForImpulses
  intro s dt i n a e put amend write
  refine ⟨fun ready => ?now, fun c v mains hi waits => ?putLater, fun c v mains hi waits => ?amendLater,
    fun width spacing => clampSpacing_spec width, s.dialAmendOk_iff i a⟩
  case now =>
    have sets := exec_setDial (i := i) ready dt n
    have amends := exec_amendDial (i := i) (a := a) ready dt
    refine ⟨fun bad => sets.trans (congrArg _ (State.workSetDial_badField bad)),
      fun bad => amends.trans (congrArg _ (State.workAmendDial_badField (s := e.working amend) bad)),
      fun hi runs => ?_, fun hi still => ?_⟩
    · exact ⟨fun le => sets.trans (congrArg _ (State.workSetDial_deferred (s := e.working put) hi runs le)),
        fun ok => amends.trans (congrArg _ (State.workAmendDial_deferred (s := e.working amend) hi runs ok))⟩
    · refine ⟨fun le => ⟨_, sets.trans (congrArg _ (State.workSetDial_acts (s := e.working put) hi still le)), ?_⟩, fun ok => ?_⟩
      · exact { State.doSetDial_put (s := e.working put) hi still n with }
      · exact (amends.trans (congrArg _ (State.workAmendDial_writes (s := e.working amend) hi still ok))).trans
          (congrArg _ (State.writeThenAnswer_first (s := e.working amend) ready.noWrite _ _))
  case putLater =>
    have resumes : exec (.deferredSetDial dt) s = .next _ :=
      (happen_mains dt mains).trans (congrArg _ (State.resumeSetDial_eq (s := e) waits))
    refine ⟨fun still => ⟨_, resumes.trans (congrArg _ (if_pos (Option.isNone_iff_eq_none.2 still))), ?_⟩, fun runs => ?_⟩
    · exact { State.doSetDial_put (s := e.setPhaseOfRequest .working) hi still n with }
    · exact resumes.trans (congrArg _ (if_neg fun none => runs (Option.isNone_iff_eq_none.1 none)))
  case amendLater =>
    have resumes : exec (.deferredDialAmend dt) s = .next _ :=
      (happen_mains dt mains).trans (congrArg _ (State.resumeAmendDial_eq (s := e) waits))
    refine ⟨fun still => ?_, fun runs => ?_⟩
    · refine resumes.trans (congrArg _ ((if_pos (Option.isNone_iff_eq_none.2 still)).trans ?_))
      have working : e.setPhaseOfRequest .working
          = { e with link.inProgress := some { task := .request amend, phase := .working, taken := c, seen := v } } := by
        unfold State.setPhaseOfRequest
        rw [show e.link.inProgress = _ from waits]
        rfl
      rw [working]
      rfl
    · exact resumes.trans (congrArg _ (if_neg fun none => runs (Option.isNone_iff_eq_none.1 none)))

end Sys2Proof.Machine
end

section
/-! What the owner of an input line does on its filtered edge (R29, R40, R47, R49). -/

namespace Sys2Proof.Machine

variable {s t : State} {i b : Nat} {r : LineRecord}

/-! ## A filtered edge (R40) -/

/-- R40: the filter time of an input has run; where the owner's act leaves no context to settle, it is the whole of what follows. -/
theorem exec_inputFilterExpiry (hi : i < 64) {dt : Nat} (ready : (s.elapse dt).filterReady i = true) (settled : s.Settled)
    (acts : ((s.elapse dt).setLine i { s.line i with filtered := (s.line i).shown, changing := none }).onEdge (s.line i).record
      (s.line i).shown = t) (calendar : t.calendar = s.calendar) : exec (.inputFilterExpiry dt i) s = .next t := by
  have taken : (s.elapse dt).takeEdge i = t :=
    (congrArg State.settleContexts acts).trans (State.settleContexts_of_calendar settled calendar)
  exact (if_pos hi).trans (congrArg _ ((if_pos ready).trans taken))

section
variable (bound : r.bound = some b)
include bound

theorem State.onEdge_swingSense (f : r.function = .swingSense) (s : State) (active : Bool) :
    s.onEdge r active = if active then s.swingPulse b else s := by
  unfold State.onEdge
  rw [f, bound]

theorem State.onEdge_restSense (f : r.function = .restSense) (s : State) (active : Bool) :
    s.onEdge r active = if active then s.restCloses b else s.restOpens b := by
  unfold State.onEdge
  rw [f, bound]

theorem State.onEdge_dialSense (f : r.function = .dialSense) (s : State) (active : Bool) :
    s.onEdge r active = if active then s.senseCurrent b else s := by
  unfold State.onEdge
  rw [f, bound]

end

/-! ## A swing pulse (R47) -/

theorem measureGap_eq (x : Bell) (now : Nat) : measureGap x now = match x.lastPulse with
    | some m => if now ≤ m + 10000 then some (max 1 (now - m)) else x.halfSwing
    | none => x.halfSwing := by
  unfold measureGap
  cases x.lastPulse with
  | none => rfl
  | some m => exact if_congr Nat.sub_le_iff_le_add' rfl rfl

/-- R47, R55: what a swing pulse measures, and the stall watch it satisfies. -/
def Bell.pulsed (x : Bell) (now : Nat) : Bell :=
  { x with halfSwing := measureGap x now, lastPulse := some now, motor := x.motor.satisfy }

theorem State.swingPulse_eq (served : (s.bell b).config.inService = true) : s.swingPulse b =
    if (s.bell b).swing = .locked then s.setBell b ((s.bell b).pulsed s.nowMs)
    else s.setBell b { (s.bell b).pulsed s.nowMs with
      swing := .swinging, quietUntil := some (s.nowMs + quietTime (measureGap (s.bell b) s.nowMs)) } := if_pos served

theorem State.swingPulse_unserved (out : (s.bell b).config.inService = false) : s.swingPulse b = s := if_neg (Bool.eq_false_iff.1 out)

/-! ## The rest contact (R49) -/

theorem State.restEdge_eq (served : (s.bell b).config.inService = true) (closed : Bool) :
    (if closed then s.restCloses b else s.restOpens b) = s.setBell b
      (if closed then
        { s.bell b with restClosedSince := some s.nowMs, swing := if (s.bell b).swing = .up then .settling else (s.bell b).swing }
      else { s.bell b with restClosedSince := none, swing := if (s.bell b).swing = .atRest then .settling else (s.bell b).swing }) := by
  cases closed with
  | true => exact if_pos served
  | false => exact if_pos served

theorem State.restEdge_unserved (out : (s.bell b).config.inService = false) (closed : Bool) :
    (if closed then s.restCloses b else s.restOpens b) = s := by
  cases closed with
  | true => exact if_neg (Bool.eq_false_iff.1 out)
  | false => exact if_neg (Bool.eq_false_iff.1 out)

/-! ## Current through a dial (R29) -/

theorem State.senseCurrent_eq {p : Impulse} (runs : (s.dial b).impulse = some p) : s.senseCurrent b =
    if s.nowMs ≤ p.began + 50 then s.setDial b { s.dial b with impulse := some { p with sensed := true } } else s := by
  unfold State.senseCurrent
  dsimp only
  rw [runs]
  rfl

/-- Settles O23: the edge is taken into the filtered state, and the owner of the line acts by its function. -/
theorem edgesReachTheirOwner : Obligations.EdgesReachTheirOwner := by
  unfold Obligations.EdgesReachTheirOwner
  intro s dt i b hi ready settled bound e l u x half pulsed
  have edge {t : State} (acts : u.onEdge l.record l.shown = t) (calendar : t.calendar = s.calendar) :
      exec (.inputFilterExpiry dt i) s = .next t := exec_inputFilterExpiry hi ready settled acts calendar
  have pulsed_eq : x.pulsed u.nowMs = pulsed := by
    unfold Bell.pulsed
    rw [measureGap_eq]
    rfl
  refine ⟨fun shown swing _ served => ?swing, fun dark swing => ?falls, fun rest _ served => ?rest, fun function out => ?unserved,
    fun p shown sense _ runs => ?sense⟩
  case swing =>
    have pulse := ((State.onEdge_swingSense bound swing u l.shown).trans (if_pos shown)).trans (State.swingPulse_eq (s := u) served)
    refine ⟨fun locked => edge (pulse.trans ((if_pos locked).trans (congrArg _ pulsed_eq))) rfl,
      fun free => edge (pulse.trans ((if_neg free).trans (congrArg _ ?_))) rfl⟩
    have gap : measureGap x u.nowMs = half := measureGap_eq x u.nowMs
    change { x.pulsed u.nowMs with swing := .swinging, quietUntil := some (u.nowMs + quietTime (measureGap x u.nowMs)) } = _
    rw [pulsed_eq, gap]
    rfl
  case falls =>
    exact edge ((State.onEdge_swingSense bound swing u l.shown).trans (if_neg (by simp [dark]))) rfl
  case rest =>
    exact edge ((State.onEdge_restSense bound rest u l.shown).trans (State.restEdge_eq (s := u) served l.shown)) rfl
  case unserved =>
    rcases function with swing | rest
    · refine edge ((State.onEdge_swingSense bound swing u l.shown).trans ?_) rfl
      rw [State.swingPulse_unserved (s := u) out, ite_self]
    · exact edge ((State.onEdge_restSense bound rest u l.shown).trans (State.restEdge_unserved (s := u) out l.shown)) rfl
  case sense =>
    have senses := ((State.onEdge_dialSense bound sense u l.shown).trans (if_pos shown)).trans (State.senseCurrent_eq (s := u) runs)
    exact ⟨fun soon => edge (senses.trans (if_pos soon)) rfl, fun late => edge (senses.trans (if_neg (Nat.not_le.2 late))) rfl⟩

end Sys2Proof.Machine
end

section
/-! A RESTART (R69 to R71, R187): its request, the hold at the gate, and the reset. -/

namespace Sys2Proof.Machine

variable {s t : State} {b : Nat}

/-! ## The request (R69) -/

/-- R69: a stroke machine as a hold begins, a REQUESTED stroke whose line is not raised withdrawn. -/
def StrokeState.withdrawn : StrokeState → StrokeState
  | .requested k => if k.raised then .requested k else .idle
  | k => k

theorem State.countSkip_frame (s : State) (r : Requester) : s.countSkip r = { s with chime := (s.countSkip r).chime } := by
  unfold State.countSkip
  cases r with
  | performance n =>
    dsimp only
    cases s.chime.performance with
    | none => rfl
    | some p => dsimp only; split <;> rfl
  | toll channel run =>
    dsimp only
    cases s.toll channel with
    | none => rfl
    | some x => dsimp only; split <;> rfl

theorem State.withdrawStroke_withdraws {k : Stroke} (h : s.stroke b = .requested k) (waits : k.raised = false) :
    s.withdrawStroke b = (s.setStroke b .idle).countSkip k.requester := by
  unfold State.withdrawStroke
  rw [h]
  exact if_neg (by simp [waits])

theorem State.withdrawStroke_leaves (h : ∀ k, s.stroke b = .requested k → k.raised = true) : s.withdrawStroke b = s := by
  unfold State.withdrawStroke
  split
  next k e => exact if_pos (h k e)
  next => rfl

/-- A withdrawal changes the stroke machine and the skipped count of its requester alone. -/
theorem State.withdrawStroke_frame (s : State) (b : Nat) : s.withdrawStroke b =
    { s.setStroke b (s.stroke b).withdrawn with chime := (s.withdrawStroke b).chime } := by
  cases h : s.stroke b with
  | requested k =>
    cases raised : k.raised with
    | false =>
      have idle : (StrokeState.requested k).withdrawn = .idle := if_neg (Bool.eq_false_iff.1 raised)
      rw [State.withdrawStroke_withdraws h raised, idle]
      exact State.countSkip_frame _ _
    | true =>
      have kept : (StrokeState.requested k).withdrawn = s.stroke b := (if_pos raised).trans h.symm
      rw [State.withdrawStroke_leaves fun k' e => StrokeState.requested.inj (h.symm.trans e) ▸ raised, kept, State.setStroke_stroke]
  | idle | striking | recovering | fault | outOfService =>
    rw [State.withdrawStroke_leaves fun k e => StrokeState.noConfusion (h.symm.trans e)]
    exact (h ▸ s.setStroke_stroke b).symm

theorem State.withdrawStroke_stroke (i : Nat) (s : State) (h : i < 40) : (s.withdrawStroke i).stroke i = (s.stroke i).withdrawn := by
  rw [s.withdrawStroke_frame i]
  exact State.stroke_setStroke_same s i _ h

theorem State.withdrawStroke_other (s : State) {i j : Nat} (h : i ≠ j) : (s.withdrawStroke i).stroke j = s.stroke j := by
  rw [s.withdrawStroke_frame i]
  exact State.stroke_setStroke_other s i j _ h

theorem State.requestRestart_closed (closed : s.hammers.gate = .closed) :
    s.requestRestart = eachIndex Config.bells (fun i s => s.withdrawStroke i) { s with hammers.gate := .holding } := by
  unfold State.requestRestart
  rw [closed]

/-- R69: what a requested RESTART does at a gate that is CLOSED. -/
structure State.HoldOpened (s t : State) : Prop where
  gate : t.hammers.gate = .holding
  strokes : ∀ b, b < 40 → t.stroke b = (s.stroke b).withdrawn
  rstn : t.hammers.rstn = s.hammers.rstn
  time : t.time = s.time
  link : t.link = s.link

theorem State.requestRestart_opens (closed : s.hammers.gate = .closed) : s.HoldOpened s.requestRestart where
  gate := (State.requestRestart_quiet (r := true) s).gate
  strokes b hb := by
    have own := eachIndex_own (fun s i => s.stroke i) (fun _ => StrokeState.withdrawn) (size := Config.bells)
      State.withdrawStroke_stroke (fun i j s => s.withdrawStroke_other) (Nat.le_refl _) { s with hammers.gate := .holding } b
    rw [State.requestRestart_closed closed]
    exact own.trans (if_pos hb)
  rstn := by
    rw [State.requestRestart_closed closed]
    exact eachIndex_same (fun s => s.hammers.rstn) (fun i s => by rw [s.withdrawStroke_frame i]; rfl) _ _
  time := (State.requestRestart_quiet (r := true) s).time
  link := by
    rw [State.requestRestart_closed closed]
    exact eachIndex_same State.link (fun i s => by rw [s.withdrawStroke_frame i]; rfl) _ _

/-- R11: a SET TIME that waits is abandoned, its request with it. -/
def State.waitAbandoned (s : State) : State :=
  if s.time.setTimeWait.isSome then { s with time.setTimeWait := none, link.inProgress := none } else s

theorem State.assertRstn_mains (mains : s.time.power = .mains) :
    s.assertRstn = (State.waitAbandoned { s with hammers.rstn := true }).requestRestart := if_pos mains

theorem State.waitAbandoned_hammers (s : State) : s.waitAbandoned.hammers = s.hammers := by
  unfold State.waitAbandoned
  split <;> rfl

theorem State.waitAbandoned_time (s : State) : s.waitAbandoned.time = { s.time with setTimeWait := none } := by
  unfold State.waitAbandoned
  cases none : s.time.setTimeWait with
  | none => rw [if_neg nofun, ← none]
  | some w => rfl

theorem State.waitAbandoned_link (h : s.time.setTimeWait ≠ none) : s.waitAbandoned.link.inProgress = none := by
  unfold State.waitAbandoned
  rw [if_pos (Option.isSome_iff_ne_none.2 h)]

/-! ## The gate (R70) -/

theorem all_toList_iff {α : Type} {n : Nat} (v : Vector α n) (p : α → Bool) (d : α) :
    v.toList.all p = true ↔ ∀ i, i < n → p (v.getD i d) = true := by
  simp only [List.all_eq_true, List.forall_mem_iff_getElem, Vector.length_toList, Vector.getElem_toList]
  refine forall₂_congr fun i h => ?_
  rw [getD_eq_getElem?, Vector.getElem?_eq_getElem h, Option.getD_some]

theorem State.noStrokeUnderWay_iff (s : State) : s.noStrokeUnderWay = true ↔
    ∀ b, b < 40 → (∀ k, s.stroke b ≠ .requested k) ∧ ∀ k, s.stroke b ≠ .striking k := by
  refine (all_toList_iff _ _ .outOfService).trans (forall₂_congr fun b _ => ?_)
  change (match s.stroke b with | .requested _ => false | .striking _ => false | _ => true) = true ↔ _
  cases s.stroke b <;> simp

theorem State.noImpulseUnderWay_iff (s : State) : s.noImpulseUnderWay = true ↔
    (∀ i, i < 6 → (s.dial i).impulse = none) ∧ ∀ w ∈ s.memory.writes, ∀ i, w.effect ≠ .stored (.dialSettle i) := by
  unfold State.noImpulseUnderWay
  rw [Bool.and_eq_true, all_toList_iff _ _ Dial.blank]
  refine and_congr (forall₂_congr fun i _ => Option.isNone_iff_eq_none) (List.all_eq_true.trans (forall₂_congr fun w _ => ?_))
  split
  next i effect => exact ⟨nofun, fun other => absurd effect (other i)⟩
  next other => exact ⟨fun _ => other, fun _ => rfl⟩

theorem State.gateOpens_iff (s : State) : s.gateOpens = true ↔ s.time.power = .mains ∧ s.hammers.gate = .holding ∧
    s.hammers.rstn = false ∧ (∀ b, b < 40 → (∀ k, s.stroke b ≠ .requested k) ∧ ∀ k, s.stroke b ≠ .striking k) ∧
    (∀ i, i < 6 → (s.dial i).impulse = none) ∧ ∀ w ∈ s.memory.writes, ∀ i, w.effect ≠ .stored (.dialSettle i) := by
  simp only [State.gateOpens, Bool.and_eq_true, decide_eq_true_eq, Bool.not_eq_true', s.noStrokeUnderWay_iff,
    s.noImpulseUnderWay_iff, and_assoc]

/-- R70: with no stroke under way no strike line is active. -/
theorem State.lineIsActive_of_noStroke (h : ∀ b, b < 40 → (∀ k, s.stroke b ≠ .requested k) ∧ ∀ k, s.stroke b ≠ .striking k)
    (b : Nat) : (s.stroke b).lineIsActive = false := by
  by_cases hb : b < 40
  · obtain ⟨notRequested, notStriking⟩ := h b hb
    cases e : s.stroke b with
    | requested k => exact absurd e (notRequested k)
    | striking k => exact absurd e (notStriking k)
    | idle | recovering | fault | outOfService => rfl
  · have out : s.stroke b = .outOfService := getD_of_ge_vector _ (Nat.le_of_not_lt hb) _
    rw [out]
    rfl

/-! ## The reset (R71, R187) -/

theorem State.restartReset_eq (s : State) : ∃ u, s.ResetTaken u false true ∧
    s.restartReset = u.standingKept.reconcileDials.resume u.standingKept.mixer.standing := by
  refine ⟨_, State.takeResetValues_taken s false true, ?_⟩
  rw [← State.settleStanding_eq]
  rfl

/-- R187, R185: no request is left, and what the blocks do after the reset raises conditions alone. -/
theorem State.restartReset_link (s : State) : s.restartReset.link.inProgress = none ∧ s.restartReset.link.waiting = none := by
  obtain ⟨u, taken, eq⟩ := s.restartReset_eq
  have raised : LinkRaised u.standingKept s.restartReset := by
    rw [eq]
    exact (State.resume_raised _ _).after (.of_link (State.reconcileDials_link _))
  have link := u.standingKept_link.trans taken.link
  exact ⟨raised.inProgress.trans (congrArg Link.inProgress link), raised.waiting.trans (congrArg Link.waiting link)⟩

theorem State.elapse_gateOpens (s : State) (dt : Nat) : (s.elapse dt).gateOpens = s.gateOpens := rfl

theorem State.restartIfOpen_open (h : s.gateOpens = true) : s.restartIfOpen = s.restartReset := if_pos h

theorem State.restartIfOpen_shut (h : s.gateOpens = false) : s.restartIfOpen = s := if_neg (Bool.eq_false_iff.1 h)

/-! ## The commands -/

theorem exec_rstnAsserted (dt : Nat) (s : State) : exec (.rstnAsserted dt) s = .next (s.elapse dt).assertRstn := rfl

theorem exec_restartReset (dt : Nat) (s : State) : exec (.restartReset dt) s = .next (s.elapse dt).restartIfOpen := rfl

theorem exec_restart (ready : s.HostReady) (dt : Nat) :
    exec (.restart dt) s = .next ((s.elapse dt).working .restart).requestRestart := happen_hostRequest ready dt .restart

/-- Settles O17: the two requests of a RESTART, the release of RSTN, and the reset where the gate opens. -/
theorem restartWaitsForTheGate : Obligations.RestartWaitsForTheGate := by
  unfold Obligations.RestartWaitsForTheGate
  intro s dt e withdrawn
  have opened {u t : State} (strokes : u.hammers.strokes = s.hammers.strokes) (h : u.HoldOpened t) : withdrawn t := by
    refine ⟨h.gate, fun b hb => (h.strokes b hb).trans ?_⟩
    have same : u.stroke b = s.stroke b := congrArg (fun v => v.getD b .outOfService) strokes
    rw [same]
    cases stroke : s.stroke b <;> rfl
  have gate : e.gateOpens = s.gateOpens := s.elapse_gateOpens dt
  have opens (h : s.gateOpens = true) : exec (.restartReset dt) s = .next e.restartReset :=
    (exec_restartReset dt s).trans (congrArg _ (State.restartIfOpen_open (gate.trans h)))
  refine ⟨fun mains closed => ?asserted, fun reserve => congrArg _ (if_neg ?unasked), fun ready => ?restart, rfl, fun h => ?reset,
    fun h => ?taken, fun h => congrArg _ (State.restartIfOpen_shut (gate.trans h)), s.gateOpens_iff⟩
  case unasked => exact State.not_inMains (s := e) reserve
  case asserted =>
    let u : State := State.waitAbandoned { e with hammers.rstn := true }
    have hammers : u.hammers = { e.hammers with rstn := true } := State.waitAbandoned_hammers _
    have hold : u.HoldOpened u.requestRestart := State.requestRestart_opens (by rw [hammers]; exact closed)
    have asserts : exec (.rstnAsserted dt) s = .next u.requestRestart :=
      (exec_rstnAsserted dt s).trans (congrArg _ (State.assertRstn_mains (s := e) mains))
    have abandoned (waits : s.time.setTimeWait ≠ none) : u.requestRestart.link.inProgress = none :=
      (congrArg Link.inProgress hold.link).trans (State.waitAbandoned_link (s := { e with hammers.rstn := true }) waits)
    exact ⟨_, asserts, opened ((congrArg HammerDrive.strokes hammers).trans rfl) hold,
      hold.rstn.trans (congrArg HammerDrive.rstn hammers), hold.time.trans (State.waitAbandoned_time _), abandoned⟩
  case restart =>
    have hold := State.requestRestart_opens (s := e.working .restart) ready.gateClosed
    exact ⟨_, exec_restart ready dt, opened (u := e.working .restart) rfl hold, hold.time, congrArg Link.inProgress hold.link⟩
  case reset =>
    obtain ⟨-, -, -, strokes, -, -⟩ := s.gateOpens_iff.1 h
    have quiet := e.restartReset_quiet (r := true)
    obtain ⟨noRequest, noResponse⟩ := e.restartReset_link
    refine ⟨_, opens h, quiet.time, quiet.clock, quiet.gate, fun b => ?_, noRequest, noResponse⟩
    refine Bool.eq_false_iff.2 fun active => ?_
    exact Bool.eq_false_iff.1 (State.lineIsActive_of_noStroke strokes b) (quiet.strokes rfl b active)
  case taken =>
    obtain ⟨u, taken, eq⟩ := e.restartReset_eq
    exact ⟨u, taken, (opens h).trans (congrArg _ eq)⟩

end Sys2Proof.Machine
end

section
/-! Pins and the input filter (R40, R42). -/

namespace Sys2Proof.Machine

variable {s : State} {i dt : Nat}

theorem State.setLine_setLine (s : State) (i : Nat) (x y : Line) : (s.setLine i x).setLine i y = s.setLine i y :=
  congrArg (fun v => { s with lines := v }) (Vector.setIfInBounds_setIfInBounds x)

/-- R1: the prescaler has stopped at the second's length already, so that no further count passes in no time. -/
theorem State.elapse_setLine_elapse (s : State) (dt i : Nat) (x : Line) :
    ((s.elapse dt).setLine i x).elapse 0 = (s.elapse dt).setLine i x := by
  have stays : min s.time.secondLength (min s.time.secondLength (s.time.prescaler + dt) + 0)
      = min s.time.secondLength (s.time.prescaler + dt) := by omega
  exact congrArg (fun n => { (s.elapse dt).setLine i x with time.prescaler := n }) stays

/-- R40: an input of a part in MAINS is ready when its level is a new one that has stood for the filter time. -/
theorem State.filterReady_iff (s : State) (i : Nat) : s.filterReady i = true ↔ s.time.power = .mains ∧
    isInput (s.line i).record.function = true ∧ (s.line i).shown ≠ (s.line i).filtered ∧
    ∃ m, (s.line i).changing = some m ∧ m + (s.line i).record.filter ≤ s.nowMs := by
  simp only [State.filterReady, Bool.and_eq_true, decide_eq_true_eq, bne_iff_ne, Option.any_eq_true, and_assoc]

/-! ## The level of a pin (R40) -/

section
variable {high : Bool} {reading : Nat}

theorem State.changePin_unread (h : s.time.power = .reserve ∨ isInput (s.line i).record.function = false) :
    s.changePin i high reading = s.setLine i { s.line i with pinHigh := high, analog := reading } := by
  refine if_neg fun ⟨mains, input⟩ => ?_
  rcases h with reserve | output
  · exact State.not_inMains reserve mains
  · exact Bool.false_ne_true (output.symm.trans input)

variable (mains : s.time.power = .mains) (input : isInput (s.line i).record.function = true)
include mains input

theorem State.changePin_filtered (same : (high == (s.line i).record.activeHigh) = (s.line i).filtered) :
    s.changePin i high reading = s.setLine i { s.line i with pinHigh := high, analog := reading, changing := none } :=
  (if_pos ⟨mains, input⟩).trans (if_pos same)

variable (new : (high == (s.line i).record.activeHigh) ≠ (s.line i).filtered)
include new

theorem State.changePin_atOnce (unfiltered : (s.line i).record.filter = 0) :
    s.changePin i high reading = (s.setLine i { s.line i with pinHigh := high, analog := reading }).takeEdge i :=
  (if_pos ⟨mains, input⟩).trans ((if_neg new).trans (if_pos unfiltered))

theorem State.changePin_held (filter : (s.line i).record.filter ≠ 0) (level : high = (s.line i).pinHigh) :
    s.changePin i high reading = s.setLine i { s.line i with pinHigh := high, analog := reading } :=
  (if_pos ⟨mains, input⟩).trans ((if_neg new).trans ((if_neg filter).trans (if_pos level)))

theorem State.changePin_started (filter : (s.line i).record.filter ≠ 0) (level : high ≠ (s.line i).pinHigh) :
    s.changePin i high reading
      = s.setLine i { s.line i with pinHigh := high, analog := reading, changing := some s.nowMs } :=
  (if_pos ⟨mains, input⟩).trans ((if_neg new).trans ((if_neg filter).trans (if_neg level)))

end

/-- The moment the pin began to change does not matter to the edge. -/
theorem State.takeEdge_changing (hi : i < 64) (s : State) (l : Line) (m : Option Nat) :
    (s.setLine i { l with changing := m }).takeEdge i = (s.setLine i l).takeEdge i := by
  unfold State.takeEdge
  simp only [State.line_setLine_same _ i _ hi, State.setLine_setLine]
  rfl

theorem State.onEdge_unused {r : LineRecord} (f : r.function = .unused) (s : State) (active : Bool) : s.onEdge r active = s := by
  unfold State.onEdge
  rw [f]

/-! ## The commands -/

section
variable (hi : i < 64)
include hi

theorem exec_pinLevelChange (high : Bool) (reading : Nat) :
    exec (.pinLevelChange dt i high reading) s = .next ((s.elapse dt).changePin i high reading) := if_pos hi

theorem exec_inputFilterExpiry_ready (ready : (s.elapse dt).filterReady i = true) :
    exec (.inputFilterExpiry dt i) s = .next ((s.elapse dt).takeEdge i) :=
  (if_pos hi).trans (congrArg Host.Outcome.next (if_pos ready))

theorem exec_inputFilterExpiry_early (early : ¬(s.elapse dt).filterReady i = true) :
    exec (.inputFilterExpiry dt i) s = .next (s.elapse dt) :=
  (if_pos hi).trans (congrArg Host.Outcome.next (if_neg early))

end

/-- Settles O22: the branches of a pin's change, and the expiry before and after the filter time has run. -/
theorem pinLevelsPassTheFilter : Obligations.PinLevelsPassTheFilter := by
  unfold Obligations.PinLevelsPassTheFilter
  intro s dt i reading high hi e l l'
  have changes {t : State} (h : e.changePin i high reading = t) : exec (.pinLevelChange dt i high reading) s = .next t :=
    (exec_pinLevelChange hi high reading).trans (congrArg _ h)
  refine ⟨fun unread => ⟨changes (State.changePin_unread unread), exec_inputFilterExpiry_early hi fun ready => ?unread⟩,
    fun mains input => ⟨fun same => changes (State.changePin_filtered mains input same), fun new filter =>
      ⟨fun level => changes (State.changePin_started mains input new filter level),
        fun level => changes (State.changePin_held mains input new filter level)⟩, fun new unfiltered => ?atOnce,
      fun m began early => exec_inputFilterExpiry_early hi fun ready => ?early, fun m began run new settled unused => ?unused⟩⟩
  case unread =>
    obtain ⟨mains, input, -⟩ := (e.filterReady_iff i).1 ready
    rcases unread with reserve | output
    · exact State.not_inMains reserve mains
    · exact Bool.false_ne_true (output.symm.trans input)
  case atOnce =>
    let u := e.setLine i { l' with changing := some e.nowMs }
    have same : u.elapse 0 = u := s.elapse_setLine_elapse dt i _
    have line : u.line i = { l' with changing := some e.nowMs } := State.line_setLine_same _ i _ hi
    have ready : (u.elapse 0).filterReady i = true := by
      rw [same, u.filterReady_iff, line]
      exact ⟨mains, input, new, _, rfl, (congrArg (e.nowMs + ·) unfiltered).le⟩
    rw [exec_inputFilterExpiry_ready hi ready, same]
    have taken : e.changePin i high reading = (e.setLine i l').takeEdge i := State.changePin_atOnce mains input new unfiltered
    exact changes (taken.trans (State.takeEdge_changing hi e l' (some e.nowMs)).symm)
  case early =>
    obtain ⟨-, -, -, n, began', run⟩ := (e.filterReady_iff i).1 ready
    have : n = m := Option.some.inj (began'.symm.trans began)
    subst this
    exact absurd run (Nat.not_le.2 early)
  case unused =>
    have ready : e.filterReady i = true := (e.filterReady_iff i).2 ⟨mains, input, new, m, began, run⟩
    exact exec_inputFilterExpiry hi ready settled (State.onEdge_unused unused _ _) rfl

end Sys2Proof.Machine
end

section
/-! How a swinging bell comes to rest (R48, R49, R50), and the end of the motor run of one that enters UP (R56). -/

namespace Sys2Proof.Machine

variable {s : State} {b dt : Nat}

/-! ## The sources of a run (section 3.5) -/

/-- A motor is PENDING or RUNNING for the sources given. -/
theorem MotorRun.asked_iff {m : MotorRun} {sources : List MotorSource} :
    ((∃ length since isAdmitted, m = .pending length since isAdmitted sources) ∨
      (∃ energised endAt satisfied, m = .running energised endAt satisfied sources)) ↔ m ≠ .off ∧ m.sources = sources := by
  cases m <;> simp [MotorRun.sources]

theorem State.endRun_asked {sources : List MotorSource} (h : (s.bell b).motor ≠ .off ∧ (s.bell b).motor.sources = sources)
    (r : MotorReport) : s.endRun b r = s.runEnded b sources r :=
  h.2 ▸ State.endRun_eq s b r h.1

/-! ## The quiet timer (R48) -/

theorem State.contactOpen_iff (s : State) (b : Nat) : (s.hasLine .restSense b && !s.lineActive .restSense b) = true ↔
    s.hasLine .restSense b = true ∧ s.lineActive .restSense b = false := by
  rw [Bool.and_eq_true, Bool.not_eq_true']

section
variable {q : Nat} (timer : (s.bell b).quietUntil = some q)
include timer

theorem State.expireQuiet_eq : s.expireQuiet b =
    if (s.bell b).swing = .swinging ∧ q ≤ s.nowMs then
      if s.hasLine .restSense b && !s.lineActive .restSense b then
        (s.setBell b { s.bell b with swing := .up, quietUntil := none }).endRun b .up
      else s.setBell b { s.bell b with swing := .settling, quietUntil := none }
    else s := by
  unfold State.expireQuiet
  dsimp only
  rw [timer]

theorem State.expireQuiet_early (h : (s.bell b).swing ≠ .swinging ∨ s.nowMs < q) : s.expireQuiet b = s :=
  (State.expireQuiet_eq timer).trans (if_neg fun ⟨swings, due⟩ => h.elim (· swings) (Nat.not_lt.2 due))

variable (swings : (s.bell b).swing = .swinging) (due : q ≤ s.nowMs)
include swings due

theorem State.expireQuiet_up (bound : s.hasLine .restSense b = true) (isOpen : s.lineActive .restSense b = false) :
    s.expireQuiet b = (s.setBell b { s.bell b with swing := .up, quietUntil := none }).endRun b .up :=
  (State.expireQuiet_eq timer).trans ((if_pos ⟨swings, due⟩).trans (if_pos ((s.contactOpen_iff b).2 ⟨bound, isOpen⟩)))

theorem State.expireQuiet_settles (h : s.hasLine .restSense b = false ∨ s.lineActive .restSense b = true) :
    s.expireQuiet b = s.setBell b { s.bell b with swing := .settling, quietUntil := none } := by
  refine (State.expireQuiet_eq timer).trans ((if_pos ⟨swings, due⟩).trans (if_neg fun rises => ?_))
  obtain ⟨bound, isOpen⟩ := (s.contactOpen_iff b).1 rises
  rcases h with unbound | closed
  · exact Bool.false_ne_true (unbound.symm.trans bound)
  · exact Bool.false_ne_true (isOpen.symm.trans closed)

end

/-! ## The settle test (R49, R50) -/

/-- R49: the rest contact of a bell that has one has been closed for the settle time. -/
def State.Rested (s : State) (b m : Nat) : Prop :=
  s.hasLine .restSense b = false ∨ ∃ c, (s.bell b).restClosedSince = some c ∧ c + (s.bell b).config.settle * 1000 ≤ m

theorem State.settleTest_iff (served : (s.bell b).config.inService = true) (sensor : (s.bell b).config.sensorMode ≠ .none) (m : Nat) :
    s.settleTest b m = true ↔
      (((s.bell b).swing = .settling ∧ ∀ p, (s.bell b).lastPulse = some p → p + (s.bell b).config.settle * 1000 ≤ m) ∨
        ((s.bell b).swing = .unknown ∧ (s.bell b).entered + (s.bell b).config.settle * 1000 ≤ m)) ∧ s.Rested b m := by
  have rest : (!s.hasLine .restSense b || (s.bell b).restClosedSince.any fun r => settled r (s.bell b).config.settle m) = true ↔
      s.Rested b m := by
    simp only [State.Rested, settled, Bool.or_eq_true, Bool.not_eq_true', Option.any_eq_true, decide_eq_true_eq]
  unfold State.settleTest
  dsimp only
  rw [Bool.and_eq_true, rest, served, Bool.true_and, bne_iff_ne.2 sensor, Bool.true_and]
  refine and_congr_left' ?_
  cases (s.bell b).swing <;> simp [settled, Option.all_eq_true]

theorem State.settleBell_rests (second : s.atSecond) (test : s.settleTest b s.nowMs = true) :
    s.settleBell b = s.setBell b { s.bell b with swing := .atRest } := if_pos ⟨second, test⟩

theorem State.settleBell_stays (h : ¬(s.atSecond ∧ s.settleTest b s.nowMs = true)) : s.settleBell b = s := if_neg h

/-! ## The commands -/

section
variable (hb : b < 40) (mains : s.time.power = .mains)
include hb mains

theorem exec_quietTimerExpiry : exec (.quietTimerExpiry dt b) s = .next ((s.elapse dt).expireQuiet b).settleContexts :=
  happenAt_mains dt hb mains

theorem exec_settleTimeExpiry : exec (.settleTimeExpiry dt b) s = .next ((s.elapse dt).settleBell b) := happenAt_mains dt hb mains

end

/-- Settles O24: the quiet timer expires into UP or SETTLING, and the settle test is made at a SECOND. -/
theorem swingingBellsComeToRest : Obligations.SwingingBellsComeToRest := by
  unfold Obligations.SwingingBellsComeToRest
  intro s dt b hb mains e x
  have rests {t : State} (h : e.settleBell b = t) : exec (.settleTimeExpiry dt b) s = .next t :=
    (exec_settleTimeExpiry hb mains).trans (congrArg _ h)
  have still {t : State} (settled : s.Settled) (calendar : t.calendar = s.calendar) (h : e.expireQuiet b = t) :
      exec (.quietTimerExpiry dt b) s = .next t := by
    rw [exec_quietTimerExpiry hb mains, h, State.settleContexts_of_calendar settled calendar]
  refine ⟨fun q settled timer => ⟨fun swings due => ?quiet, fun early => still settled rfl (State.expireQuiet_early timer early)⟩,
    fun between => rests (State.settleBell_stays fun ⟨second, _⟩ => between second), fun second served sensor => ?settle⟩
  case quiet =>
    let u := e.setBell b { x with swing := .up, quietUntil := none }
    have up : u.bell b = { x with swing := .up, quietUntil := none } := State.bell_setBell_same e b _ hb
    refine ⟨fun bound isOpen off => ?_, fun sources bound isOpen asked => ?_, fun h =>
      still settled rfl (State.expireQuiet_settles (s := e) timer swings due h)⟩
    · have off' : (u.bell b).motor = .off := (congrArg Bell.motor up :).trans off
      exact still settled rfl ((State.expireQuiet_up (s := e) timer swings due bound isOpen).trans (State.endRun_off off' .up))
    · have asked' : (u.bell b).motor ≠ .off ∧ (u.bell b).motor.sources = sources := by
        rw [up]
        exact MotorRun.asked_iff.1 asked
      rw [exec_quietTimerExpiry hb mains, State.expireQuiet_up (s := e) timer swings due bound isOpen]
      exact congrArg (fun t : State => Host.Outcome.next t.settleContexts) (State.endRun_asked asked' .up)
  case settle =>
    intro m rested
    have test := State.settleTest_iff (s := e) served sensor m
    refine ⟨fun settling pulse rest => rests (State.settleBell_rests second (test.2 ⟨.inl ⟨settling, pulse⟩, rest⟩)),
      fun unknown entered rest => rests (State.settleBell_rests second (test.2 ⟨.inr ⟨unknown, entered⟩, rest⟩)), fun fails =>
      rests (State.settleBell_stays fun ⟨_, passes⟩ => ?_)⟩
    obtain ⟨⟨settling, pulses⟩ | ⟨unknown, entered⟩, rest⟩ := test.1 passes
    · rcases fails with ⟨neither, -⟩ | unrested | ⟨-, p, pulse, soon⟩ | ⟨unknown, -⟩
      · exact neither settling
      · exact unrested rest
      · exact Nat.not_le.2 soon (pulses p pulse)
      · exact nomatch settling.symm.trans unknown
    · rcases fails with ⟨-, neither⟩ | unrested | ⟨settling, -⟩ | ⟨-, soon⟩
      · exact neither unknown
      · exact unrested rest
      · exact nomatch settling.symm.trans unknown
      · exact Nat.not_le.2 soon entered

end Sys2Proof.Machine
end

section
/-! SWING (R51, R52): what refuses it, and the run that it starts or extends. -/

namespace Sys2Proof.Machine

variable {s : State} {b rating minutes : Nat}

/-! ## An ask (R171, R172) -/

theorem State.admissionCapacity_free (noWrite : s.memory.writes = []) (notTaken : s.link.takenCapacity = none) :
    s.admissionCapacity = s.feeder.capacity := by
  unfold State.admissionCapacity
  rw [noWrite, notTaken]
  rfl

theorem State.withoutAsks (h : s.feeder.asks = []) : { s with feeder.asks := [] } = s := by rw [← h]

/-- R171, R172: an ask that stands behind others, or that the load leaves no room for, waits at the end of the list. -/
theorem State.ask_waits (h : s.feeder.asks ≠ [] ∨ s.admissionCapacity < s.feeder.load + rating) :
    s.ask b rating = { s with feeder.asks := s.feeder.asks ++ [{ bell := b, rating := rating, since := s.nowMs }] } := by
  unfold State.ask
  by_cases empty : s.feeder.asks = []
  · have full := h.resolve_left (not_not_intro empty)
    simp only [empty, List.isEmpty_nil, if_true, List.nil_append]
    exact if_neg (Nat.not_le.2 full)
  · exact if_neg (by rwa [List.isEmpty_iff])

/-- R172: an ask that joins an empty list is admitted at once where the load leaves room. -/
theorem State.ask_admitted (empty : s.feeder.asks = []) (room : s.feeder.load + rating ≤ s.admissionCapacity) :
    s.ask b rating = State.setBell { s with
      feeder.admitted := s.feeder.admitted ++ [{ bell := b, rating := rating, awaiting := none, permitted := false }] } b
        { s.bell b with motor := (s.bell b).motor.markAdmitted } := by
  let a : Ask := { bell := b, rating := rating, since := s.nowMs }
  have tried : s.ask b rating = admitHeads [a] { s with feeder.asks := [a] } := by
    unfold State.ask
    simp only [empty, List.isEmpty_nil, if_true, List.nil_append]
    rfl
  have admitted : s.ask b rating = { State.admitAsk s a with feeder.asks := [] } := tried.trans (if_pos room)
  rw [admitted]
  exact State.withoutAsks (s := s.admitAsk a) empty

/-! ## A swing request (R51, R52) -/

/-- R51: nothing in R51's table refuses a swing request of the bell. -/
structure Bell.Swings (x : Bell) : Prop where
  served : x.config.inService = true
  motor : x.config.motorRating ≠ 0
  motorServed : x.config.motorInService = true
  unlocked : x.swing ≠ .locked
  down : x.swing ≠ .up

section
variable (served : (s.bell b).config.inService = true)

theorem State.swingRefusal_notInService (out : (s.bell b).config.inService = false) : s.swingRefusal b = some .notInService := by
  simp [State.swingRefusal, out]

include served

theorem State.swingRefusal_noMotor (unrated : (s.bell b).config.motorRating = 0) : s.swingRefusal b = some .noMotor := by
  simp [State.swingRefusal, served, unrated]

variable (rated : (s.bell b).config.motorRating ≠ 0)
include rated

theorem State.swingRefusal_motorOutOfService (out : (s.bell b).config.motorInService = false) :
    s.swingRefusal b = some .motorOutOfService := by
  simp [State.swingRefusal, served, rated, out]

variable (motorServed : (s.bell b).config.motorInService = true)
include motorServed

theorem State.swingRefusal_locked (locked : (s.bell b).swing = .locked) : s.swingRefusal b = some .locked := by
  simp [State.swingRefusal, served, rated, motorServed, locked]

theorem State.swingRefusal_up (up : (s.bell b).swing = .up) : s.swingRefusal b = some .up := by
  simp [State.swingRefusal, served, rated, motorServed, up]

end

theorem State.swingRefusal_none (h : (s.bell b).Swings) : s.swingRefusal b = none := by
  simp [State.swingRefusal, h.served, h.motor, h.motorServed, h.unlocked, h.down]

/-- R52: an accepted request begins a PENDING run and asks for its load. -/
theorem State.acceptSwing_off (off : (s.bell b).motor = .off) (x : MotorSource) : s.acceptSwing b minutes x =
    (s.setBell b { s.bell b with motor := .pending (min 30 minutes) s.nowMs false [x] }).ask b (s.bell b).config.motorRating := by
  unfold State.acceptSwing
  dsimp only
  rw [off]
  rfl

theorem State.acceptSwing_pending {old since : Nat} {isAdmitted : Bool} {sources : List MotorSource}
    (pending : (s.bell b).motor = .pending old since isAdmitted sources) (x : MotorSource) : s.acceptSwing b minutes x =
      s.setBell b { s.bell b with motor := .pending (max old (min 30 minutes)) since isAdmitted (addSource sources x) } := by
  unfold State.acceptSwing
  dsimp only
  rw [pending]
  rfl

/-- R52: COMMAND has no report of the start of a run that it extends. -/
theorem State.acceptSwing_running {energised endAt : Nat} {satisfied : Bool} {sources : List MotorSource}
    (running : (s.bell b).motor = .running energised endAt satisfied sources) : s.acceptSwing b minutes .command =
      s.setBell b { s.bell b with
        motor := .running energised (max endAt (s.nowMs + min 30 minutes * 60000)) satisfied (addSource sources .command) } := by
  unfold State.acceptSwing
  dsimp only
  rw [running]
  exact ite_self _

section
variable (hb : b < 40) (low : 1 ≤ minutes)
include hb low

theorem State.workSwing_refused {r : Reason} (h : s.swingRefusal b = some r) :
    s.workSwing b minutes = s.answer (reply .wrongState b 0 (u8 (swingReasonCode r))) := by
  unfold State.workSwing
  rw [if_pos ⟨hb, low⟩, h]

theorem State.workSwing_accepted (h : (s.bell b).Swings) : s.workSwing b minutes =
    (s.acceptSwing b minutes .command).answer
      (reply .done b 0 (u8 (motorCode ((s.acceptSwing b minutes .command).bell b).motor))) := by
  unfold State.workSwing
  rw [if_pos ⟨hb, low⟩, State.swingRefusal_none h]

end

theorem State.workSwing_badField (h : 40 ≤ b ∨ minutes = 0) : s.workSwing b minutes = s.badField b :=
  if_neg fun ⟨hb, low⟩ => h.elim (Nat.not_le.2 hb) (Nat.one_le_iff_ne_zero.1 low)

theorem exec_swing (ready : s.HostReady) (dt : Nat) :
    exec (.swing dt b minutes) s = .next (((s.elapse dt).working (.swing b minutes)).workSwing b minutes) :=
  happen_hostRequest ready dt (.swing b minutes)

/-- Settles O25: the reasons of R51 in their order, then the run that is begun, admitted or asking, or extended. -/
theorem swingStartsOrExtendsOneRun : Obligations.SwingStartsOrExtendsOneRun := by
  unfold Obligations.SwingStartsOrExtendsOneRun
  intro s dt b minutes ready e w x refused done length
  have works {t : State} (h : w.workSwing b minutes = t) : exec (.swing dt b minutes) s = .next t :=
    (exec_swing ready dt).trans (congrArg _ h)
  refine ⟨fun bad => works (State.workSwing_badField bad), fun hb low => ?_⟩
  have refuses {r : Reason} (h : w.swingRefusal b = some r) : refused (swingReasonCode r) := works (State.workSwing_refused hb low h)
  refine ⟨fun out => refuses (State.swingRefusal_notInService (s := w) out),
    fun served unrated => refuses (State.swingRefusal_noMotor (s := w) served unrated),
    fun served rated out => refuses (State.swingRefusal_motorOutOfService (s := w) served rated out),
    fun served rated motorServed => ⟨fun locked => refuses (State.swingRefusal_locked (s := w) served rated motorServed locked),
      fun up => refuses (State.swingRefusal_up (s := w) served rated motorServed up), fun unlocked down => ?accepted⟩⟩
  case accepted =>
    have swings : (w.bell b).Swings := ⟨served, rated, motorServed, unlocked, down⟩
    have accepts {t : State} {m : MotorRun} (h : w.acceptSwing b minutes .command = t) (motor : (t.bell b).motor = m) :
        done t (motorCode m) := by
      have worked := State.workSwing_accepted hb low swings
      rw [h, motor] at worked
      exact works worked
    have put (t : State) (y : Bell) : ((t.setBell b y).bell b).motor = y.motor :=
      congrArg Bell.motor (State.bell_setBell_same t b y hb)
    let u := w.setBell b { x with motor := .pending length e.nowMs false [.command] }
    have capacity : u.admissionCapacity = s.feeder.capacity := State.admissionCapacity_free (s := u) ready.noWrite rfl
    refine ⟨fun off empty room => ?_, fun off full => ?_,
      fun old since isAdmitted sources pending => accepts (State.acceptSwing_pending (s := w) pending _) (put _ _),
      fun energised endAt satisfied sources running => accepts (State.acceptSwing_running (s := w) running) (put _ _)⟩
    · have admitted := State.ask_admitted (s := u) (b := b) (rating := x.config.motorRating) empty (capacity ▸ room)
      have bell : u.bell b = { x with motor := .pending length e.nowMs false [.command] } := State.bell_setBell_same w b _ hb
      refine accepts (m := .pending length e.nowMs true [.command])
        (((State.acceptSwing_off (s := w) off _).trans admitted).trans ?_) ?_
      · rw [bell]
        exact State.setBell_setBell { w with feeder.admitted := s.feeder.admitted
          ++ [{ bell := b, rating := x.config.motorRating, awaiting := none, permitted := false }] } b _ _
      · exact put w _
    · have waits := State.ask_waits (s := u) (b := b) (rating := x.config.motorRating) (capacity ▸ full)
      exact accepts ((State.acceptSwing_off (s := w) off _).trans waits) (put w _)

end Sys2Proof.Machine
end

section
/-! What a final report to an action changes in the calendar (R135), and what the settling of contexts leaves as it was while no
occasion waits for one (R129, R136). -/

namespace Sys2Proof.Machine

variable {s t u : State} {h g : Handle} {o : Occasion} {k j : Nat} {c : Context} {x : Outcome}

/-! ## Occasions named by a handle (R73) -/

theorem State.findOccasion_named (found : s.findOccasion h = some o) :
    h.slot < Config.occasions ∧ h.gen = (s.occasionSlot h.slot).gen ∧ (s.occasionSlot h.slot).record = some o := by
  obtain ⟨gen, record⟩ := Slot.named_some found
  refine ⟨Nat.lt_of_not_le fun outside => ?_, gen, record⟩
  have blank : s.occasionSlot h.slot = ⟨0, none⟩ := getD_of_ge_vector _ outside _
  rw [blank] at record
  cases record

theorem State.findOccasion_of_slot (same : t.occasionSlot h.slot = s.occasionSlot h.slot) : t.findOccasion h = s.findOccasion h := by
  rw [State.findOccasion, same, State.findOccasion]

/-- A handle of the same slot as one that names an occasion names it too, or nothing. -/
theorem State.findOccasion_sameSlot (found : s.findOccasion g = some o) (slot : h.slot = g.slot) (other : h ≠ g) :
    h.gen ≠ (s.occasionSlot h.slot).gen := fun gen => other <| by
  have gen' := (State.findOccasion_named found).2.1
  rw [slot, ← gen'] at gen
  cases h
  cases g
  cases slot
  cases gen
  rfl

theorem State.findOccasion_putOccasion (found : s.findOccasion g = some o) (y : Occasion) (h : Handle) :
    (s.putOccasion g.slot y).findOccasion h = if h = g then some y else s.findOccasion h := by
  obtain ⟨lt, gen, -⟩ := State.findOccasion_named found
  by_cases same : h = g
  · rw [if_pos same, same, State.findOccasion, State.putOccasion_occasionSlot s _ y lt]
    exact if_pos gen
  · rw [if_neg same]
    by_cases slot : h.slot = g.slot
    · have stale := State.findOccasion_sameSlot found slot same
      rw [State.findOccasion, slot, State.putOccasion_occasionSlot s _ y lt, State.findOccasion, ← slot]
      exact (if_neg stale).trans (if_neg stale).symm
    · exact State.findOccasion_of_slot (s.putOccasion_other y (Ne.symm slot))

theorem State.putOccasion_frame (s : State) (i : Nat) (o : Occasion) :
    s.putOccasion i o = { s with calendar := (s.putOccasion i o).calendar, memory := (s.putOccasion i o).memory } := by
  unfold State.putOccasion
  split <;> rfl

/-! ## A final report to an action (R135) -/

theorem State.context_lt (stands : s.context k = some c) : k < 8 := Nat.lt_of_not_le fun outside => by
  have blank : s.context k = none := getD_of_ge_vector _ outside _
  rw [blank] at stands
  cases stands

theorem State.setOutcome_context (s : State) (k j : Nat) (x : Outcome) (m : Nat) : (s.setOutcome k j x).context m = s.context m := by
  cases stands : s.context k with
  | none => rw [State.setOutcome, stands]
  | some c => rw [State.setOutcome_eq stands, State.outcomeTold_context]

theorem State.raiseIf_calendar (s : State) (b : Bool) (c : Condition) : (s.raiseIf b c).calendar = s.calendar := by
  unfold State.raiseIf
  split <;> rfl

theorem State.findOccasion_of_calendar (same : t.calendar = s.calendar) (h : Handle) : t.findOccasion h = s.findOccasion h := by
  simp only [State.findOccasion, State.occasionSlot, same]

theorem State.context_of_calendar (same : t.calendar = s.calendar) (k : Nat) : t.context k = s.context k := by
  simp only [State.context, same]

theorem State.findOccasion_setPhase (s : State) (k j : Nat) (p : ActionPhase) (h : Handle) :
    (s.setPhase k j p).findOccasion h = s.findOccasion h := by
  unfold State.setPhase
  split
  · rfl
  · split <;> rfl

/-- R135: the entry is set in the record of the context's occasion and in no other. -/
theorem State.findOccasion_setOutcome (stands : s.context k = some c) (found : s.findOccasion c.occasion = some o) (j : Nat)
    (x : Outcome) (h : Handle) : (s.setOutcome k j x).findOccasion h
      = if h = c.occasion then some { o with outcome := o.outcome.set j x } else s.findOccasion h := by
  unfold State.setOutcome
  simp only [stands, found]
  rw [State.findOccasion_of_calendar (State.raiseIf_calendar _ _ _), State.findOccasion_putOccasion found]

theorem State.findOccasion_finishAction (stands : s.context k = some c) (found : s.findOccasion c.occasion = some o) (j : Nat)
    (x : Outcome) (h : Handle) : (s.finishAction k j x).findOccasion h
      = if h = c.occasion then some { o with outcome := o.outcome.set j x } else s.findOccasion h :=
  (State.findOccasion_setPhase _ _ _ _ _).trans (State.findOccasion_setOutcome stands found j x h)

/-- R135: the action is DONE in its context, and no other context is touched. -/
theorem State.context_finishAction {a : ContextAction} (stands : s.context k = some c) (action : c.actions[j]? = some a) (x : Outcome)
    (m : Nat) : (s.finishAction k j x).context m
      = if k = m then some { c with actions := c.actions.set j { a with phase := .done } } else s.context m := by
  have stands' : (s.setOutcome k j x).context k = some c := (s.setOutcome_context k j x k).trans stands
  unfold State.finishAction State.setPhase
  simp only [stands', action]
  rw [State.context_setContext, s.setOutcome_context]
  exact if_congr (and_iff_left (State.context_lt stands)) rfl rfl

/-- R135: a report that the outcome reads REFUSED or SKIPPED for raises OCCASION OUTCOME. -/
theorem State.finishAction_flags (stands : s.context k = some c) (found : s.findOccasion c.occasion = some o) (j : Nat)
    (raised : x.kind = .refused ∨ x.kind = .skipped) :
    (s.finishAction k j x).link.flags.getLsbD 5 = true ∧ (s.finishAction k j x).link.fresh.getLsbD 5 = true := by
  have phase (u : State) : (u.setPhase k j .done).link = u.link := by
    unfold State.setPhase
    split
    · rfl
    · split <;> rfl
  have outcome : s.setOutcome k j x
      = (s.putOccasion c.occasion.slot { o with outcome := o.outcome.set j x }).raise .occasionOutcome := by
    unfold State.setOutcome
    simp only [stands, found]
    exact if_pos (by simpa [Outcome.isRaised] using raised)
  rw [State.finishAction, phase, outcome]
  simp only [State.raise_flags, State.raise_fresh, BitVec.getLsbD_or, Bool.or_eq_true]
  exact ⟨.inr (by decide), .inr (by decide)⟩

/-- What reports that all give one outcome can do to contexts and occasions: each context keeps its occasion, and each occasion its
record but for entries that now read that outcome. -/
structure Told (x : Outcome) (s t : State) : Prop where
  contexts : ∀ k, (t.context k).map (·.occasion) = (s.context k).map (·.occasion)
  occasions : ∀ (h : Handle) (o : Occasion), s.findOccasion h = some o → ∃ z : Occasion,
    t.findOccasion h = some z ∧ z.state = o.state ∧ z.outcome.length = o.outcome.length ∧
      ∀ j : Nat, z.outcome[j]? = o.outcome[j]? ∨ z.outcome[j]? = some x

namespace Told

theorem of_calendar (same : t.calendar = s.calendar) : Told x s t :=
  ⟨fun k => by rw [State.context_of_calendar same], fun h o found =>
    ⟨o, (State.findOccasion_of_calendar same h).trans found, rfl, rfl, fun _ => .inl rfl⟩⟩

theorem refl (x : Outcome) (s : State) : Told x s s := of_calendar rfl

theorem trans (a : Told x s t) (b : Told x t u) : Told x s u := by
  refine ⟨fun k => (b.contexts k).trans (a.contexts k), fun h o found => ?_⟩
  obtain ⟨y, found', state, length, entries⟩ := a.occasions h o found
  obtain ⟨z, found'', state', length', entries'⟩ := b.occasions h y found'
  refine ⟨z, found'', state'.trans state, length'.trans length, fun j => ?_⟩
  rcases entries' j with same | told
  · exact same ▸ entries j
  · exact .inr told

theorem foldl {α : Type} {f : State → α → State} (told : ∀ s y, Told x s (f s y)) (l : List α) (s : State) :
    Told x s (l.foldl f s) := by
  induction l generalizing s with
  | nil => exact refl x s
  | cons y l ih => exact (told s y).trans (ih _)

end Told

theorem State.setPhase_told (s : State) (k j : Nat) (p : ActionPhase) : Told x s (s.setPhase k j p) := by
  refine ⟨fun m => ?_, fun h o found => ⟨o, (s.findOccasion_setPhase k j p h).trans found, rfl, rfl, fun _ => .inl rfl⟩⟩
  unfold State.setPhase
  split
  · rfl
  · rename_i c stands
    split
    · rfl
    · rw [State.context_setContext]
      split
      next same => rw [← same.1, stands]; rfl
      next => rfl

theorem State.setOutcome_told (s : State) (k j : Nat) (x : Outcome) : Told x s (s.setOutcome k j x) := by
  refine ⟨fun m => by rw [s.setOutcome_context], fun h y found => ?_⟩
  have kept {t : State} (same : t = s) : ∃ z, t.findOccasion h = some z ∧ z.state = y.state ∧
      z.outcome.length = y.outcome.length ∧ ∀ i : Nat, z.outcome[i]? = y.outcome[i]? ∨ z.outcome[i]? = some x :=
    ⟨y, same ▸ found, rfl, rfl, fun _ => .inl rfl⟩
  cases stands : s.context k with
  | none => exact kept (by rw [State.setOutcome, stands])
  | some c =>
    cases found' : s.findOccasion c.occasion with
    | none => exact kept (by simp only [State.setOutcome, stands, found'])
    | some o =>
      rw [State.findOccasion_setOutcome stands found']
      by_cases same : h = c.occasion
      · rw [same, found'] at found
        cases found
        refine ⟨_, if_pos same, rfl, List.length_set, fun i => ?_⟩
        dsimp only
        rw [List.getElem?_set]
        split
        · split
          · exact .inr rfl
          · exact .inl (List.getElem?_eq_none (by omega)).symm
        · exact .inl rfl
      · exact ⟨y, (if_neg same).trans found, rfl, rfl, fun _ => .inl rfl⟩

theorem State.finishAction_told (s : State) (k j : Nat) (x : Outcome) : Told x s (s.finishAction k j x) :=
  (s.setOutcome_told k j x).trans (State.setPhase_told _ _ _ _)

/-! ## Occasions that wait (R129) -/

theorem insertDue_ne_nil (y : Nat × Occasion) (l : List (Nat × Occasion)) : insertDue y l ≠ [] := by
  cases l with
  | nil => exact List.cons_ne_nil _ _
  | cons z l =>
    unfold insertDue
    split <;> exact List.cons_ne_nil _ _

/-- R128, R129: a selection of the due list is empty only when no occasion passes its test. -/
theorem State.occasionsWhere_nil {test : Occasion → Bool} (empty : s.occasionsWhere test = []) {i : Nat} (hi : i < Config.occasions)
    (record : (s.occasionSlot i).record = some o) : test o = false := by
  unfold State.occasionsWhere at empty
  have none_passes (l : List Nat) (acc : List (Nat × Occasion))
      (empty : l.foldl (fun acc i => match (s.occasionSlot i).record with
        | some o => if test o then insertDue (i, o) acc else acc
        | none => acc) acc = []) :
      acc = [] ∧ ∀ i ∈ l, ∀ o, (s.occasionSlot i).record = some o → test o = false := by
    induction l generalizing acc with
    | nil => exact ⟨empty, nofun⟩
    | cons i l ih =>
      obtain ⟨head, tail⟩ := ih _ empty
      cases record : (s.occasionSlot i).record with
      | none =>
        simp only [record] at head
        exact ⟨head, fun j mem o here => by
          rcases List.mem_cons.1 mem with rfl | mem
          · cases record.symm.trans here
          · exact tail j mem o here⟩
      | some y =>
        simp only [record] at head
        cases passes : test y with
        | true => exact absurd ((if_pos passes).symm.trans head) (insertDue_ne_nil _ _)
        | false =>
          refine ⟨(if_neg (Bool.eq_false_iff.1 passes)).symm.trans head, fun j mem o here => ?_⟩
          rcases List.mem_cons.1 mem with rfl | mem
          · cases record.symm.trans here
            exact passes
          · exact tail j mem o here
  exact (none_passes _ _ empty).2 i (List.mem_range.2 hi) o record

theorem State.firstWaiting_none_iff : s.firstWaiting = none ↔ ∀ i, s.waitsAt i = false := by
  refine ⟨fun unwaited i => ?_, fun noneWaits => State.firstWaiting_eq_none fun i o record => ?_⟩
  · by_cases hi : i < Config.occasions
    · cases record : (s.occasionSlot i).record with
      | none => rw [State.waitsAt, record]; rfl
      | some o =>
        rw [State.waitsAt, record]
        exact State.occasionsWhere_nil (List.head?_eq_none_iff.1 unwaited) hi record
    · have blank : s.occasionSlot i = ⟨0, none⟩ := getD_of_ge_vector _ (Nat.le_of_not_lt hi) _
      rw [State.waitsAt, blank]
      rfl
  · have := noneWaits i
    rwa [State.waitsAt, record] at this

theorem State.firstWaiting_of_waits (waits : ∀ i, t.waitsAt i = true → s.waitsAt i = true) (unwaited : s.firstWaiting = none) :
    t.firstWaiting = none :=
  State.firstWaiting_none_iff.2 fun i => Bool.eq_false_iff.2 fun waiting =>
    Bool.eq_false_iff.1 (State.firstWaiting_none_iff.1 unwaited i) (waits i waiting)

/-! ## Contexts freed while no occasion waits (R136) -/

/-- What freeing contexts leaves: the blocks but the calendar and record memory, no occasion waiting anew, and every occasion that is
not RETIRING with its outcome. -/
structure Released (s t : State) : Prop where
  frame : t = { s with calendar := t.calendar, memory := t.memory }
  waits : ∀ i, t.waitsAt i = true → s.waitsAt i = true
  occasions : ∀ (h : Handle) (o : Occasion), s.findOccasion h = some o → o.state ≠ .retiring →
    ∃ z : Occasion, t.findOccasion h = some z ∧ z.state ≠ .retiring ∧ z.outcome = o.outcome

namespace Released

theorem refl (s : State) : Released s s := ⟨rfl, fun _ => id, fun _ o found live => ⟨o, found, live, rfl⟩⟩

theorem trans (a : Released s t) (b : Released t u) : Released s u := by
  refine ⟨b.frame.trans (congrArg (fun v : State => { v with calendar := u.calendar, memory := u.memory }) a.frame),
    fun i => a.waits i ∘ b.waits i, fun h o found live => ?_⟩
  obtain ⟨y, found', live', outcome⟩ := a.occasions h o found live
  obtain ⟨z, found'', live'', outcome'⟩ := b.occasions h y found' live'
  exact ⟨z, found'', live'', outcome'.trans outcome⟩

theorem bells (a : Released s t) : t.bells = s.bells := (congrArg State.bells a.frame :)

theorem bell (a : Released s t) (i : Nat) : t.bell i = s.bell i := by rw [State.bell, a.bells, State.bell]

theorem lines (a : Released s t) : t.lines = s.lines := (congrArg State.lines a.frame :)

theorem feeder (a : Released s t) : t.feeder = s.feeder := (congrArg State.feeder a.frame :)

theorem link (a : Released s t) : t.link = s.link := (congrArg State.link a.frame :)

theorem lockHeld (a : Released s t) (i : Nat) : t.lockHeld i = s.lockHeld i := by
  rw [State.lockHeld_eq, State.lockHeld_eq, a.bell, State.locks_of_lines a.lines]

end Released

/-- R136: an occasion, not RETIRING, that has left its context. -/
def Occasion.left (o : Occasion) : Occasion :=
  { o with context := none, state := if o.state = .firing then (if o.due.isSome then .armed else .spent) else o.state }

theorem Occasion.left_live (live : o.state ≠ .retiring) : o.left.state ≠ .retiring := by
  unfold Occasion.left
  dsimp only
  split
  · split <;> nofun
  · exact live

theorem State.leaveContext_eq (found : s.findOccasion g = some o) (live : o.state ≠ .retiring) :
    s.leaveContext g = s.putOccasion g.slot o.left := by
  unfold State.leaveContext
  simp only [found]
  obtain ⟨config, state, due, lastFired, outcome, missed, context, waiting⟩ := o
  cases state with
  | retiring => exact absurd rfl live
  | firing => rfl
  | armed => rfl
  | suspended => rfl
  | spent => rfl

theorem State.leaveContext_retiring (found : s.findOccasion g = some o) (retiring : o.state = .retiring) :
    s.leaveContext g = s.freeOccasion g.slot := by
  unfold State.leaveContext
  simp only [found, retiring]

theorem State.leaveContext_none (none : s.findOccasion g = none) : s.leaveContext g = s := by
  unfold State.leaveContext
  rw [none]

theorem State.freeOccasion_waitsAt (s : State) (slot : Nat) {i : Nat} (waits : (s.freeOccasion slot).waitsAt i = true) :
    s.waitsAt i = true := by
  have read : (s.freeOccasion slot).occasionSlot i
      = if slot = i ∧ slot < Config.occasions then { s.occasionSlot slot with record := none } else s.occasionSlot i :=
    s.occasionSlot_setOccasionSlot slot i _
  rw [State.waitsAt, read] at waits
  split at waits
  · cases waits
  · exact waits

theorem State.leaveContext_released (s : State) (g : Handle) : Released s (s.leaveContext g) := by
  cases found : s.findOccasion g with
  | none =>
    rw [State.leaveContext_none found]
    exact .refl s
  | some o =>
    by_cases retiring : o.state = .retiring
    · rw [State.leaveContext_retiring found retiring]
      refine ⟨rfl, fun i => s.freeOccasion_waitsAt g.slot, fun h y found' live => ⟨y, ?_, live, rfl⟩⟩
      have slot : h.slot ≠ g.slot := fun slot => by
        by_cases same : h = g
        · rw [same, found] at found'
          cases found'
          exact live retiring
        · exact State.findOccasion_sameSlot found slot same (State.findOccasion_named found').2.1
      exact (State.findOccasion_of_slot (s.occasionSlot_setOccasionSlot_other _ _ _ (Ne.symm slot))).trans found'
    · rw [State.leaveContext_eq found retiring]
      have waits (i : Nat) : (s.putOccasion g.slot o.left).waitsAt i = true → s.waitsAt i = true :=
        (s.putOccasion_held g.slot o.left fun waits => (State.waitsAt_named found).trans waits).waits i
      refine ⟨s.putOccasion_frame _ _, waits, fun h y found' live => ?_⟩
      rw [State.findOccasion_putOccasion found]
      by_cases same : h = g
      · rw [same, found] at found'
        cases found'
        exact ⟨_, if_pos same, Occasion.left_live live, rfl⟩
      · exact ⟨y, (if_neg same).trans found', live, rfl⟩

theorem State.releaseContext_eq (stands : s.context k = some c) :
    s.releaseContext k = (s.setContext k none).leaveContext c.occasion := by
  unfold State.releaseContext
  rw [stands]

theorem State.releaseContext_released (s : State) (k : Nat) : Released s (s.releaseContext k) := by
  cases stands : s.context k with
  | none =>
    rw [State.releaseContext, stands]
    exact .refl s
  | some c =>
    rw [State.releaseContext_eq stands]
    have freed : Released s (s.setContext k none) := ⟨rfl, fun _ => id, fun _ o found live => ⟨o, found, live, rfl⟩⟩
    exact freed.trans ((s.setContext k none).leaveContext_released c.occasion)

theorem settleLoop_released (fuel : Nat) (s : State) (unwaited : s.firstWaiting = none) : Released s (settleLoop fuel s) := by
  induction fuel generalizing s with
  | zero => exact .refl s
  | succ fuel ih =>
    unfold settleLoop
    split
    · have freed := s.releaseContext_released ‹_›
      exact freed.trans (ih _ (State.firstWaiting_of_waits freed.waits unwaited))
    · split
      next waiting => exact nomatch unwaited.symm.trans waiting
      next => exact .refl s

/-- R136: while no occasion waits, settling frees contexts and does nothing else. -/
theorem State.settleContexts_released (unwaited : s.firstWaiting = none) : Released s s.settleContexts := settleLoop_released _ s unwaited

/-- R136: where one context is to be freed, settling frees it and no other. -/
theorem State.settleContexts_single (done : s.doneContext = some k) (settled : (s.releaseContext k).Settled) :
    s.settleContexts = s.releaseContext k := by
  have pass : s.settleContexts = settleLoop 1023 (s.releaseContext k) := by
    unfold State.settleContexts
    rw [settleLoop, done]
  rw [pass, settleLoop_settles, State.settleContexts_settled settled]

end Sys2Proof.Machine
end

section
/-! The end of a motor run (R54, R56, R171, R173): what it leaves of the bell, of the other bells, and of the claims on the feeder. -/

namespace Sys2Proof.Machine

variable {s t u : State} {b i : Nat}

/-! ## Room for others (R172) -/

/-- R172: a motor is left as it was, but that its ask may have been admitted. -/
def MotorRun.Kept (m n : MotorRun) : Prop :=
  n = m ∨ ∃ length since sources, m = .pending length since false sources ∧ n = .pending length since true sources

namespace MotorRun.Kept

variable {l m n : MotorRun}

theorem refl (m : MotorRun) : m.Kept m := .inl rfl

theorem trans (h : l.Kept m) (k : m.Kept n) : l.Kept n := by
  rcases k with rfl | ⟨_, _, _, pending, rfl⟩
  · exact h
  · rcases h with rfl | ⟨_, _, _, -, admitted⟩
    · exact .inr ⟨_, _, _, pending, rfl⟩
    · exact nomatch admitted.symm.trans pending

theorem sources (h : m.Kept n) : n.sources = m.sources := by
  rcases h with rfl | ⟨_, _, _, rfl, rfl⟩ <;> rfl

theorem off_iff (h : m.Kept n) : n = .off ↔ m = .off := by
  rcases h with rfl | ⟨_, _, _, rfl, rfl⟩
  · exact .rfl
  · exact iff_of_false nofun nofun

theorem markAdmitted (m : MotorRun) : m.Kept m.markAdmitted := by
  cases m with
  | pending length since isAdmitted sources =>
    cases isAdmitted with
    | false => exact .inr ⟨_, _, _, rfl, rfl⟩
    | true => exact .inl rfl
  | off => exact .inl rfl
  | running => exact .inl rfl

end MotorRun.Kept

/-- R171: no ask and no admitted run of the bell. -/
def State.NoClaim (s : State) (b : Nat) : Prop := (∀ a ∈ s.feeder.asks, a.bell ≠ b) ∧ ∀ r ∈ s.feeder.admitted, r.bell ≠ b

/-- R172: what a try of the ask list can do. -/
structure Admits (s t : State) : Prop where
  frame : t = { s with bells := t.bells, feeder.asks := t.feeder.asks, feeder.admitted := t.feeder.admitted }
  bell : ∀ i, t.bell i = { s.bell i with motor := (t.bell i).motor }
  kept : ∀ i, (s.bell i).motor.Kept (t.bell i).motor
  noClaim : ∀ i, s.NoClaim i → t.NoClaim i

namespace Admits

theorem refl (s : State) : Admits s s := ⟨rfl, fun _ => rfl, fun _ => .refl _, fun _ => id⟩

theorem trans (h : Admits s t) (k : Admits t u) : Admits s u :=
  ⟨k.frame.trans (congrArg (fun v : State =>
      { v with bells := u.bells, feeder.asks := u.feeder.asks, feeder.admitted := u.feeder.admitted }) h.frame),
    fun i => by rw [k.bell i, h.bell i], fun i => (h.kept i).trans (k.kept i), fun i => k.noClaim i ∘ h.noClaim i⟩

theorem calendar (h : Admits s t) : t.calendar = s.calendar := (congrArg State.calendar h.frame :)

theorem lines (h : Admits s t) : t.lines = s.lines := (congrArg State.lines h.frame :)

theorem clock (h : Admits s t) : t.clock = s.clock := (congrArg State.clock h.frame :)

/-- The head of the list is admitted and leaves it. -/
theorem head (s : State) (a : Ask) (rest : List Ask) :
    Admits { s with feeder.asks := a :: rest } { s.admitAsk a with feeder.asks := rest } := by
  have bell (i : Nat) : (s.admitAsk a).bell i = { s.bell i with motor := ((s.admitAsk a).bell i).motor } ∧
      (s.bell i).motor.Kept ((s.admitAsk a).bell i).motor := by
    have read : (s.admitAsk a).bell i = if a.bell = i ∧ a.bell < Config.bells
        then { s.bell a.bell with motor := (s.bell a.bell).motor.markAdmitted } else s.bell i := s.bell_setBell a.bell i _
    rw [read]
    split
    next same => rw [same.1]; exact ⟨rfl, .markAdmitted _⟩
    next => exact ⟨rfl, .refl _⟩
  refine ⟨rfl, fun i => (bell i).1, fun i => (bell i).2, fun i ⟨asks, admitted⟩ => ⟨fun x mem => ?_, fun x mem => ?_⟩⟩
  · exact asks x (List.mem_cons_of_mem _ mem)
  · rcases List.mem_append.1 mem with mem | mem
    · exact admitted x mem
    · rw [List.mem_singleton.1 mem]
      exact asks a (List.mem_cons_self ..)

end Admits

theorem admitHeads_admits (l : List Ask) (s : State) : Admits { s with feeder.asks := l } (admitHeads l s) := by
  induction l generalizing s with
  | nil => exact .refl _
  | cons a rest ih =>
    unfold admitHeads
    split
    · exact (Admits.head s a rest).trans (ih _)
    · exact .refl _

theorem State.tryAsks_admits (s : State) : Admits s s.tryAsks := admitHeads_admits s.feeder.asks s

/-! ## The claim of a run (R171, R173) -/

/-- R173: the claim of a bell is taken from the lists. -/
def State.claimDropped (s : State) (b : Nat) : State :=
  { s with feeder.asks := s.feeder.asks.filter fun a => a.bell != b
           feeder.admitted := s.feeder.admitted.filter fun r => r.bell != b }

theorem State.claimDropped_noClaim (s : State) (b : Nat) : (s.claimDropped b).NoClaim b :=
  ⟨fun _ mem => bne_iff_ne.1 (List.mem_filter.1 mem).2, fun _ mem => bne_iff_ne.1 (List.mem_filter.1 mem).2⟩

theorem State.claimDropped_keeps_noClaim (b : Nat) (h : s.NoClaim i) : (s.claimDropped b).NoClaim i :=
  ⟨fun a mem => h.1 a (List.mem_filter.1 mem).1, fun r mem => h.2 r (List.mem_filter.1 mem).1⟩

theorem State.claimEnded_admits (s : State) (b : Nat) : Admits (s.claimDropped b) (s.claimEnded b) := by
  unfold State.claimEnded
  dsimp only
  split
  · exact State.tryAsks_admits (s.claimDropped b)
  · exact .refl _

/-! ## The sources of a run (R57, R135) -/

/-- R54: every source has its report, in the order of sources (log entry 66). -/
def State.sourcesTold (s : State) (b : Nat) (r : MotorReport) (sources : List MotorSource) : State :=
  sources.foldl (fun t x => t.sourceTold b r x) s

theorem State.runEnded_eq (s : State) (b : Nat) (sources : List MotorSource) (r : MotorReport) : s.runEnded b sources r =
    ((s.setBell b { s.bell b with motor := .off }).claimEnded b).sourcesTold b r sources := rfl

theorem State.sourcesTold_cons (s : State) (b : Nat) (r : MotorReport) (x : MotorSource) (sources : List MotorSource) :
    s.sourcesTold b r (x :: sources) = (s.sourceTold b r x).sourcesTold b r sources := rfl

/-- `t` is `s` but for its calendar, its link and record memory. -/
abbrev State.OnlyTold (s t : State) : Prop := t = { s with calendar := t.calendar, link := t.link, memory := t.memory }

theorem State.OnlyTold.trans (h : s.OnlyTold t) (k : t.OnlyTold u) : s.OnlyTold u :=
  Eq.trans k (congrArg (fun x : State => { x with calendar := u.calendar, link := u.link, memory := u.memory }) h)

theorem State.OnlyTold.bell (h : s.OnlyTold t) (i : Nat) : t.bell i = s.bell i := by
  rw [State.bell, congrArg State.bells h, State.bell]

theorem State.finishAction_onlyTold (s : State) (k j : Nat) (x : Outcome) : s.OnlyTold (s.finishAction k j x) := by
  have outcome : s.OnlyTold (s.setOutcome k j x) := by
    unfold State.OnlyTold State.setOutcome State.raiseIf State.putOccasion
    split
    · rfl
    · split
      · rfl
      · split <;> split <;> rfl
  have phase (u : State) : u.OnlyTold (u.setPhase k j .done) := by
    unfold State.OnlyTold State.setPhase
    split
    · rfl
    · split <;> rfl
  exact outcome.trans (phase _)

/-- `t` is `s` but for its bells, its calendar, its link and record memory. -/
abbrev State.OnlyReports (s t : State) : Prop :=
  t = { s with bells := t.bells, calendar := t.calendar, link := t.link, memory := t.memory }

theorem State.OnlyReports.trans (h : s.OnlyReports t) (k : t.OnlyReports u) : s.OnlyReports u :=
  Eq.trans k (congrArg (fun x : State =>
    { x with bells := u.bells, calendar := u.calendar, link := u.link, memory := u.memory }) h)

theorem State.OnlyTold.reports (h : s.OnlyTold t) : s.OnlyReports t :=
  Eq.trans (congrArg (fun x : State => { x with bells := t.bells }) h :) rfl

theorem State.sourceTold_action (s : State) (b : Nat) (r : MotorReport) (k j : Nat) :
    s.sourceTold b r (.action k j) = s.finishAction k j (motorOutcome r) := (s.finishAction_eq k j _).symm

theorem State.sourceTold_command_calendar (s : State) (b : Nat) (r : MotorReport) :
    (s.sourceTold b r .command).calendar = s.calendar := rfl

theorem State.sourceTold_command_link (s : State) (b : Nat) (r : MotorReport) : (s.sourceTold b r .command).link = s.link := rfl

theorem State.sourceTold_onlyReports (s : State) (b : Nat) (r : MotorReport) (x : MotorSource) :
    s.OnlyReports (s.sourceTold b r x) := by
  cases x with
  | command => rfl
  | action k j =>
    rw [State.sourceTold_action]
    exact (s.finishAction_onlyTold k j _).reports

theorem State.sourcesTold_onlyReports (s : State) (b : Nat) (r : MotorReport) (l : List MotorSource) :
    s.OnlyReports (s.sourcesTold b r l) := by
  induction l generalizing s with
  | nil => rfl
  | cons x l ih => exact (s.sourceTold_onlyReports b r x).trans (ih _)

theorem State.sourceTold_bell (hb : b < 40) (s : State) (r : MotorReport) (x : MotorSource) : (s.sourceTold b r x).bell b =
    { s.bell b with lastOutcome := if x = .command then some r else (s.bell b).lastOutcome } := by
  cases x with
  | command => exact State.bell_setBell_same s b _ hb
  | action k j =>
    rw [State.sourceTold_action]
    exact (s.finishAction_onlyTold k j _).bell _

theorem State.sourceTold_other (h : i ≠ b) (s : State) (r : MotorReport) (x : MotorSource) :
    (s.sourceTold b r x).bell i = s.bell i := by
  cases x with
  | command => exact State.bell_setBell_other s b i _ (Ne.symm h)
  | action k j =>
    rw [State.sourceTold_action]
    exact (s.finishAction_onlyTold k j _).bell _

/-- R57: a report to COMMAND is the bell's last command outcome. -/
theorem State.sourcesTold_bell (hb : b < 40) (s : State) (r : MotorReport) (l : List MotorSource) : (s.sourcesTold b r l).bell b =
    { s.bell b with lastOutcome := if .command ∈ l then some r else (s.bell b).lastOutcome } := by
  induction l generalizing s with
  | nil => rfl
  | cons x l ih =>
    rw [State.sourcesTold_cons, ih, State.sourceTold_bell hb]
    by_cases head : x = .command <;> by_cases tail : MotorSource.command ∈ l <;> simp [head, tail, eq_comm]

theorem State.sourcesTold_other (h : i ≠ b) (s : State) (r : MotorReport) (l : List MotorSource) :
    (s.sourcesTold b r l).bell i = s.bell i := by
  induction l generalizing s with
  | nil => rfl
  | cons x l ih => rw [State.sourcesTold_cons, ih, State.sourceTold_other h]

theorem State.sourceTold_told (s : State) (b : Nat) (r : MotorReport) (x : MotorSource) : Told (motorOutcome r) s (s.sourceTold b r x) := by
  cases x with
  | command => exact .of_calendar rfl
  | action k j =>
    rw [State.sourceTold_action]
    exact s.finishAction_told k j _

theorem State.sourcesTold_told (s : State) (b : Nat) (r : MotorReport) (l : List MotorSource) :
    Told (motorOutcome r) s (s.sourcesTold b r l) := .foldl (fun u x => u.sourceTold_told b r x) l s

/-! ## The end of a run (R54, R56) -/

theorem State.runEnded_bell (hb : b < 40) (s : State) (sources : List MotorSource) (r : MotorReport) :
    (s.runEnded b sources r).bell b = { s.bell b with
      motor := .off, lastOutcome := if .command ∈ sources then some r else (s.bell b).lastOutcome } := by
  let off := s.setBell b { s.bell b with motor := .off }
  have bell : off.bell b = { s.bell b with motor := .off } := State.bell_setBell_same s b _ hb
  have admits : Admits (off.claimDropped b) (off.claimEnded b) := off.claimEnded_admits b
  have motor : ((off.claimEnded b).bell b).motor = .off := (admits.kept b).off_iff.2 (congrArg Bell.motor bell :)
  have claim : (off.claimEnded b).bell b = { s.bell b with motor := .off } := by
    rw [admits.bell b, motor]
    exact (congrArg (fun x : Bell => { x with motor := .off }) bell :)
  rw [s.runEnded_eq, State.sourcesTold_bell hb, claim]

theorem State.runEnded_other (h : i ≠ b) (s : State) (sources : List MotorSource) (r : MotorReport) :
    (s.runEnded b sources r).bell i = { s.bell i with motor := ((s.runEnded b sources r).bell i).motor } ∧
      (s.bell i).motor.Kept ((s.runEnded b sources r).bell i).motor := by
  let off := s.setBell b { s.bell b with motor := .off }
  have bell : off.bell i = s.bell i := State.bell_setBell_other s b i _ (Ne.symm h)
  have admits : Admits (off.claimDropped b) (off.claimEnded b) := off.claimEnded_admits b
  rw [s.runEnded_eq, State.sourcesTold_other h, ← bell]
  exact ⟨admits.bell i, admits.kept i⟩

theorem State.runEnded_noClaim (s : State) (b : Nat) (sources : List MotorSource) (r : MotorReport) :
    (s.runEnded b sources r).NoClaim b := by
  let off := s.setBell b { s.bell b with motor := .off }
  rw [s.runEnded_eq, State.NoClaim, congrArg State.feeder ((off.claimEnded b).sourcesTold_onlyReports b r sources)]
  exact (off.claimEnded_admits b).noClaim b (off.claimDropped_noClaim b)

theorem State.runEnded_keeps_noClaim (b : Nat) (sources : List MotorSource) (r : MotorReport) (h : s.NoClaim i) :
    (s.runEnded b sources r).NoClaim i := by
  let off := s.setBell b { s.bell b with motor := .off }
  rw [s.runEnded_eq, State.NoClaim, congrArg State.feeder ((off.claimEnded b).sourcesTold_onlyReports b r sources)]
  exact (off.claimEnded_admits b).noClaim i (State.claimDropped_keeps_noClaim (s := off) b h)

theorem State.runEnded_lines (s : State) (b : Nat) (sources : List MotorSource) (r : MotorReport) :
    (s.runEnded b sources r).lines = s.lines := by
  let off := s.setBell b { s.bell b with motor := .off }
  rw [s.runEnded_eq, congrArg State.lines ((off.claimEnded b).sourcesTold_onlyReports b r sources)]
  exact (off.claimEnded_admits b).lines

theorem State.runEnded_clock (s : State) (b : Nat) (sources : List MotorSource) (r : MotorReport) :
    (s.runEnded b sources r).clock = s.clock := by
  let off := s.setBell b { s.bell b with motor := .off }
  rw [s.runEnded_eq, congrArg State.clock ((off.claimEnded b).sourcesTold_onlyReports b r sources)]
  exact (off.claimEnded_admits b).clock

theorem State.claimEnded_calendar (s : State) (b : Nat) : (s.claimEnded b).calendar = s.calendar := (s.claimEnded_admits b).calendar

theorem State.runEnded_told (s : State) (b : Nat) (sources : List MotorSource) (r : MotorReport) :
    Told (motorOutcome r) s (s.runEnded b sources r) := by
  let off := s.setBell b { s.bell b with motor := .off }
  have claim : Told (motorOutcome r) s (off.claimEnded b) := .of_calendar (off.claimEnded_calendar b)
  exact claim.trans (State.sourcesTold_told _ b r sources)

/-! ## Occasions that wait (R129) -/

theorem State.sourcesTold_held (s : State) (b : Nat) (r : MotorReport) (l : List MotorSource) : Held s (s.sourcesTold b r l) := by
  refine .foldl l (fun u x => ?_) s
  cases x with
  | command => exact .of_calendar rfl
  | action k j =>
    rw [State.sourceTold_action]
    exact u.finishAction_held k j _

theorem State.runEnded_held (s : State) (b : Nat) (sources : List MotorSource) (r : MotorReport) : Held s (s.runEnded b sources r) := by
  let off := s.setBell b { s.bell b with motor := .off }
  have claim : Held s (off.claimEnded b) := .of_calendar (off.claimEnded_calendar b)
  exact claim.trans (State.sourcesTold_held _ b r sources)

theorem State.endRun_held (s : State) (b : Nat) (r : MotorReport) : Held s (s.endRun b r) := by
  by_cases off : (s.bell b).motor = .off
  · rw [State.endRun_off off]
    exact .refl s
  · rw [State.endRun_eq s b r off]
    exact s.runEnded_held b _ r

theorem Held.unwaited (h : Held s t) (unwaited : s.firstWaiting = none) : t.firstWaiting = none :=
  State.firstWaiting_of_waits h.waits unwaited

end Sys2Proof.Machine
end

section
/-! How motor runs end (R53, R54, R55): the time out, the run's end, the stall and STOP, and what an action that asked for the run is
told (R135, R136). -/

namespace Sys2Proof.Machine

variable {s t u : State} {b dt k : Nat} {sources : List MotorSource}

/-! ## The moments at which a run ends -/

section
variable {length since : Nat} {isAdmitted : Bool} (pending : (s.bell b).motor = .pending length since isAdmitted sources)
include pending

theorem State.endRun_pending (r : MotorReport) : s.endRun b r = s.runEnded b sources r :=
  State.endRun_asked (MotorRun.asked_iff.1 (.inl ⟨_, _, _, pending⟩)) r

theorem State.timeOutPending_due (waits : isAdmitted = false) (due : since + 120000 ≤ s.nowMs) :
    s.timeOutPending b = s.runEnded b sources .refusedFeeder := by
  rw [← State.endRun_pending pending]
  unfold State.timeOutPending
  rw [pending, waits]
  exact if_pos due

theorem State.timeOutPending_early (h : isAdmitted = true ∨ s.nowMs < since + 120000) : s.timeOutPending b = s := by
  unfold State.timeOutPending
  rw [pending]
  cases isAdmitted with
  | true => rfl
  | false => exact if_neg (Nat.not_le.2 (h.resolve_left Bool.false_ne_true))

end

section
variable {energised endAt : Nat} {satisfied : Bool} (running : (s.bell b).motor = .running energised endAt satisfied sources)
include running

theorem State.endRun_of_running (r : MotorReport) : s.endRun b r = s.runEnded b sources r :=
  State.endRun_asked (MotorRun.asked_iff.1 (.inr ⟨_, _, _, running⟩)) r

theorem State.reachRunEnd_due (due : endAt ≤ s.nowMs) : s.reachRunEnd b = s.runEnded b sources .done := by
  rw [← State.endRun_of_running running]
  unfold State.reachRunEnd
  rw [running]
  exact if_pos due

theorem State.reachRunEnd_early (early : s.nowMs < endAt) : s.reachRunEnd b = s := by
  unfold State.reachRunEnd
  rw [running]
  exact if_neg (Nat.not_le.2 early)

end

/-- R55: the run of a motor has ended as stalled, and the motor is out of service. -/
def State.motorStalled (s : State) (b : Nat) (sources : List MotorSource) : State :=
  let u := s.runEnded b sources .stalled
  ((u.setBell b { u.bell b with config.motorInService := false }).askWrite (.motorFault b)).raise .motorFault

section
variable {energised endAt : Nat} {satisfied : Bool} (running : (s.bell b).motor = .running energised endAt satisfied sources)
include running

theorem State.watchStall_due (unsatisfied : satisfied = false) (due : energised + 20000 ≤ s.nowMs) :
    s.watchStall b = s.motorStalled b sources := by
  unfold State.watchStall State.motorStalled
  rw [running, unsatisfied, ← State.endRun_of_running running]
  exact if_pos due

theorem State.watchStall_early (h : satisfied = true ∨ s.nowMs < energised + 20000) : s.watchStall b = s := by
  unfold State.watchStall
  rw [running]
  cases satisfied with
  | true => rfl
  | false => exact if_neg (Nat.not_le.2 (h.resolve_left Bool.false_ne_true))

end

/-! ## The commands -/

section
variable (hb : b < 40) (mains : s.time.power = .mains)
include hb mains

theorem exec_pendingTimeout : exec (.pendingTimeout dt b) s = .next ((s.elapse dt).timeOutPending b).settleContexts :=
  happenAt_mains dt hb mains

theorem exec_runEnd : exec (.runEnd dt b) s = .next ((s.elapse dt).reachRunEnd b).settleContexts := happenAt_mains dt hb mains

theorem exec_stallWatchExpiry : exec (.stallWatchExpiry dt b) s = .next ((s.elapse dt).watchStall b).settleContexts :=
  happenAt_mains dt hb mains

end

theorem exec_stopBell (hb : b < 40) (ready : s.HostReady) (dt : Nat) : exec (.stopBell dt b) s
    = .next ((((s.elapse dt).working (.stopBell b)).endRun b .stopped).settleContexts.answer (reply .done b 0)) :=
  (happen_hostRequest ready dt (.stopBell b)).trans (congrArg _ (if_pos hb))

/-! ## An action that asked for the run (R135, R136) -/

theorem State.doneContext_none_iff : s.doneContext = none ↔ ∀ m, (s.context m).any Context.isDone = false := by
  refine List.find?_eq_none.trans ⟨fun none m => ?_, fun none m _ => Bool.eq_false_iff.1 (none m)⟩
  by_cases hm : m < 8
  · exact Bool.eq_false_iff.2 (none m (List.mem_range.2 hm))
  · have blank : s.context m = Option.none := getD_of_ge_vector _ (Nat.le_of_not_lt hm) _
    rw [blank]
    rfl

/-- R136: the one context whose actions are all DONE is the one to be freed. -/
theorem State.doneContext_single (done : (s.context k).any Context.isDone = true)
    (others : ∀ m, m ≠ k → (s.context m).any Context.isDone = false) : s.doneContext = some k := by
  cases first : s.doneContext with
  | none => exact absurd done (Bool.eq_false_iff.1 (State.doneContext_none_iff.1 first k))
  | some m =>
    have isDone := List.find?_some (p := fun i => (s.context i).any Context.isDone) first
    by_cases same : m = k
    · rw [same]
    · exact absurd isDone (Bool.eq_false_iff.1 (others m same))

theorem Context.isDone_iff (c : Context) : c.isDone = true ↔ ∀ x ∈ c.actions, x.phase = .done := by
  simp [Context.isDone]

/-- What a run of one action leaves once its end has been told: context and occasion of the action as they then stand, no other context
to be freed, and no occasion waiting for one. -/
structure ActionReported (k : Nat) (c : Context) (o : Occasion) (t : State) : Prop where
  unwaited : t.firstWaiting = none
  others : ∀ m, m ≠ k → (t.context m).any Context.isDone = false
  context : t.context k = some c
  occasion : t.findOccasion c.occasion = some o

namespace ActionReported

variable {c : Context} {o : Occasion} (h : ActionReported k c o t)
include h

theorem of_calendar (same : u.calendar = t.calendar) : ActionReported k c o u where
  unwaited := (Held.of_calendar same).unwaited h.unwaited
  others m other := by rw [State.context_of_calendar same]; exact h.others m other
  context := (State.context_of_calendar same k).trans h.context
  occasion := (State.findOccasion_of_calendar same _).trans h.occasion

/-- An action of the context still to end keeps the context. -/
theorem settle_left (left : ∃ x ∈ c.actions, x.phase ≠ .done) : t.settleContexts = t := by
  obtain ⟨x, mem, undone⟩ := left
  refine State.settleContexts_settled ⟨State.doneContext_none_iff.2 fun m => ?_, .inr h.unwaited⟩
  by_cases same : m = k
  · rw [same, h.context]
    exact Bool.eq_false_iff.2 fun done => undone (c.isDone_iff.1 done x mem)
  · exact h.others m same

/-- R136: the last action of the context frees it, and the occasion leaves it. -/
theorem settle_freed (all : ∀ x ∈ c.actions, x.phase = .done) (firing : o.state = .firing) :
    t.settleContexts.context k = none ∧ t.settleContexts.findOccasion c.occasion
      = some { o with context := none, state := if o.due.isSome then .armed else .spent } := by
  have live : o.state ≠ .retiring := by rw [firing]; nofun
  have done : t.doneContext = some k :=
    State.doneContext_single (by rw [h.context]; exact c.isDone_iff.2 all) h.others
  have released : t.releaseContext k = (t.setContext k none).putOccasion c.occasion.slot o.left := by
    rw [State.releaseContext_eq h.context]
    exact State.leaveContext_eq (s := t.setContext k none) h.occasion live
  have context (m : Nat) : (t.releaseContext k).context m = if k = m then none else t.context m := by
    rw [released, State.putOccasion_context, State.context_setContext]
    exact if_congr (and_iff_left (State.context_lt h.context)) rfl rfl
  have freed : (t.releaseContext k).Settled := by
    refine ⟨State.doneContext_none_iff.2 fun m => ?_,
      .inr (State.firstWaiting_of_waits (t.releaseContext_released k).waits h.unwaited)⟩
    rw [context]
    split
    next => rfl
    next other => exact h.others m (Ne.symm other)
  rw [State.settleContexts_single done freed]
  refine ⟨(context k).trans (if_pos rfl), ?_⟩
  rw [released, State.findOccasion_putOccasion (s := t.setContext k none) h.occasion, if_pos rfl]
  unfold Occasion.left
  rw [firing]
  rfl

end ActionReported

section
variable {j : Nat} {c : Context} {a : ContextAction} {o : Occasion}
  (one : sources = [.action k j] ∨ sources = [.action k j, .command] ∨ sources = [.command, .action k j])
include one

/-- Of a run that one action asked for, with COMMAND or without, the report to the action is all that the calendar and the link see. -/
theorem State.runEnded_action (s : State) (b : Nat) (r : MotorReport) : ∃ u : State, u.calendar = s.calendar ∧
    (s.runEnded b sources r).calendar = (u.finishAction k j (motorOutcome r)).calendar ∧
    (s.runEnded b sources r).link = (u.finishAction k j (motorOutcome r)).link := by
  let v := (s.setBell b { s.bell b with motor := .off }).claimEnded b
  have calendar : v.calendar = s.calendar := State.claimEnded_calendar _ b
  have told (u : State) : u.sourceTold b r (.action k j) = u.finishAction k j (motorOutcome r) := u.sourceTold_action b r k j
  rcases one with rfl | rfl | rfl
  · exact ⟨v, calendar, congrArg State.calendar (told v), congrArg State.link (told v)⟩
  · have reports : s.runEnded b [.action k j, .command] r = (v.finishAction k j (motorOutcome r)).sourceTold b r .command :=
      congrArg (fun u : State => u.sourceTold b r .command) (told v)
    rw [reports]
    exact ⟨v, calendar, State.sourceTold_command_calendar _ b r, State.sourceTold_command_link _ b r⟩
  · exact ⟨v.sourceTold b r .command, calendar, congrArg State.calendar (told _), congrArg State.link (told _)⟩

variable (undone : s.doneContext = none) (unwaited : s.firstWaiting = none) (stands : s.context k = some c)
  (action : c.actions[j]? = some a) (found : s.findOccasion c.occasion = some o)
include stands found

/-- R135: REFUSED and SKIPPED raise OCCASION OUTCOME. -/
theorem State.runEnded_flags (b : Nat) {r : MotorReport}
    (raised : (motorOutcome r).kind = .refused ∨ (motorOutcome r).kind = .skipped) :
    (s.runEnded b sources r).link.flags.getLsbD 5 = true ∧ (s.runEnded b sources r).link.fresh.getLsbD 5 = true := by
  obtain ⟨u, same, -, link⟩ := s.runEnded_action one b r
  rw [link]
  exact State.finishAction_flags ((State.context_of_calendar same k).trans stands)
    ((State.findOccasion_of_calendar same _).trans found) j raised

include undone unwaited action

theorem State.runEnded_reported (b : Nat) (r : MotorReport) :
    ActionReported k { c with actions := c.actions.set j { a with phase := .done } }
      { o with outcome := o.outcome.set j (motorOutcome r) } (s.runEnded b sources r) := by
  obtain ⟨u, same, calendar, -⟩ := s.runEnded_action one b r
  have stands' : u.context k = some c := (State.context_of_calendar same k).trans stands
  have found' : u.findOccasion c.occasion = some o := (State.findOccasion_of_calendar same _).trans found
  have context (m : Nat) : (s.runEnded b sources r).context m
      = if k = m then some { c with actions := c.actions.set j { a with phase := .done } } else s.context m := by
    rw [State.context_of_calendar calendar, State.context_finishAction stands' action, State.context_of_calendar same]
  refine ⟨(s.runEnded_held b sources r).unwaited unwaited, fun m other => ?_, (context k).trans (if_pos rfl), ?_⟩
  · rw [context, if_neg (Ne.symm other)]
    exact State.doneContext_none_iff.1 undone m
  · rw [State.findOccasion_of_calendar calendar]
    exact (State.findOccasion_finishAction stands' found' j _ _).trans (if_pos rfl)

end

/-- What the end of a run leaves of its bell and its claim in a state that follows it. -/
structure RunOver (b : Nat) (outcome : Option MotorReport) (raised : Prop) (t : State) : Prop where
  motor : (t.bell b).motor = .off
  lastOutcome : (t.bell b).lastOutcome = outcome
  noClaim : t.NoClaim b
  flags : raised → t.link.flags.getLsbD 5 = true ∧ t.link.fresh.getLsbD 5 = true

namespace RunOver

variable {outcome : Option MotorReport} {raised : Prop}

theorem runEnded (hb : b < 40) (r : MotorReport) (flags : raised →
    (s.runEnded b sources r).link.flags.getLsbD 5 = true ∧ (s.runEnded b sources r).link.fresh.getLsbD 5 = true) :
    RunOver b (if .command ∈ sources then some r else (s.bell b).lastOutcome) raised (s.runEnded b sources r) where
  motor := (congrArg Bell.motor (State.runEnded_bell hb s sources r) :)
  lastOutcome := (congrArg Bell.lastOutcome (State.runEnded_bell hb s sources r) :)
  noClaim := s.runEnded_noClaim b sources r
  flags := flags

theorem stalled (hb : b < 40) (h : RunOver b outcome raised (s.runEnded b sources .stalled)) :
    RunOver b outcome raised (s.motorStalled b sources) := by
  let u := s.runEnded b sources .stalled
  have bell : (s.motorStalled b sources).bell b = { u.bell b with config.motorInService := false } := State.bell_setBell_same u b _ hb
  refine ⟨(congrArg Bell.motor bell).trans h.motor, (congrArg Bell.lastOutcome bell).trans h.lastOutcome, h.noClaim, fun raised => ?_⟩
  obtain ⟨flags, fresh⟩ := h.flags raised
  have set (f : FlagSet) (was : f.getLsbD 5 = true) : (f ||| Condition.motorFault.only).getLsbD 5 = true := by
    rw [BitVec.getLsbD_or, was, Bool.true_or]
  exact ⟨set _ flags, set _ fresh⟩

theorem released (h : RunOver b outcome raised t) (free : Released t u) : RunOver b outcome raised u where
  motor := by rw [free.bell]; exact h.motor
  lastOutcome := by rw [free.bell]; exact h.lastOutcome
  noClaim := by rw [State.NoClaim, free.feeder]; exact h.noClaim
  flags := by rw [free.link]; exact h.flags

end RunOver

theorem State.settled_of_calendar (h : s.Settled) (same : t.calendar = s.calendar) : t.Settled := by
  simp only [State.Settled, State.doneContext, State.freeContext, State.firstWaiting, State.occasionsWhere, State.context,
    State.occasionSlot, same]
  exact h

/-- Settles O26: each event at its moment and before it, STOP, and what an action that asked for the run is told. -/
theorem motorRunsEndInOneStep : Obligations.MotorRunsEndInOneStep := by
  unfold Obligations.MotorRunsEndInOneStep
  refine ⟨fun t settled => State.settleContexts_settled settled,
    fun t b r settled => State.settled_of_calendar settled (State.claimEnded_calendar _ b), ?_⟩
  intro s dt b sources hb mains e stopped stalled
  let w := e.working (.stopBell b)
  have still (settled : s.Settled) : e.settleContexts = e := State.settleContexts_settled settled
  have timesOut {t : State} (h : (e.timeOutPending b).settleContexts = t) : exec (.pendingTimeout dt b) s = .next t :=
    (exec_pendingTimeout hb mains).trans (congrArg _ h)
  have ends {t : State} (h : (e.reachRunEnd b).settleContexts = t) : exec (.runEnd dt b) s = .next t :=
    (exec_runEnd hb mains).trans (congrArg _ h)
  have stalls {t : State} (h : (e.watchStall b).settleContexts = t) : exec (.stallWatchExpiry dt b) s = .next t :=
    (exec_stallWatchExpiry hb mains).trans (congrArg _ h)
  have stops (asked : w.endRun b .stopped = w.runEnded b sources .stopped) (ready : s.HostReady) : stopped :=
    (exec_stopBell hb ready dt).trans
      (congrArg (fun u : State => Host.Outcome.next (u.settleContexts.answer (reply .done b 0))) asked)
  refine ⟨fun length since isAdmitted pending => ⟨fun waits due => ?_, fun early settled => ?_,
      stops (State.endRun_pending (s := w) pending _)⟩,
    fun energised endAt satisfied running => ⟨fun due => ?_, fun early settled => ?_, fun unsatisfied due => ?_, fun early settled => ?_,
      stops (State.endRun_of_running (s := w) running _)⟩, fun off settled ready => ?off, fun ready unwaited => ?stop, ?reported⟩
  · exact timesOut (congrArg State.settleContexts (State.timeOutPending_due (s := e) pending waits due))
  · exact timesOut ((congrArg State.settleContexts (State.timeOutPending_early (s := e) pending early)).trans (still settled))
  · exact ends (congrArg State.settleContexts (State.reachRunEnd_due (s := e) running due))
  · exact ends ((congrArg State.settleContexts (State.reachRunEnd_early (s := e) running early)).trans (still settled))
  · exact stalls (congrArg State.settleContexts (State.watchStall_due (s := e) running unsatisfied due))
  · exact stalls ((congrArg State.settleContexts (State.watchStall_early (s := e) running early)).trans (still settled))
  case off =>
    rw [exec_stopBell hb ready dt, State.endRun_off (s := w) off, State.settleContexts_settled (s := w) settled]
  case stop =>
    have free := State.settleContexts_released ((w.endRun_held b .stopped).unwaited unwaited)
    exact ⟨_, exec_stopBell hb ready dt, (congrArg Bell.motor (free.bell b)).trans (State.endRun_motor hb .stopped)⟩
  case reported =>
    intro i r k j c a o undone unwaited how one hk stands action found hj firing entry told actions
    suffices run : ∃ v t, exec i s = .next t ∧ (t = v.settleContexts ∨ ∃ x, t = v.settleContexts.answer x) ∧
        ActionReported k { c with actions := actions } told v ∧
        RunOver b (if .command ∈ sources then some r else (s.bell b).lastOutcome) (entry.1 = .refused ∨ entry.1 = .skipped) v by
      obtain ⟨v, t, runs, settles, reported, ended⟩ := run
      have ended' := ended.released (State.settleContexts_released reported.unwaited)
      have kept (left : ∃ x ∈ actions, x.phase ≠ .done) : v.settleContexts.context k = some { c with actions := actions } ∧
          v.settleContexts.findOccasion c.occasion = some told := by
        rw [reported.settle_left left]
        exact ⟨reported.context, reported.occasion⟩
      have freed (all : ∀ x ∈ actions, x.phase = .done) := reported.settle_freed all firing
      refine ⟨t, runs, ?_⟩
      rcases settles with rfl | ⟨x, rfl⟩ <;>
        exact ⟨ended'.motor, ended'.lastOutcome, ended'.noClaim.1, ended'.noClaim.2, ended'.flags, kept, freed⟩
    have reported := State.runEnded_reported (s := e) one undone unwaited stands action found b r
    have ended : RunOver b _ (entry.1 = .refused ∨ entry.1 = .skipped) (e.runEnded b sources r) :=
      .runEnded hb r (State.runEnded_flags (s := e) one stands found b)
    rcases how with ⟨length, since, pending, due, rfl, rfl⟩ | ⟨energised, endAt, satisfied, running, due, rfl, rfl⟩ |
      ⟨energised, endAt, running, due, rfl, rfl⟩ | ⟨asked, ready, rfl, rfl⟩
    · exact ⟨_, _, timesOut (congrArg State.settleContexts (State.timeOutPending_due (s := e) pending rfl due)), .inl rfl,
        reported, ended⟩
    · exact ⟨_, _, ends (congrArg State.settleContexts (State.reachRunEnd_due (s := e) running due)), .inl rfl, reported, ended⟩
    · exact ⟨_, _, stalls (congrArg State.settleContexts (State.watchStall_due (s := e) running rfl due)), .inl rfl,
        reported.of_calendar rfl, ended.stalled hb⟩
    · have reported := State.runEnded_reported (s := w) one undone unwaited stands action found b .stopped
      have ended : RunOver b _ (entry.1 = .refused ∨ entry.1 = .skipped) (w.runEnded b sources .stopped) :=
        .runEnded hb .stopped (State.runEnded_flags (s := w) (r := .stopped) one stands found b)
      exact ⟨_, _, stops (State.endRun_asked (s := w) (MotorRun.asked_iff.1 asked) .stopped) ready, .inr ⟨_, rfl⟩, reported, ended⟩

end Sys2Proof.Machine
end

section
/-! LOCKED (R46, R56): what following the locks of one bell does to it and to the others, and the events that lead to it. -/

namespace Sys2Proof.Machine

variable {s t u : State} {b i : Nat} {sources : List MotorSource}

/-! ## The locking conditions (R46) -/

theorem any_toList_iff {α : Type} {n : Nat} (v : Vector α n) (p : α → Bool) (d : α) :
    v.toList.any p = true ↔ ∃ i, i < n ∧ p (v.getD i d) = true := by
  have all := all_toList_iff v (fun x => !p x) d
  rw [← not_iff_not, Bool.not_eq_true, ← Bool.not_eq_true', List.not_any_eq_all_not, all]
  simp

theorem State.lockHeld_iff (s : State) (b : Nat) : s.lockHeld b = true ↔ (s.bell b).config.hostLock = true ∨
    (∃ j, j < 64 ∧ (s.line j).record.function = .bellKey ∧ (s.line j).record.bound = some b ∧ (s.line j).filtered = true) ∨
    ((s.bell b).config.group = .ring ∧ ∃ j, j < 64 ∧ (s.line j).record.function = .ringingSwitch ∧ (s.line j).filtered = true) := by
  have key : s.keyActive b = true ↔
      ∃ j, j < 64 ∧ (s.line j).record.function = .bellKey ∧ (s.line j).record.bound = some b ∧ (s.line j).filtered = true := by
    refine (any_toList_iff s.lines _ Line.blank).trans (exists_congr fun j => and_congr_right' ?_)
    rw [Bool.and_eq_true, decide_eq_true_eq, and_assoc]
    rfl
  have ringing : s.ringingActive = true ↔
      ∃ j, j < 64 ∧ (s.line j).record.function = .ringingSwitch ∧ (s.line j).filtered = true := by
    refine (any_toList_iff s.lines _ Line.blank).trans (exists_congr fun j => and_congr_right' ?_)
    rw [Bool.and_eq_true, beq_iff_eq]
    rfl
  rw [State.lockHeld, State.ringingLocks, Bool.or_eq_true, Bool.or_eq_true, Bool.and_eq_true, beq_iff_eq, key, ringing, or_assoc,
    and_comm (a := (s.bell b).config.group = .ring)]

/-- The conditions read a bell's record and the lines only. -/
theorem State.lockHeld_congr (lines : t.lines = s.lines) (config : (t.bell b).config = (s.bell b).config) :
    t.lockHeld b = s.lockHeld b := by
  rw [State.lockHeld_eq, State.lockHeld_eq, config, State.locks_of_lines lines]

/-! ## One bell (R46) -/

/-- R46: a bell is LOCKED exactly while a condition holds. -/
def State.LockFollows (s : State) (b : Nat) : Prop := (s.bell b).swing = .locked ↔ s.lockHeld b = true

theorem State.LockFollows.of_same (h : s.LockFollows b) (lines : t.lines = s.lines)
    (config : (t.bell b).config = (s.bell b).config) (swing : (t.bell b).swing = (s.bell b).swing) : t.LockFollows b := by
  rw [State.LockFollows, swing, State.lockHeld_congr lines config]
  exact h

theorem State.LockFollows.released (h : s.LockFollows b) (free : Released s t) : t.LockFollows b :=
  h.of_same free.lines (by rw [free.bell]) (by rw [free.bell])

theorem Released.noClaim (free : Released s t) (h : s.NoClaim b) : t.NoClaim b := by
  rw [State.NoClaim, free.feeder]
  exact h

/-- R46: a bell as it enters LOCKED. -/
def Bell.locked (x : Bell) : Bell := { x with swing := .locked, quietUntil := none }

/-- R46, R50: a bell as it leaves LOCKED at a moment. -/
def Bell.unlocked (x : Bell) (now : Nat) : Bell :=
  if x.config.inService = true ∧ x.config.sensorMode = .none then { x with swing := .atRest }
  else { x with swing := .unknown, entered := now }

theorem Bell.unlocked_config (x : Bell) (now : Nat) : (x.unlocked now).config = x.config := by
  unfold Bell.unlocked
  split <;> rfl

theorem Bell.unlocked_swing (x : Bell) (now : Nat) : (x.unlocked now).swing ≠ .locked := by
  unfold Bell.unlocked
  split <;> nofun

theorem Bell.unlocked_withMotor (x : Bell) (now : Nat) (m : MotorRun) :
    ({ x with motor := m } : Bell).unlocked now = { x.unlocked now with motor := m } := by
  unfold Bell.unlocked
  dsimp only
  split <;> rfl

theorem State.leaveLocked_unlocked (s : State) (b : Nat) : s.leaveLocked b = s.setBell b ((s.bell b).unlocked s.nowMs) := by
  rw [State.leaveLocked_eq, freshSwing_eq]
  unfold Bell.unlocked
  split <;> rfl

theorem State.followLock_enters (held : s.lockHeld b = true) (free : (s.bell b).swing ≠ .locked) : s.followLock b = s.enterLocked b :=
  (if_pos held).trans (if_neg free)

theorem State.followLock_leaves (unheld : s.lockHeld b = false) (locked : (s.bell b).swing = .locked) :
    s.followLock b = s.setBell b ((s.bell b).unlocked s.nowMs) :=
  ((if_neg (Bool.eq_false_iff.1 unheld)).trans (if_pos locked)).trans (s.leaveLocked_unlocked b)

theorem State.enterLocked_eq (s : State) (b : Nat) : s.enterLocked b = (s.setBell b (s.bell b).locked).endRun b .locked := rfl

section
variable (hb : b < 40)
include hb

theorem State.enterLocked_off (off : (s.bell b).motor = .off) : s.enterLocked b = s.setBell b (s.bell b).locked :=
  State.endRun_off (s := s.setBell b (s.bell b).locked)
    ((congrArg Bell.motor (State.bell_setBell_same s b (s.bell b).locked hb) :).trans off) .locked

theorem State.enterLocked_asked (asked : (s.bell b).motor ≠ .off ∧ (s.bell b).motor.sources = sources) :
    s.enterLocked b = (s.setBell b (s.bell b).locked).runEnded b sources .locked := by
  have bell : (s.setBell b (s.bell b).locked).bell b = (s.bell b).locked := State.bell_setBell_same s b _ hb
  exact State.endRun_asked (s := s.setBell b (s.bell b).locked) (by rw [bell]; exact asked) .locked

theorem State.followLock_follows (s : State) : (s.followLock b).LockFollows b := by
  cases held : s.lockHeld b with
  | true =>
    by_cases locked : (s.bell b).swing = .locked
    · have follows : s.LockFollows b := iff_of_true locked held
      rwa [State.followLock_self follows]
    · have bell : (s.setBell b (s.bell b).locked).bell b = (s.bell b).locked := State.bell_setBell_same s b _ hb
      have still : (s.setBell b (s.bell b).locked).lockHeld b = s.lockHeld b :=
        State.lockHeld_congr (s := s) (t := s.setBell b (s.bell b).locked) rfl (congrArg Bell.config bell :)
      have put : (s.setBell b (s.bell b).locked).LockFollows b := iff_of_true (congrArg Bell.swing bell :) (still.trans held)
      have ended := State.endRun_motorOnly (s.setBell b (s.bell b).locked) b .locked
      rw [State.followLock_enters held locked]
      exact put.of_same ended.lines (ended.config b) (ended.swing b)
  | false =>
    by_cases locked : (s.bell b).swing = .locked
    · have bell := State.bell_setBell_same s b ((s.bell b).unlocked s.nowMs) hb
      have still : (s.setBell b ((s.bell b).unlocked s.nowMs)).lockHeld b = s.lockHeld b :=
        State.lockHeld_congr (s := s) (t := s.setBell b ((s.bell b).unlocked s.nowMs)) rfl (by rw [bell, Bell.unlocked_config])
      rw [State.followLock_leaves held locked, State.LockFollows, still, bell, held]
      exact iff_of_false (Bell.unlocked_swing _ _) Bool.false_ne_true
    · have follows : s.LockFollows b := iff_of_false locked (Bool.eq_false_iff.1 held)
      rwa [State.followLock_self follows]

end

theorem State.followLock_held (s : State) (b : Nat) : Held s (s.followLock b) := by
  have entered : Held s (s.enterLocked b) := by
    rw [State.enterLocked_eq]
    exact (Held.of_calendar (s := s) (t := s.setBell b (s.bell b).locked) rfl).trans (State.endRun_held _ b .locked)
  have left : Held s (s.leaveLocked b) := .of_calendar (by rw [State.leaveLocked_unlocked]; rfl)
  exact .ite (fun _ => .ite (fun _ => .refl s) fun _ => entered) fun _ => .ite (fun _ => left) fun _ => .refl s

theorem State.followLocks_held (s : State) : Held s s.followLocks := .foldl _ (fun s i => s.followLock_held i) s

/-! ## What an action is told (R135) -/

section
variable {k j : Nat} {h : Handle} {o : Occasion} {x : Outcome}

/-- R135: the record of an occasion that is not RETIRING shows an outcome for an action. -/
def State.ShowsOutcome (s : State) (h : Handle) (j : Nat) (x : Outcome) : Prop :=
  ∃ z : Occasion, s.findOccasion h = some z ∧ z.state ≠ .retiring ∧ z.outcome[j]? = some x

theorem Told.shows (told : Told x s t) (shows : s.ShowsOutcome h j x) : t.ShowsOutcome h j x := by
  obtain ⟨y, found, live, entry⟩ := shows
  obtain ⟨z, found', state, -, entries⟩ := told.occasions h y found
  exact ⟨z, found', state ▸ live, (entries j).elim (·.trans entry) id⟩

theorem Released.shows (free : Released s t) (shows : s.ShowsOutcome h j x) : t.ShowsOutcome h j x := by
  obtain ⟨y, found, live, entry⟩ := shows
  obtain ⟨z, found', live', outcome⟩ := free.occasions h y found live
  exact ⟨z, found', live', by rw [outcome, entry]⟩

/-- R135: an action with its place in the outcome of the occasion of its context, which is not RETIRING. -/
structure State.Tells (s : State) (k j : Nat) (h : Handle) : Prop where
  context : (s.context k).map (·.occasion) = some h
  occasion : ∃ o : Occasion, s.findOccasion h = some o ∧ o.state ≠ .retiring ∧ j < o.outcome.length

theorem Told.tells (told : Told x s t) (tells : s.Tells k j h) : t.Tells k j h := by
  obtain ⟨context, o, found, live, place⟩ := tells
  obtain ⟨z, found', state, length, -⟩ := told.occasions h o found
  exact ⟨(told.contexts k).trans context, z, found', state ▸ live, by rw [length]; exact place⟩

theorem State.finishAction_shows (tells : s.Tells k j h) (x : Outcome) : (s.finishAction k j x).ShowsOutcome h j x := by
  obtain ⟨context, o, found, live, place⟩ := tells
  obtain ⟨c, stands, rfl⟩ := Option.map_eq_some_iff.1 context
  exact ⟨_, (State.findOccasion_finishAction stands found j x c.occasion).trans (if_pos rfl), live, List.getElem?_set_self place⟩

theorem State.sourcesTold_shows (mem : .action k j ∈ sources) (tells : s.Tells k j h) (b : Nat) (r : MotorReport) :
    (s.sourcesTold b r sources).ShowsOutcome h j (motorOutcome r) := by
  induction sources generalizing s with
  | nil => cases mem
  | cons x rest ih =>
    rw [State.sourcesTold_cons]
    rcases List.mem_cons.1 mem with rfl | mem
    · rw [State.sourceTold_action]
      exact (State.sourcesTold_told _ b r rest).shows (State.finishAction_shows tells _)
    · exact ih mem ((s.sourceTold_told b r x).tells tells)

/-- R54, R57: an action among the sources of a run that ends has the report as its outcome. -/
theorem State.runEnded_shows (mem : .action k j ∈ sources) (tells : s.Tells k j h) (b : Nat) (r : MotorReport) :
    (s.runEnded b sources r).ShowsOutcome h j (motorOutcome r) := by
  let off := s.setBell b { s.bell b with motor := .off }
  have claim : Told (motorOutcome r) s (off.claimEnded b) := .of_calendar (off.claimEnded_calendar b)
  exact State.sourcesTold_shows mem (claim.tells tells) b r

end

/-! ## The other bells (R46) -/

/-- What following the locks of other bells leaves of one: its ask may be admitted, and actions are told LOCKED. -/
structure Aside (b : Nat) (s t : State) : Prop where
  lines : t.lines = s.lines
  clock : t.clock = s.clock
  bell : t.bell b = { s.bell b with motor := (t.bell b).motor }
  kept : (s.bell b).motor.Kept (t.bell b).motor
  noClaim : s.NoClaim b → t.NoClaim b
  told : Told (motorOutcome .locked) s t

namespace Aside

theorem refl (b : Nat) (s : State) : Aside b s s := ⟨rfl, rfl, rfl, .refl _, id, .refl _ s⟩

theorem trans (h : Aside b s t) (k : Aside b t u) : Aside b s u :=
  ⟨k.lines.trans h.lines, k.clock.trans h.clock, by rw [k.bell, h.bell], h.kept.trans k.kept, k.noClaim ∘ h.noClaim,
    h.told.trans k.told⟩

theorem config (h : Aside b s t) : (t.bell b).config = (s.bell b).config := (congrArg Bell.config h.bell :)

theorem swing (h : Aside b s t) : (t.bell b).swing = (s.bell b).swing := (congrArg Bell.swing h.bell :)

theorem lockHeld (h : Aside b s t) : t.lockHeld b = s.lockHeld b := State.lockHeld_congr h.lines h.config

theorem nowMs (h : Aside b s t) : t.nowMs = s.nowMs := State.nowMs_of_clock h.clock

/-- Where the motor is OFF nothing of the bell changes. -/
theorem bell_off (h : Aside b s t) (off : (s.bell b).motor = .off) : t.bell b = s.bell b := by
  rw [h.bell, h.kept.off_iff.2 off, ← off]

end Aside

section
variable (other : b ≠ i)
include other

theorem State.setBell_aside (s : State) (x : Bell) : Aside b s (s.setBell i x) := by
  have bell : (s.setBell i x).bell b = s.bell b := State.bell_setBell_other s i b x (Ne.symm other)
  exact ⟨rfl, rfl, by rw [bell], by rw [bell]; exact .refl _, id, .of_calendar rfl⟩

theorem State.endRun_aside (s : State) : Aside b s (s.endRun i .locked) := by
  by_cases off : (s.bell i).motor = .off
  · rw [State.endRun_off off]
    exact .refl b s
  · rw [State.endRun_eq s i .locked off]
    obtain ⟨bell, kept⟩ := State.runEnded_other other s (s.bell i).motor.sources .locked
    exact ⟨s.runEnded_lines i _ _, s.runEnded_clock i _ _, bell, kept, State.runEnded_keeps_noClaim i _ _, s.runEnded_told i _ _⟩

theorem State.followLock_aside (s : State) : Aside b s (s.followLock i) := by
  unfold State.followLock
  split
  · split
    · exact .refl b s
    · exact (s.setBell_aside other _).trans (State.endRun_aside other _)
  · split
    · rw [State.leaveLocked_unlocked]
      exact s.setBell_aside other _
    · exact .refl b s

end

/-- Of acts for each index, those of other indices come before and after the one of an index. -/
theorem eachIndex_around {R : State → State → Prop} (refl : ∀ s, R s s) (trans : ∀ {s t u}, R s t → R t u → R s u)
    {act : Nat → State → State} (step : ∀ i s, b ≠ i → R s (act i s)) {n : Nat} (hb : b < n) (s : State) :
    ∃ v, R s v ∧ R (act b v) (eachIndex n act s) := by
  have before (n : Nat) (hn : n ≤ b) : R s (eachIndex n act s) := by
    induction n with
    | zero => exact refl s
    | succ n ih =>
      rw [eachIndex_succ]
      exact trans (ih (by omega)) (step n _ (by omega))
  induction n with
  | zero => cases hb
  | succ n ih =>
    rw [eachIndex_succ]
    by_cases last : b = n
    · subst last
      exact ⟨_, before b (Nat.le_refl b), refl _⟩
    · obtain ⟨v, start, rest⟩ := ih (by omega)
      exact ⟨v, start, trans rest (step n _ last)⟩

theorem State.followLocks_around (hb : b < 40) (s : State) : ∃ v, Aside b s v ∧ Aside b (v.followLock b) s.followLocks :=
  eachIndex_around (Aside.refl b) Aside.trans (fun _ s other => s.followLock_aside other) hb s

/-! ## Every bell (R46) -/

section
variable (hb : b < 40)
include hb

theorem State.followLocks_follows (s : State) : s.followLocks.LockFollows b := by
  obtain ⟨v, -, after⟩ := s.followLocks_around hb
  exact (v.followLock_follows hb).of_same after.lines after.config after.swing

theorem State.followLocks_enters_off (held : s.lockHeld b = true) (free : (s.bell b).swing ≠ .locked)
    (off : (s.bell b).motor = .off) : s.followLocks.bell b = (s.bell b).locked := by
  obtain ⟨v, before, after⟩ := s.followLocks_around hb
  have bell : v.bell b = s.bell b := before.bell_off off
  have put : (v.followLock b).bell b = (s.bell b).locked := by
    rw [State.followLock_enters (before.lockHeld.trans held) (by rw [bell]; exact free), State.enterLocked_off hb (by rw [bell]; exact off),
      State.bell_setBell_same v b _ hb, bell]
  rw [after.bell_off (by rw [put]; exact off), put]

theorem State.followLocks_leaves (unheld : s.lockHeld b = false) (locked : (s.bell b).swing = .locked) :
    (s.bell b).motor.Kept (s.followLocks.bell b).motor ∧
      s.followLocks.bell b = { (s.bell b).unlocked s.nowMs with motor := (s.followLocks.bell b).motor } := by
  obtain ⟨v, before, after⟩ := s.followLocks_around hb
  have put : (v.followLock b).bell b = { (s.bell b).unlocked s.nowMs with motor := (v.bell b).motor } := by
    rw [State.followLock_leaves (before.lockHeld.trans unheld) (before.swing.trans locked), State.bell_setBell_same v b _ hb,
      before.nowMs, before.bell, Bell.unlocked_withMotor]
  refine ⟨before.kept.trans ?_, ?_⟩
  · have kept := after.kept
    rwa [congrArg Bell.motor put] at kept
  · rw [after.bell, put]

theorem State.followLocks_stays (same : s.LockFollows b) : (s.bell b).motor.Kept (s.followLocks.bell b).motor ∧
    s.followLocks.bell b = { s.bell b with motor := (s.followLocks.bell b).motor } := by
  obtain ⟨v, before, after⟩ := s.followLocks_around hb
  rw [State.followLock_self (same.of_same before.lines before.config before.swing)] at after
  have both := before.trans after
  exact ⟨both.kept, both.bell⟩

/-- R46, R56: the run of a bell that enters LOCKED has ended with LOCKED. -/
theorem State.followLocks_enters_asked (held : s.lockHeld b = true) (free : (s.bell b).swing ≠ .locked)
    (asked : (s.bell b).motor ≠ .off ∧ (s.bell b).motor.sources = sources) :
    s.followLocks.bell b = { (s.bell b).locked with
      motor := .off, lastOutcome := if .command ∈ sources then some .locked else (s.bell b).lastOutcome } ∧
    s.followLocks.NoClaim b ∧
    ∀ k j h, .action k j ∈ sources → s.Tells k j h → s.followLocks.ShowsOutcome h j (motorOutcome .locked) := by
  obtain ⟨v, before, after⟩ := s.followLocks_around hb
  let w := v.setBell b (v.bell b).locked
  have ends : v.followLock b = w.runEnded b sources .locked := by
    rw [State.followLock_enters (before.lockHeld.trans held) (by rw [before.swing]; exact free),
      State.enterLocked_asked hb ⟨mt before.kept.off_iff.1 asked.1, before.kept.sources.trans asked.2⟩]
  have put : w.bell b = (v.bell b).locked := State.bell_setBell_same v b _ hb
  have bell : (v.followLock b).bell b = { (s.bell b).locked with
      motor := .off, lastOutcome := if .command ∈ sources then some .locked else (s.bell b).lastOutcome } := by
    rw [ends, State.runEnded_bell hb, put, before.bell]
    rfl
  refine ⟨(after.bell_off (by rw [bell])).trans bell, after.noClaim (by rw [ends]; exact w.runEnded_noClaim b _ _), ?_⟩
  intro k j h mem tells
  have entered : w.Tells k j h := (Told.of_calendar (x := motorOutcome .locked) (s := v) (t := w) rfl).tells (before.told.tells tells)
  have shown := State.runEnded_shows mem entered b .locked
  rw [← ends] at shown
  exact after.told.shows shown

end

/-! ## The edge of a key and of the ringing switch (R40, R46) -/

theorem State.onEdge_bellKey {r : LineRecord} (f : r.function = .bellKey) (bound : r.bound = some b) (s : State) (active : Bool) :
    s.onEdge r active = s.followLock b := by
  unfold State.onEdge
  rw [f, bound]

theorem State.onEdge_ringingSwitch {r : LineRecord} (f : r.function = .ringingSwitch) (s : State) (active : Bool) :
    s.onEdge r active = s.followLocks := by
  unfold State.onEdge
  rw [f]

/-- R40: the level of a line is its filtered state. -/
def State.taken (s : State) (i : Nat) : State := s.setLine i { s.line i with filtered := (s.line i).shown, changing := none }

section
variable {dt : Nat} (hi : i < 64) (ready : (s.elapse dt).filterReady i = true)
include hi ready

theorem exec_edge_bellKey (f : (s.line i).record.function = .bellKey) (bound : (s.line i).record.bound = some b) :
    exec (.inputFilterExpiry dt i) s = .next (((s.elapse dt).taken i).followLock b).settleContexts := by
  have acts := State.onEdge_bellKey f bound ((s.elapse dt).taken i) (s.line i).shown
  exact (exec_inputFilterExpiry_ready hi ready).trans (congrArg (fun u : State => Host.Outcome.next u.settleContexts) acts)

theorem exec_edge_ringingSwitch (f : (s.line i).record.function = .ringingSwitch) :
    exec (.inputFilterExpiry dt i) s = .next ((s.elapse dt).taken i).followLocks.settleContexts := by
  have acts := State.onEdge_ringingSwitch f ((s.elapse dt).taken i) (s.line i).shown
  exact (exec_inputFilterExpiry_ready hi ready).trans (congrArg (fun u : State => Host.Outcome.next u.settleContexts) acts)

end

/-! ## The writes of a bell and of a line (R38, R46, R183) -/

/-- R44, R45, R46: an AMEND of a bell has its lock followed last. -/
theorem State.applyBell_held (s : State) (b : Nat) (c : BellConfig) : ∃ v, s.applyBell b c = v.followLock b ∧ Held s v := by
  let w := s.amendedBell b c
  have started : Held w (w.startSwing b) := .of_calendar rfl
  have stopped : Held w (w.stopSwing b) := (Held.of_calendar (s := w) (t := w.setBell b _) rfl).trans (State.endRun_held _ b .stopped)
  have amended : Held s w := .of_calendar rfl
  exact ⟨_, rfl, amended.trans (.ite (fun _ => started) fun _ => .ite (fun _ => stopped) fun _ =>
    .ite (fun _ => w.endRun_held b .stopped) fun _ => .refl w)⟩

theorem State.applyBell_follows (hb : b < 40) (unwaited : s.firstWaiting = none) (c : BellConfig) :
    (s.applyBell b c).settleContexts.LockFollows b := by
  obtain ⟨v, acts, amended⟩ := s.applyBell_held b c
  rw [acts]
  exact (v.followLock_follows hb).released (State.settleContexts_released ((amended.trans (v.followLock_held b)).unwaited unwaited))

theorem State.emptyWindow_held (s : State) : Held s s.emptyWindow := ⟨fun _ => id, fun _ => rfl⟩

theorem State.emptyWindow_follows (h : s.LockFollows b) : s.emptyWindow.LockFollows b := h

theorem State.applyLine_follows (hb : b < 40) (unwaited : s.firstWaiting = none) (i : Nat) (r : LineRecord) :
    (s.applyLine i r).LockFollows b := by
  obtain ⟨l, acts⟩ : ∃ l, s.applyLine i r = State.settleContexts (if (s.setLine i l).followLocks.ambientLine = s.ambientLine
    then (s.setLine i l).followLocks else (s.setLine i l).followLocks.emptyWindow) := ⟨_, rfl⟩
  have put : Held s (s.setLine i l) := .of_calendar rfl
  have followed := put.trans (s.setLine i l).followLocks_held
  have emptied : Held s (s.setLine i l).followLocks.emptyWindow := followed.trans (State.emptyWindow_held _)
  have follows := (s.setLine i l).followLocks_follows hb
  rw [acts]
  split
  · exact follows.released (State.settleContexts_released (followed.unwaited unwaited))
  · exact (State.emptyWindow_follows follows).released (State.settleContexts_released (emptied.unwaited unwaited))

theorem State.LockFollows.closeWrite (h : s.LockFollows b) (x : Option Response) : (s.closeWrite x).LockFollows b :=
  h.of_same (by cases x <;> rfl) (by rw [State.closeWrite_bell]) (by rw [State.closeWrite_bell])

/-- R183: in MAINS the end of a write brings its change, and the link closes it. -/
theorem exec_writeEnd_mains {w : Write} {rest : List Write} (dt : Nat) (mains : s.time.power = .mains)
    (writes : s.memory.writes = w :: rest) : exec (.recordMemoryWriteEnd dt) s
      = .next ((State.applyWrite { s.elapse dt with memory.writes := rest } w.effect).closeWrite w.response) :=
  exec_endWrite dt writes rfl (fun _ => rfl) fun reserve => absurd mains reserve

/-- R46: a reset leaves a bell LOCKED exactly while a condition holds. -/
theorem State.takeResetValues_follows (hb : b < 40) (s : State) (cold keepStart : Bool) :
    (s.takeResetValues cold keepStart).LockFollows b := by
  have swing := congrArg Bell.swing ((s.takeResetValues_taken cold keepStart).bells b hb)
  dsimp only at swing
  rw [State.LockFollows, swing]
  split
  next held => exact iff_of_true rfl held
  next unheld => split <;> exact iff_of_false nofun unheld

/-! ## The obligation -/

/-- Settles O28: every bell is LOCKED exactly while a condition holds after each event that can change one, and at the edges of a key and
of the ringing switch the bells that enter LOCKED end their runs and those that leave it start afresh. -/
theorem locksFollowTheirConditions : Obligations.LocksFollowTheirConditions := by
  unfold Obligations.LocksFollowTheirConditions
  intro s dt i unwaited e u left
  refine ⟨?key, ?switch, ?bell, ?line, fun cold keepStart b hb => s.takeResetValues_follows hb cold keepStart, State.lockHeld_iff⟩
  case key =>
    intro b hi ready f bound hb x locked
    have acts : exec (.inputFilterExpiry dt i) s = .next (u.followLock b).settleContexts := exec_edge_bellKey hi ready f bound
    have becomes {v : State} (h : u.followLock b = v) : exec (.inputFilterExpiry dt i) s = .next v.settleContexts := h ▸ acts
    refine ⟨⟨_, acts, ?_⟩, fun held free => ⟨fun off => becomes ?_, fun sources asked => becomes ?_⟩,
      fun unheld locked => becomes (State.followLock_leaves (s := u) unheld locked),
      fun same => becomes (State.followLock_self same.symm)⟩
    · exact (u.followLock_follows hb).released (State.settleContexts_released ((u.followLock_held b).unwaited unwaited))
    · exact (State.followLock_enters (s := u) held free).trans (State.enterLocked_off (s := u) hb off)
    · exact (State.followLock_enters (s := u) held free).trans (State.enterLocked_asked (s := u) hb (MotorRun.asked_iff.1 asked))
  case switch =>
    intro hi ready f
    have free := State.settleContexts_released (u.followLocks_held.unwaited unwaited)
    have acts : exec (.inputFilterExpiry dt i) s = .next u.followLocks.settleContexts := exec_edge_ringingSwitch hi ready f
    refine ⟨_, acts, fun b hb => ⟨(u.followLocks_follows hb).released free, ?_⟩⟩
    have bell : u.followLocks.settleContexts.bell b = u.followLocks.bell b := free.bell b
    intro x kept
    refine ⟨fun held unlocked => ⟨fun off => ?_, fun sources asked => ?_⟩, fun unheld locked => ?_, fun same => ?_⟩
    · exact bell.trans (State.followLocks_enters_off (s := u) hb held unlocked off)
    · obtain ⟨ends, noClaim, shows⟩ := State.followLocks_enters_asked (s := u) hb held unlocked (MotorRun.asked_iff.1 asked)
      obtain ⟨asks, admitted⟩ := free.noClaim noClaim
      refine ⟨bell.trans ends, asks, admitted, fun k j c o mem stands found firing place => ?_⟩
      have tells : u.Tells k j c.occasion := ⟨congrArg (Option.map Context.occasion) stands, o, found, by rw [firing]; nofun, place⟩
      obtain ⟨z, found', -, entry⟩ := free.shows (shows k j c.occasion mem tells)
      exact ⟨z, found', entry⟩
    · have leaves := State.followLocks_leaves (s := u) hb unheld locked
      rwa [← bell] at leaves
    · have stays := State.followLocks_stays (s := u) hb same.symm
      rwa [← bell] at stays
  case bell =>
    intro b c x rest mains hb writes
    let v : State := { e with memory.writes := rest }
    have follows : (v.applyBell b c).settleContexts.LockFollows b := State.applyBell_follows (s := v) hb unwaited c
    exact ⟨_, exec_writeEnd_mains dt mains writes, follows.closeWrite x⟩
  case line =>
    intro j r x rest mains writes
    let v : State := { e with memory.writes := rest }
    have follows (b : Nat) (hb : b < 40) : (v.applyLine j r).LockFollows b := State.applyLine_follows (s := v) hb unwaited j r
    exact ⟨_, exec_writeEnd_mains dt mains writes, fun b hb => (follows b hb).closeWrite x⟩

end Sys2Proof.Machine
end

section
/-! A strike line rises only by the raise of a stroke (R60, R69): every other act of a command leaves each line released that was. -/

namespace Sys2Proof.Machine

variable {s t u : State}

/-! ## Acts that raise no strike line -/

/-- No strike line is active in `t` that was not in `s`. -/
def State.LinesKept (s t : State) : Prop := ∀ b, (t.stroke b).lineIsActive = true → (s.stroke b).lineIsActive = true

theorem Quiet.linesKept (q : Quiet true s t) : s.LinesKept t := q.strokes rfl

theorem State.LinesKept.refl (s : State) : s.LinesKept s := fun _ => id

theorem State.LinesKept.trans (h : s.LinesKept t) (k : t.LinesKept u) : s.LinesKept u := fun b => h b ∘ k b

theorem State.LinesKept.of_hammers (h : t.hammers = s.hammers) : s.LinesKept t := fun b k => by
  rw [State.stroke, ← h]
  exact k

theorem State.LinesKept.whenMains {act : State → State} (k : s.LinesKept (act s)) : s.LinesKept (s.whenMains act) := by
  unfold State.whenMains
  split
  · exact k
  · exact .refl s

theorem Worked.linesKept (w : Worked s t) : s.LinesKept t := by
  cases w with
  | quietly q => exact q.linesKept
  | asks => exact .of_hammers rfl
  | waits => exact .of_hammers rfl
  | sets basis d n hn => exact fun b k => ((s.takeSetTime_quiet n).linesKept b :) k
  | restarts => exact fun b => (s.requestRestart_quiet (r := true)).linesKept b

theorem State.takeTask_linesKept (s : State) (k : Task) : s.LinesKept (s.takeTask k) := by
  unfold State.takeTask
  dsimp only
  split
  · exact fun b => (State.workTask_worked _ _ fun p hp => by cases hp; rfl).linesKept b
  · exact .of_hammers rfl

theorem State.hostRequest_linesKept (s : State) (q : Request) : s.LinesKept (s.hostRequest q) := by
  unfold State.hostRequest
  dsimp only
  split
  · split
    · exact fun b => State.takeTask_linesKept _ _ b
    · exact .of_hammers rfl
  · exact .refl s

theorem State.routeRequest_linesKept (s : State) : s.LinesKept s.routeRequest := by
  unfold State.routeRequest
  split
  · exact .refl s
  · rename_i q hq
    split
    · refine (s.setPhaseOfRequest_quiet _).linesKept.trans (State.workTask_worked _ _ fun p hp => ?_).linesKept
      simp only [State.setPhaseOfRequest, hq, Option.map_some, Option.some.injEq] at hp
      rw [← hp]
    · exact .refl s

theorem State.resumeAmendDial_linesKept (s : State) : s.LinesKept s.resumeAmendDial := by
  rcases s.resumeAmendDial_worked with e | ⟨i, a, x, e⟩ <;> rw [e]
  · exact .refl s
  · exact .of_hammers rfl

theorem State.finishSetTime_linesKept (s : State) (atMark : Bool) : s.LinesKept (s.finishSetTime atMark) := by
  unfold State.finishSetTime
  split
  · exact .refl s
  · exact fun b k => ((s.takeSetTime_quiet _).linesKept b :) k

theorem State.setTimeAtEdge_linesKept (s : State) : s.LinesKept s.setTimeAtEdge := by
  unfold State.setTimeAtEdge
  split
  · exact s.finishSetTime_linesKept true
  · exact .refl s

theorem State.setTimeAtTimeout_linesKept (s : State) : s.LinesKept s.setTimeAtTimeout := by
  unfold State.setTimeAtTimeout
  split
  · exact s.finishSetTime_linesKept false
  · exact .refl s

theorem State.countSecond_linesKept (s : State) : s.LinesKept s.countSecond :=
  let ⟨_, q⟩ := s.countSecond_quiet (r := true)
  fun b => q.linesKept b

theorem State.endSecond_linesKept (s : State) : s.LinesKept s.endSecond := by
  unfold State.endSecond
  split
  · exact s.countSecond_linesKept
  · exact .refl s

theorem State.alignToMark_linesKept (s : State) : s.LinesKept s.alignToMark := by
  unfold State.alignToMark
  dsimp only
  split
  · split
    · exact .of_hammers rfl
    · split
      · exact fun b => State.countSecond_linesKept _ b
      · exact .refl s
  · exact .refl s

theorem State.enterReserve_linesKept (s : State) : s.LinesKept s.enterReserve := fun b =>
  (s.enterReserve_quiet (r := true)).linesKept b

theorem State.loseMains_linesKept (s : State) : s.LinesKept s.loseMains := by
  unfold State.loseMains
  split
  · exact s.enterReserve_linesKept
  · exact .refl s

theorem State.beginQualification_linesKept (s : State) : s.LinesKept s.beginQualification := by
  unfold State.beginQualification
  split
  · exact .of_hammers rfl
  · exact .refl s

theorem State.cancelQualification_linesKept (s : State) : s.LinesKept s.cancelQualification := by
  unfold State.cancelQualification
  split
  · exact .refl s
  · split
    · exact .of_hammers rfl
    · exact .refl s

theorem State.completeQualification_linesKept (s : State) : s.LinesKept s.completeQualification := by
  unfold State.completeQualification
  split
  · exact .refl s
  · split
    · split
      · exact fun b => (s.coldStart_quiet (r := true)).linesKept b
      · exact fun b => (s.supplyReturn_quiet (r := true)).linesKept b
    · exact .refl s

theorem State.powerUpCold_linesKept (s : State) : s.LinesKept s.powerUpCold := by
  unfold State.powerUpCold
  dsimp only
  have lost : s.LinesKept (if s.inMains then s.enterReserve else s) := by
    split
    · exact s.enterReserve_linesKept
    · exact .refl s
  generalize (if s.inMains then s.enterReserve else s) = u at lost
  exact lost.trans (.of_hammers rfl)

theorem State.assertRstn_linesKept (s : State) : s.LinesKept s.assertRstn := by
  unfold State.assertRstn
  dsimp only
  split
  · split <;> exact fun b => (State.requestRestart_quiet (r := true) _).linesKept b
  · exact fun _ => id

theorem State.restartIfOpen_linesKept (s : State) : s.LinesKept s.restartIfOpen := by
  unfold State.restartIfOpen
  split
  · exact fun b => (s.restartReset_quiet (r := true)).linesKept b
  · exact .refl s

theorem State.endFrame_linesKept (s : State) (bits : List Bool) : s.LinesKept (s.endFrame bits) := by
  unfold State.endFrame
  split
  · exact .of_hammers rfl
  · dsimp only
    split
    · unfold State.takeContent
      split
      · exact .of_hammers rfl
      · exact .of_hammers rfl
      · exact fun b => State.takeTask_linesKept _ _ b
    · exact .of_hammers rfl

theorem State.applyWrite_linesKept (s : State) (e : WriteEffect) : s.LinesKept (s.applyWrite e) := by
  rcases e.plain_or with p | ⟨x, rfl⟩ | ⟨c, rfl⟩
  · exact (s.applyWrite_quiet e p).linesKept
  · exact fun b => (s.applyTimeSettings_quiet (r := true) x).linesKept b
  · exact fun b => (State.tryAsks_quiet (r := true) { s with feeder.capacity := c }).linesKept b

theorem State.storeWrite_linesKept (s : State) (e : WriteEffect) : s.LinesKept (s.storeWrite e) := by
  rcases e.plain_or with p | ⟨x, rfl⟩ | ⟨c, rfl⟩
  · exact (s.storeWrite_quiet e p).linesKept
  · exact .of_hammers rfl
  · exact .of_hammers rfl

theorem State.endWrite_linesKept (s : State) : s.LinesKept s.endWrite := by
  unfold State.endWrite
  split
  · exact .refl s
  · rename_i w rest _
    dsimp only
    have acted : s.LinesKept (if s.time.power = .mains then ({ s with memory.writes := rest } : State).applyWrite w.effect
        else ({ s with memory.writes := rest } : State).storeWrite w.effect) := by
      split
      · exact fun b => State.applyWrite_linesKept _ _ b
      · exact fun b => State.storeWrite_linesKept _ _ b
    have released := acted.trans (State.releaseRequest_quiet _).linesKept
    split
    · exact released
    · exact released.trans (State.answer_quiet _ _).linesKept

/-! ## The raise of a stroke (R60) -/

/-- Every strike line that rises from `s` to `t` belongs to a bell that could be struck in `s` (R60, R69). -/
def State.StrikesFairly (s t : State) : Prop :=
  ∀ b, (t.stroke b).lineIsActive = true → (s.stroke b).lineIsActive = false → s.mayStrike b = true

theorem State.LinesKept.strikesFairly (h : s.LinesKept t) : s.StrikesFairly t := fun b up down =>
  absurd (h b up) (Bool.eq_false_iff.1 down)

theorem State.raiseLine_strikesFairly (s : State) (i : Nat) (k : Stroke) : s.StrikesFairly (s.raiseLine i k) := by
  unfold State.raiseLine
  split
  · rename_i may
    intro b up down
    rw [State.stroke_setStroke] at up
    split at up
    · rename_i same
      exact same.1 ▸ may
    · exact absurd up (Bool.eq_false_iff.1 down)
  · exact ((s.setStroke_quiet i .idle nofun).trans (State.countSkip_quiet _ _)).linesKept.strikesFairly

theorem State.reachRaise_strikesFairly (s : State) (i : Nat) : s.StrikesFairly (s.reachRaise i) := by
  unfold State.reachRaise
  split
  · split
    · exact s.raiseLine_strikesFairly i _
    · exact (LinesKept.refl s).strikesFairly
  · exact (LinesKept.refl s).strikesFairly

theorem State.setStroke_requested_linesKept {k : Stroke} (released : k.lineActive = false) (s : State) (i : Nat) :
    s.LinesKept (s.setStroke i (.requested k)) :=
  (s.setStroke_quiet i (.requested k) fun up => absurd (released.symm.trans up) Bool.false_ne_true).linesKept

/-- A stroke that is taken may be raised at once: the bell and the gate are read as they were. -/
theorem State.setStroke_raise_strikesFairly {k : Stroke} (released : k.lineActive = false) (s : State) (i : Nat) :
    s.StrikesFairly ((s.setStroke i (.requested k)).raiseLine i k) := fun b up down => by
  have kept := s.setStroke_requested_linesKept released i
  have fair := (s.setStroke i (.requested k)).raiseLine_strikesFairly i k b up
    (Bool.eq_false_iff.2 fun k => Bool.eq_false_iff.1 down (kept b k))
  exact fair

theorem State.strikeRequest_strikesFairly (s : State) (i sounding velocity : Nat) (q : Requester) :
    s.StrikesFairly (s.strikeRequest i sounding velocity q) := by
  unfold State.strikeRequest
  dsimp only
  split
  · split
    · exact s.setStroke_raise_strikesFairly rfl i
    · exact (s.setStroke_requested_linesKept rfl i).strikesFairly
  · exact (s.countSkip_quiet q).linesKept.strikesFairly

theorem State.requestBlow_strikesFairly (s : State) : s.StrikesFairly s.requestBlow := by
  unfold State.requestBlow
  split
  · exact (LinesKept.refl s).strikesFairly
  · split
    · exact (LinesKept.refl s).strikesFairly
    · split
      · split
        · exact (LinesKept.of_hammers rfl).strikesFairly
        · exact fun b => State.strikeRequest_strikesFairly _ _ _ _ _ b
      · exact (LinesKept.refl s).strikesFairly

theorem State.requestToll_strikesFairly (s : State) (c : Nat) : s.StrikesFairly (s.requestToll c) := by
  unfold State.requestToll
  split
  · exact (LinesKept.refl s).strikesFairly
  · split
    · exact (LinesKept.refl s).strikesFairly
    · split
      · exact fun b => State.strikeRequest_strikesFairly _ _ _ _ _ b
      · exact (LinesKept.refl s).strikesFairly

/-! ## Every command -/

/-- A step that lets its counts pass and acts: a line that rises belongs to a bell that could be struck, in MAINS. -/
def State.StrikesInMains (s t : State) : Prop :=
  ∀ b, (t.stroke b).lineIsActive = true → (s.stroke b).lineIsActive = false → s.mayStrike b = true ∧ s.inMains

theorem State.LinesKept.strikesInMains (h : s.LinesKept t) : s.StrikesInMains t := fun b up down =>
  absurd (h b up) (Bool.eq_false_iff.1 down)

theorem State.StrikesFairly.whenMains {act : State → State} (k : s.StrikesFairly (act s)) : s.StrikesInMains (s.whenMains act) := by
  unfold State.whenMains
  split
  · exact fun b up down => ⟨k b up down, ‹_›⟩
  · exact (LinesKept.refl s).strikesInMains

/-- What a command does is said of its act once its counts have passed; the strokes, the bells and the gate are then as they were. -/
theorem State.StrikesInMains.of_happen {dt : Nat} {act : State → State} (k : ∀ s, State.StrikesInMains s (act s))
    (h : happen dt act s = .next t) : s.StrikesInMains t := by
  obtain rfl := Host.Outcome.next.inj h
  exact fun b => k (s.elapse dt) b

theorem State.StrikesInMains.of_happenAt {dt i bound : Nat} {act : State → State} (k : ∀ s, State.StrikesInMains s (act s))
    (h : happenAt dt i bound act s = .next t) : s.StrikesInMains t := by
  unfold happenAt at h
  split at h
  · exact .of_happen k h
  · cases h

/-- An act that raises no line in itself raises none as a command in MAINS. -/
theorem State.StrikesInMains.quietly {act : State → State} (q : ∀ s, Quiet true s (act s)) (s : State) :
    s.StrikesInMains (s.whenMains act) := (LinesKept.whenMains (q s).linesKept).strikesInMains

open State.StrikesInMains in
/-- A strike line rises only for a bell that may be struck: by a raise moment, or as a blow that is taken is raised at once. -/
theorem exec_strikesInMains {c : Instr} (h : exec c s = .next t) : s.StrikesInMains t := by
  cases c with
  | raiseMoment => exact of_happenAt (fun s => (s.reachRaise_strikesFairly _).whenMains) h
  | blowRequestMoment => exact of_happen (fun s => s.requestBlow_strikesFairly.whenMains) h
  | tollRequestMoment => exact of_happenAt (fun s => (s.requestToll_strikesFairly _).whenMains) h
  | secondEnd => exact of_happen (fun s => s.endSecond_linesKept.strikesInMains) h
  | smarkEdge => exact of_happen (fun s => s.alignToMark_linesKept.strikesInMains) h
  | setTimeAtMarkEdge => exact of_happen (fun s => (State.LinesKept.whenMains s.setTimeAtEdge_linesKept).strikesInMains) h
  | setTimeMarkTimeout =>
    exact of_happen (fun s => (State.LinesKept.whenMains s.setTimeAtTimeout_linesKept).strikesInMains) h
  | reserveEntry => exact of_happen (fun s => s.loseMains_linesKept.strikesInMains) h
  | msenseQualificationStart => exact of_happen (fun s => s.beginQualification_linesKept.strikesInMains) h
  | msenseQualificationCancel => exact of_happen (fun s => s.cancelQualification_linesKept.strikesInMains) h
  | msenseQualificationExpiry => exact of_happen (fun s => s.completeQualification_linesKept.strikesInMains) h
  | countingDomainPowerUp => exact of_happen (fun s => s.powerUpCold_linesKept.strikesInMains) h
  | pinLevelChange => exact of_happenAt (fun s => (s.changePin_quiet _ _ _).linesKept.strikesInMains) h
  | inputFilterExpiry =>
    exact of_happenAt (fun s => (Quiet.ite (fun _ => s.takeEdge_quiet _) fun _ => .refl _ s).linesKept.strikesInMains) h
  | quietTimerExpiry => exact of_happenAt (quietly fun s => (s.expireQuiet_quiet _).trans (State.settleContexts_quiet _)) h
  | settleTimeExpiry => exact of_happenAt (quietly fun s => s.settleBell_quiet _) h
  | restRuleExpiry => exact of_happenAt (quietly fun s => s.tryImpulse_quiet _) h
  | impulseEnd => exact of_happenAt (quietly fun s => s.endImpulse_quiet _) h
  | noCurrent => exact of_happenAt (quietly fun s => s.missCurrent_quiet _) h
  | deferredReconciliation => exact of_happenAt (quietly fun s => s.settleOwed_quiet _) h
  | deferredDialAmend => exact of_happen (fun s => (State.LinesKept.whenMains s.resumeAmendDial_linesKept).strikesInMains) h
  | deferredSetDial => exact of_happen (quietly fun s => s.resumeSetDial_quiet) h
  | pendingTimeout => exact of_happenAt (quietly fun s => (s.timeOutPending_quiet _).trans (State.settleContexts_quiet _)) h
  | runEnd => exact of_happenAt (quietly fun s => (s.reachRunEnd_quiet _).trans (State.settleContexts_quiet _)) h
  | stallWatchExpiry => exact of_happenAt (quietly fun s => (s.watchStall_quiet _).trans (State.settleContexts_quiet _)) h
  | pulseEnd => exact of_happenAt (quietly fun s => s.endPulse_quiet _) h
  | noAnswer => exact of_happenAt (quietly fun s => s.missAnswer_quiet _) h
  | stuck => exact of_happenAt (quietly fun s => s.stickHammer_quiet _) h
  | recoveryEnd => exact of_happenAt (quietly fun s => s.endRecovery_quiet _) h
  | rstnAsserted => exact of_happen (fun s => s.assertRstn_linesKept.strikesInMains) h
  | rstnReleased => exact of_happen (fun s => State.LinesKept.strikesInMains (t := s.releaseRstn) fun _ => id) h
  | restartReset => exact of_happen (fun s => s.restartIfOpen_linesKept.strikesInMains) h
  | stepBoundary => exact of_happen (quietly fun s => s.reachBoundary_quiet) h
  | endMoment => exact of_happen (quietly fun s => s.reachEnd_quiet.trans (State.settleContexts_quiet _)) h
  | tollTakeUp => exact of_happenAt (quietly fun s => s.takeUpToll_quiet _) h
  | tollEnd => exact of_happenAt (quietly fun s => (s.reachTollEnd_quiet _).trans (State.settleContexts_quiet _)) h
  | dueReached => exact of_happen (quietly fun s => s.reachFirst_quiet.trans (State.settleContexts_quiet _)) h
  | graceExpiry => exact of_happen (quietly fun s => s.expireGrace_quiet.trans (State.settleContexts_quiet _)) h
  | actionStart => exact of_happenAt (quietly fun s => (s.startFirstDue_quiet _).trans (State.settleContexts_quiet _)) h
  | duskConfirmed =>
    exact of_happen (quietly fun s => .ite (fun _ => s.confirmDusk_quiet.trans (State.settleContexts_quiet _))
      fun _ => .refl _ s) h
  | sensorFault => exact of_happen (quietly fun s => .ite (fun _ => s.faultSensor_quiet) fun _ => .refl _ s) h
  | frameBoundary => exact of_happen (fun s => s.passBoundary_quiet.linesKept.strikesInMains) h
  | standingEntryEnd => exact of_happen (quietly fun s => s.endFirstStanding_quiet) h
  | frameBegin => exact of_happen (fun s => s.beginFrame_quiet.linesKept.strikesInMains) h
  | frameEnd => exact of_happen (fun s => (s.endFrame_linesKept _).strikesInMains) h
  | requestRouted => exact of_happen (fun s => (State.LinesKept.whenMains s.routeRequest_linesKept).strikesInMains) h
  | recordMemoryWriteEnd => exact of_happen (fun s => s.endWrite_linesKept.strikesInMains) h
  | _ => exact of_happen (fun s => (s.hostRequest_linesKept _).strikesInMains) h

/-- R60, R69: what the raise of a line tests. -/
theorem State.mayStrike_iff (s : State) (i : Nat) : s.mayStrike i = true ↔
    s.hammers.gate = .closed ∧ (s.bell i).swing = .atRest ∧ (s.bell i).config.hammerInService = true := by
  simp [State.mayStrike, and_assoc]

/-- Settles O9: a step idles, or is a command, whose one rising line is tested as it rises. -/
theorem strikeLineRisesOnlyAtRest : Obligations.StrikeLineRisesOnlyAtRest := by
  unfold Obligations.StrikeLineRisesOnlyAtRest
  intro s t b h up down
  unfold step at h
  split at h
  · obtain rfl := Host.Outcome.next.inj h
    exact absurd up (Bool.eq_false_iff.1 down)
  · obtain ⟨may, mains⟩ := exec_strikesInMains h b up down
    obtain ⟨gate, rest, hammer⟩ := (State.mayStrike_iff _ b).1 may
    exact ⟨rest, hammer, mains, gate⟩

end Sys2Proof.Machine
end

section
/-! A stroke from its raise moment on (R60 to R65): the raise or the LOCKED blow, the pulse, the edges of BUSY, the recovery and the
hammer faults. -/

namespace Sys2Proof.Machine

variable {s t : State} {b : Nat} {k : Stroke}

/-! ## What a skip is counted by (R101, R108, R109) -/

theorem State.countSkip_performance {n : Nat} {p : Performance} (plays : s.chime.performance = some p) (own : p.entry.arrival = n) :
    s.countSkip (.performance n) = { s with chime.performance := some { p with skipped := min 65535 (p.skipped + 1) } } := by
  unfold State.countSkip
  dsimp only
  rw [plays]
  exact if_pos own

theorem State.countSkip_performance_gone {n : Nat} (gone : ∀ p, s.chime.performance = some p → p.entry.arrival ≠ n) :
    s.countSkip (.performance n) = s := by
  unfold State.countSkip
  dsimp only
  split
  next => rfl
  next p plays => exact if_neg (gone p plays)

theorem State.countSkip_toll {c run : Nat} {x : TollRun} (tolls : s.toll c = some x) (own : x.run = run) :
    s.countSkip (.toll c run) = s.setToll c (some { x with skipped := x.skipped + 1 }) := by
  unfold State.countSkip
  dsimp only
  rw [tolls]
  exact if_pos own

theorem State.countSkip_toll_gone {c run : Nat} (gone : ∀ x, s.toll c = some x → x.run ≠ run) : s.countSkip (.toll c run) = s := by
  unfold State.countSkip
  dsimp only
  split
  next => rfl
  next x tolls => exact if_neg (gone x tolls)

/-! ## The raise moment (R60, R61, R62, R69) -/

/-- A stroke as its line rises at a moment (R60). -/
def Stroke.risen (k : Stroke) (now : Nat) : Stroke := { k with raised := true, risenAt := now, lineActive := true }

theorem State.raiseLine_none (may : s.mayStrike b = true) (feedback : k.feedback = .none) :
    s.raiseLine b k = s.setStroke b (.striking (k.risen s.nowMs)) := by
  rw [State.raiseLine, if_pos may]
  exact congrArg (s.setStroke b) (if_pos feedback)

theorem State.raiseLine_busy (may : s.mayStrike b = true) (feedback : k.feedback = .busy) :
    s.raiseLine b k = s.setStroke b (.requested (k.risen s.nowMs)) := by
  rw [State.raiseLine, if_pos may]
  have answered : k.feedback ≠ .none := by simp [feedback]
  exact congrArg (s.setStroke b) (if_neg answered)

theorem State.raiseLine_locked (may : s.mayStrike b = false) : s.raiseLine b k = (s.setStroke b .idle).countSkip k.requester :=
  if_neg (Bool.eq_false_iff.1 may)

theorem State.not_mayStrike (h : (s.bell b).swing ≠ .atRest ∨ (s.bell b).config.hammerInService = false) : s.mayStrike b = false := by
  refine Bool.eq_false_iff.2 fun may => ?_
  obtain ⟨-, rest, hammer⟩ := (State.mayStrike_iff s b).1 may
  exact h.elim (· rest) fun out => absurd hammer (Bool.eq_false_iff.1 out)

theorem State.reachRaise_due (taken : s.stroke b = .requested k) (low : k.raised = false) (due : k.sounding ≤ s.nowMs + k.lead)
    (closed : s.hammers.gate = .closed) : s.reachRaise b = s.raiseLine b k := by
  unfold State.reachRaise
  rw [taken]
  exact if_pos (by simp [low, Stroke.raiseDue, due, closed])

theorem State.reachRaise_waits (taken : s.stroke b = .requested k)
    (waits : s.nowMs + k.lead < k.sounding ∨ s.hammers.gate = .holding) : s.reachRaise b = s := by
  unfold State.reachRaise
  rw [taken]
  refine if_neg fun h => ?_
  simp only [Stroke.raiseDue, Bool.and_eq_true, decide_eq_true_eq] at h
  obtain ⟨⟨-, due⟩, closed⟩ := h
  rcases waits with early | holding
  · omega
  · rw [holding] at closed
    cases closed

theorem State.reachRaise_none (h : ∀ k, s.stroke b = .requested k → k.raised = true) : s.reachRaise b = s := by
  unfold State.reachRaise
  split
  next k taken => exact if_neg (by simp [h k taken])
  next => rfl

theorem exec_raiseMoment (hb : b < 40) (mains : s.time.power = .mains) (dt : Nat) :
    exec (.raiseMoment dt b) s = .next ((s.elapse dt).reachRaise b) := happenAt_mains dt hb mains

/-- Settles O29: a stroke whose moment has come is raised or LOCKED, and a LOCKED blow is counted to the requester that still is. -/
theorem raiseMomentStrikesOrLocks : Obligations.RaiseMomentStrikesOrLocks := by
  unfold Obligations.RaiseMomentStrikesOrLocks
  intro s dt b hb mains e
  have acts {t : State} (h : e.reachRaise b = t) : exec (.raiseMoment dt b) s = .next t :=
    (exec_raiseMoment hb mains dt).trans (congrArg _ h)
  refine ⟨fun k taken low => ?_, fun h => acts (State.reachRaise_none h)⟩
  intro up locked
  refine ⟨fun waits => acts (State.reachRaise_waits (s := e) taken waits), fun due closed => ?_⟩
  have raise : e.reachRaise b = e.raiseLine b k := State.reachRaise_due (s := e) taken low due closed
  refine ⟨fun rest hammer => ?strikes, fun held => ?locks⟩
  case strikes =>
    have may : e.mayStrike b = true := (State.mayStrike_iff e b).2 ⟨closed, rest, hammer⟩
    exact ⟨fun none => acts (raise.trans (State.raiseLine_none may none)),
      fun busy => acts (raise.trans (State.raiseLine_busy may busy))⟩
  case locks =>
    have lock : e.reachRaise b = locked.countSkip k.requester := raise.trans (State.raiseLine_locked (State.not_mayStrike held))
    refine ⟨fun n p asks plays own => ?_, fun n asks gone => ?_, fun c run u asks tolls own => ?_, fun c run asks gone => ?_⟩
    all_goals rw [asks] at lock; refine acts (lock.trans ?_)
    · exact State.countSkip_performance (s := locked) plays own
    · exact State.countSkip_performance_gone (s := locked) gone
    · exact State.countSkip_toll (s := locked) tolls own
    · exact State.countSkip_toll_gone (s := locked) gone

/-! ## The pulse and the recovery (R61, R62, R64) -/

theorem State.endPulse_striking (strikes : s.stroke b = .striking k) : s.endPulse b =
    if k.lineActive = true ∧ k.risenAt + k.width ≤ s.nowMs then
      if k.feedback = .none then s.endStroke b k else s.setStroke b (.striking { k with lineActive := false })
    else s := by
  simp [State.endPulse, strikes]

theorem State.endPulse_requested (taken : s.stroke b = .requested k) : s.endPulse b =
    if k.lineActive = true ∧ k.risenAt + k.width ≤ s.nowMs then s.setStroke b (.requested { k with lineActive := false })
    else s := by
  simp [State.endPulse, taken]

/-- R61, R62: before the pulse width has passed, or once the line is released, the end of the pulse does nothing. -/
theorem pulse_runs {now : Nat} (h : k.lineActive = false ∨ now < k.risenAt + k.width) :
    ¬(k.lineActive = true ∧ k.risenAt + k.width ≤ now) := fun ⟨active, passed⟩ =>
  h.elim (fun released => absurd active (Bool.eq_false_iff.1 released)) fun early => absurd passed (Nat.not_le.2 early)

theorem State.endRecovery_recovering {endAt : Nat} (rests : s.stroke b = .recovering k endAt) :
    s.endRecovery b = if endAt ≤ s.nowMs then s.setStroke b .idle else s := by
  rw [State.endRecovery, rests]

/-! ## The edges of BUSY (R62, R64, R65) -/

theorem State.onEdge_hammerBusy {r : LineRecord} (bound : r.bound = some b) (f : r.function = .hammerBusy) (s : State)
    (active : Bool) : s.onEdge r active = if active then s.busyRises b else s.busyFalls b := by
  unfold State.onEdge
  rw [f, bound]

theorem State.busyRises_answers (taken : s.stroke b = .requested k) (up : k.raised = true) : s.busyRises b =
    if s.nowMs ≤ k.risenAt + 50 then s.setStroke b (.striking k) else s := by
  rw [State.busyRises, taken]
  exact if_pos up

theorem State.busyRises_unsolicited (busy : (s.bell b).config.feedback = .busy)
    (h : s.stroke b = .idle ∨ (∃ k endAt, s.stroke b = .recovering k endAt) ∨ ∃ k, s.stroke b = .requested k ∧ k.raised = false) :
    s.busyRises b = s.declareHammerFault b .unsolicited := by
  unfold State.busyRises
  rcases h with idle | ⟨k, endAt, rests⟩ | ⟨k, taken, low⟩
  · rw [idle]
    exact if_pos busy
  · rw [rests]
    exact if_pos busy
  · rw [taken]
    exact (if_neg (Bool.eq_false_iff.1 low)).trans (if_pos busy)

theorem State.busyFalls_striking (strikes : s.stroke b = .striking k) :
    s.busyFalls b = if k.feedback = .busy then s.endStroke b k else s := by
  rw [State.busyFalls, strikes]

/-- Settles O31: each command of a stroke under way reads the stroke, and acts once its moment has come. -/
theorem strokesRunTheirCourse : Obligations.StrokesRunTheirCourse := by
  unfold Obligations.StrokesRunTheirCourse
  intro s dt b hb mains e ended
  have pulse {t : State} (h : e.endPulse b = t) : exec (.pulseEnd dt b) s = .next t :=
    (happenAt_mains dt hb mains).trans (congrArg _ h)
  have recovery {t : State} (h : e.endRecovery b = t) : exec (.recoveryEnd dt b) s = .next t :=
    (happenAt_mains dt hb mains).trans (congrArg _ h)
  refine ⟨fun k strikes => ?striking, fun k taken => ?requested, fun k endAt rests => ?recovering,
    fun i k hi ready settled busy bound => ?edges⟩
  case striking =>
    have eq : e.endPulse b = _ := State.endPulse_striking (s := e) strikes
    refine ⟨fun active passed => ?_, fun runs => pulse (eq.trans (if_neg (pulse_runs runs)))⟩
    have ended := eq.trans (if_pos ⟨active, passed⟩)
    exact ⟨fun none => pulse (ended.trans (if_pos none)), fun busy => pulse (ended.trans (if_neg (by rw [busy]; decide)))⟩
  case requested =>
    have eq : e.endPulse b = _ := State.endPulse_requested (s := e) taken
    exact ⟨fun active passed => pulse (eq.trans (if_pos ⟨active, passed⟩)),
      fun runs => pulse (eq.trans (if_neg (pulse_runs runs)))⟩
  case recovering =>
    have eq : e.endRecovery b = _ := State.endRecovery_recovering (s := e) rests
    exact ⟨fun passed => recovery (eq.trans (if_pos passed)), fun early => recovery (eq.trans (if_neg (Nat.not_le.2 early)))⟩
  case edges =>
    intro u
    have edge {t : State} (acts : (if (s.line i).shown then u.busyRises b else u.busyFalls b) = t)
        (calendar : t.calendar = s.calendar) : exec (.inputFilterExpiry dt i) s = .next t :=
      exec_inputFilterExpiry hi ready settled ((State.onEdge_hammerBusy bound busy u _).trans acts) calendar
    refine ⟨fun shown taken up => ?rises, fun dark strikes => ?falls⟩
    case rises =>
      have eq : u.busyRises b = _ := State.busyRises_answers (s := u) taken up
      exact ⟨fun soon => edge ((if_pos shown).trans (eq.trans (if_pos soon))) rfl,
        fun late => edge ((if_pos shown).trans (eq.trans (if_neg (Nat.not_le.2 late)))) rfl⟩
    case falls =>
      have eq : (if (s.line i).shown then u.busyRises b else u.busyFalls b) = _ :=
        (if_neg (Bool.eq_false_iff.1 dark)).trans (State.busyFalls_striking (s := u) strikes)
      exact ⟨fun busy => edge (eq.trans (if_pos busy)) rfl, fun none => edge (eq.trans (if_neg (by rw [none]; decide))) rfl⟩

/-! ## Hammer faults (R62, R63, R65, R66) -/

theorem State.missAnswer_requested (taken : s.stroke b = .requested k) : s.missAnswer b =
    if k.raised = true ∧ k.risenAt + Config.answerTime ≤ s.nowMs then s.declareHammerFault b .noAnswer else s := by
  simp [State.missAnswer, taken]

theorem State.stickHammer_striking (strikes : s.stroke b = .striking k) : s.stickHammer b =
    if (k.feedback = .busy ∧ k.risenAt + Config.stuckTime ≤ s.nowMs) ∧ s.lineActive .hammerBusy b = true then s.declareHammerFault b .stuck
    else s := by
  simp [State.stickHammer, strikes]

/-- Settles O32: each fault is declared at its moment, by `State.declareHammerFault`, which R66 spells. -/
theorem hammerFaultsTakeItOutOfService : Obligations.HammerFaultsTakeItOutOfService := by
  unfold Obligations.HammerFaultsTakeItOutOfService
  intro s dt b hb mains e faulted
  refine ⟨fun k taken => ?noAnswer, fun k strikes => ?stuck, fun i hi ready settled busy bound shown feedback free => ?unsolicited⟩
  case noAnswer =>
    have acts {t : State} (h : e.missAnswer b = t) : exec (.noAnswer dt b) s = .next t :=
      (happenAt_mains dt hb mains).trans (congrArg _ h)
    have eq : e.missAnswer b = _ := State.missAnswer_requested (s := e) taken
    refine ⟨fun up passed => acts (eq.trans (if_pos ⟨up, passed⟩)), fun waits => acts (eq.trans (if_neg fun ⟨up, passed⟩ => ?_))⟩
    exact waits.elim (fun low => absurd up (Bool.eq_false_iff.1 low)) fun early => absurd passed (Nat.not_le.2 early)
  case stuck =>
    have acts {t : State} (h : e.stickHammer b = t) : exec (.stuck dt b) s = .next t :=
      (happenAt_mains dt hb mains).trans (congrArg _ h)
    have eq : e.stickHammer b = _ := State.stickHammer_striking (s := e) strikes
    refine ⟨fun feedback active passed => acts (eq.trans (if_pos ⟨⟨feedback, passed⟩, active⟩)),
      fun waits => acts (eq.trans (if_neg fun ⟨⟨feedback, passed⟩, active⟩ => ?_))⟩
    rcases waits with none | fallen | early
    · rw [none] at feedback
      cases feedback
    · exact absurd active (Bool.eq_false_iff.1 fallen)
    · exact absurd passed (Nat.not_le.2 early)
  case unsolicited =>
    have acts := (State.onEdge_hammerBusy bound busy (e.setLine i { s.line i with filtered := (s.line i).shown, changing := none })
      (s.line i).shown).trans ((if_pos shown).trans (State.busyRises_unsolicited feedback free))
    exact exec_inputFilterExpiry hi ready settled acts rfl

end Sys2Proof.Machine
end

section
/-! A blow's request moment (R59, R101, R107, R108): taken by an IDLE machine, or skipped. -/

namespace Sys2Proof.Machine

variable {s t : State} {b c sounding velocity : Nat} {q : Requester} {k : Stroke}

theorem State.setStroke_setStroke (s : State) (b : Nat) (x y : StrokeState) : (s.setStroke b x).setStroke b y = s.setStroke b y := by
  simp [State.setStroke, Vector.setIfInBounds]

theorem State.setToll_setToll (s : State) (c : Nat) (x y : Option TollRun) : (s.setToll c x).setToll c y = s.setToll c y := by
  simp [State.setToll, Vector.setIfInBounds]

/-! ## The strike request (R59, R60) -/

theorem State.accepts_iff (s : State) (b : Nat) : s.accepts b = true ↔
    s.hammers.gate = .closed ∧ s.hasLine .hammerStrike b = true ∧ s.stroke b = .idle := by
  simp [State.accepts, State.hasMachine, and_assoc]

theorem State.strikeRequest_clipped (h : ¬s.accepts b = true) : s.strikeRequest b sounding velocity q = s.countSkip q := if_neg h

section
variable (taken : s.accepts b = true) (captured : captureStroke (s.bell b).config sounding velocity q = k)
include taken captured

theorem State.strikeRequest_waits (early : s.nowMs + k.lead < k.sounding) :
    s.strikeRequest b sounding velocity q = s.setStroke b (.requested k) := by
  rw [State.strikeRequest, if_pos taken, captured]
  exact if_neg (by simpa [Stroke.raiseDue] using early)

/-- R60: a request taken after its raise moment is raised at once. -/
theorem State.strikeRequest_due (due : k.sounding ≤ s.nowMs + k.lead) :
    s.strikeRequest b sounding velocity q = (s.setStroke b (.requested k)).raiseLine b k := by
  rw [State.strikeRequest, if_pos taken, captured]
  exact if_pos (by simpa [Stroke.raiseDue] using due)

theorem State.strikeRequest_strikes (due : k.sounding ≤ s.nowMs + k.lead) (may : s.mayStrike b = true) :
    s.strikeRequest b sounding velocity q = s.setStroke b
      (if k.feedback = .none then .striking (k.risen s.nowMs) else .requested (k.risen s.nowMs)) :=
  (State.strikeRequest_due taken captured due).trans
    ((if_pos (show (s.setStroke b (.requested k)).mayStrike b = true from may)).trans (s.setStroke_setStroke b _ _))

theorem State.strikeRequest_locked (due : k.sounding ≤ s.nowMs + k.lead) (may : s.mayStrike b = false) :
    s.strikeRequest b sounding velocity q = (s.setStroke b .idle).countSkip k.requester := by
  rw [State.strikeRequest_due taken captured due,
    State.raiseLine_locked (show (s.setStroke b (.requested k)).mayStrike b = false from may), s.setStroke_setStroke]

end

/-! ## The request moment of a blow of the performance (R101, R107) -/

theorem State.claimed_iff (s : State) (b : Nat) : s.claimed b = true ↔ ∃ c x, c < 2 ∧ s.toll c = some x ∧ x.bell = b := by
  refine (any_toList_iff _ _ none).trans (exists_congr fun c => ?_)
  change c < 2 ∧ (s.toll c).any (fun x => x.bell == b) = true ↔ _
  simp [Option.any_eq_true]

theorem State.requestBlow_none (h : ∀ p, s.chime.performance = some p → p.blows = []) : s.requestBlow = s := by
  unfold State.requestBlow
  split
  next => rfl
  next p plays => rw [h p plays]

section
variable {p : Performance} {x : ScheduledBlow} {rest : List ScheduledBlow} (plays : s.chime.performance = some p)
  (blows : p.blows = x :: rest)
include plays blows

theorem State.requestBlow_early (early : s.nowMs < x.requestAt) : s.requestBlow = s := by
  unfold State.requestBlow
  rw [plays]
  dsimp only
  rw [blows]
  exact if_neg (Nat.not_le.2 early)

theorem State.requestBlow_claimed (due : x.requestAt ≤ s.nowMs) (claimed : s.claimed x.bell = true) : s.requestBlow =
    { s with chime.performance := some { p with blows := rest, skipped := min 65535 (p.skipped + 1) } } := by
  unfold State.requestBlow
  rw [plays]
  dsimp only
  rw [blows]
  exact (if_pos due).trans (if_pos claimed)

theorem State.requestBlow_asks (due : x.requestAt ≤ s.nowMs) (free : ¬s.claimed x.bell = true) : s.requestBlow =
    State.strikeRequest { s with chime.performance := some { p with blows := rest } } x.bell x.sounding x.velocity
      (.performance p.entry.arrival) := by
  unfold State.requestBlow
  rw [plays]
  dsimp only
  rw [blows]
  exact (if_pos due).trans (if_neg free)

end

/-! ## The request moment of a blow of a toll (R108) -/

theorem State.requestToll_none (h : ∀ x, s.toll c = some x → x.scheduled = none) : s.requestToll c = s := by
  unfold State.requestToll
  split
  next => rfl
  next x tolls => rw [h x tolls]

theorem State.requestToll_eq {x : TollRun} {blow : ScheduledBlow} (tolls : s.toll c = some x) (scheduled : x.scheduled = some blow) :
    s.requestToll c = if blow.requestAt ≤ s.nowMs then
      (s.setToll c (some { x with scheduled := none })).strikeRequest blow.bell blow.sounding blow.velocity (.toll c x.run)
    else s := by
  unfold State.requestToll
  rw [tolls]
  dsimp only
  rw [scheduled]

/-- Settles O30: a blow whose moment has come leaves its schedule and makes its strike request, which is clipped, taken, raised at once
or LOCKED; a skip is counted to the requester, which is still there. -/
theorem blowsAreRequestedOrSkipped : Obligations.BlowsAreRequestedOrSkipped := by
  unfold Obligations.BlowsAreRequestedOrSkipped
  intro s dt mains e captured open_ strikes raised
  have capture (x : ScheduledBlow) (r : Requester) :
      captureStroke (s.bell x.bell).config x.sounding x.velocity r = captured x r := rfl
  have accepts (b : Nat) : e.accepts b = true ↔ open_ b := State.accepts_iff e b
  have may {b : Nat} (o : open_ b) (h : strikes b) : e.mayStrike b = true := (State.mayStrike_iff e b).2 ⟨o.1, h⟩
  have lock {b : Nat} (h : ¬strikes b) : e.mayStrike b = false :=
    Bool.eq_false_iff.2 fun m => h ((State.mayStrike_iff e b).1 m).2
  have blow {t : State} (h : e.requestBlow = t) : exec (.blowRequestMoment dt) s = .next t :=
    (happen_mains dt mains).trans (congrArg _ h)
  have toll {t : State} {c : Nat} (hc : c < 2) (h : e.requestToll c = t) : exec (.tollRequestMoment dt c) s = .next t :=
    (happenAt_mains dt hc mains).trans (congrArg _ h)
  refine ⟨fun p b rest plays blows => ?performance, fun h => blow (State.requestBlow_none (s := e) h),
    fun c u b hc tolls scheduled => ?toll, fun c hc h => toll hc (State.requestToll_none (s := e) h)⟩
  case performance =>
    intro left skipped
    have counted (u : State) (h : u.chime.performance = some left) : u.countSkip (.performance p.entry.arrival) =
        { u with chime.performance := some { left with skipped := min 65535 (p.skipped + 1) } } :=
      State.countSkip_performance h rfl
    refine ⟨fun early => blow (State.requestBlow_early (s := e) plays blows early),
      fun due claims => blow (State.requestBlow_claimed (s := e) (p := p) plays blows due ((State.claimed_iff e _).2 claims)),
      fun due free => ?_⟩
    have unclaimed : ¬e.claimed b.bell = true := fun k =>
      let ⟨c, u, hc, tolls, same⟩ := (State.claimed_iff e _).1 k
      free c u hc tolls same
    let v : State := { e with chime.performance := some left }
    have asks : e.requestBlow = v.strikeRequest b.bell b.sounding b.velocity (.performance p.entry.arrival) :=
      State.requestBlow_asks (s := e) plays blows due unclaimed
    refine ⟨fun clips => ?_, fun o _ => ?_⟩
    · exact blow (asks.trans ((State.strikeRequest_clipped (s := v) fun a => clips ((accepts _).1 a)).trans (counted v rfl)))
    · have taken : v.accepts b.bell = true := (accepts _).2 o
      exact ⟨fun early => blow (asks.trans (State.strikeRequest_waits (s := v) taken (capture b _) early)),
        fun late h => blow (asks.trans (State.strikeRequest_strikes (s := v) taken (capture b _) late (may o h))),
        fun late h => blow (asks.trans ((State.strikeRequest_locked (s := v) taken (capture b _) late (lock h)).trans
          (counted _ rfl)))⟩
  case toll =>
    intro left
    have counted (x : StrokeState) : (left.setStroke b.bell x).countSkip (.toll c u.run) =
        (e.setToll c (some { u with scheduled := none, skipped := u.skipped + 1 })).setStroke b.bell x :=
      (State.countSkip_toll (s := left.setStroke b.bell x) (State.toll_setToll_same e c _ hc) rfl).trans
        (congrArg (State.setStroke · b.bell x) (e.setToll_setToll c _ _))
    have eq : e.requestToll c = _ := State.requestToll_eq (s := e) tolls scheduled
    refine ⟨fun early => toll hc (eq.trans (if_neg (Nat.not_le.2 early))), fun due => ?_⟩
    have asks := eq.trans (if_pos due)
    refine ⟨fun clips => ?_, fun o _ => ?_⟩
    · refine toll hc (asks.trans ((State.strikeRequest_clipped (s := left) fun a => clips ((accepts _).1 a)).trans ?_))
      exact (State.countSkip_toll (s := left) (State.toll_setToll_same e c _ hc) rfl).trans (e.setToll_setToll c _ _)
    · have taken : left.accepts b.bell = true := (accepts _).2 o
      exact ⟨fun early => toll hc (asks.trans (State.strikeRequest_waits (s := left) taken (capture b _) early)),
        fun late h => toll hc (asks.trans (State.strikeRequest_strikes (s := left) taken (capture b _) late (may o h))),
        fun late h => toll hc (asks.trans ((State.strikeRequest_locked (s := left) taken (capture b _) late (lock h)).trans
          (counted _)))⟩

end Sys2Proof.Machine
end

section
/-! Reading a payload (R184, section 11.5): a field is read from its own bytes, whatever stands after them, and from no fewer. -/

namespace Sys2Proof

open Machine

/-- A reader that finds `a` answers by what stands after it, and it answers nothing where a part of `a` alone stands. -/
structure Reads {β : Type} (f : List Byte → Option β) (a : List Byte) (out : List Byte → β) : Prop where
  whole : ∀ c, f (a ++ c) = some (out c)
  cut : ∀ n, n < a.length → f (a.take n) = none

/-- A reader of a field finds `x` in `a`. -/
abbrev Spells {α : Type} (f : List Byte → Option (α × List Byte)) (a : List Byte) (x : α) : Prop := Reads f a fun c => (x, c)

namespace Reads

variable {α β γ : Type} {f : List Byte → Option (α × List Byte)} {a b : List Byte} {x : α}

theorem pure (out : List Byte → β) : Reads (fun p => some (out p)) [] out := ⟨fun _ => rfl, nofun⟩

theorem bind {g : α × List Byte → Option β} {out : List Byte → β} (hf : Spells f a x) (hg : Reads (fun c => g (x, c)) b out) :
    Reads (fun p => (f p).bind g) (a ++ b) out where
  whole c := by
    rw [List.append_assoc, hf.whole]
    exact hg.whole c
  cut n hn := by
    by_cases h : n < a.length
    · rw [List.take_append_of_le_length (Nat.le_of_lt h), hf.cut n h]
      rfl
    · rw [List.length_append] at hn
      rw [List.take_append, List.take_of_length_le (Nat.le_of_not_lt h), hf.whole]
      exact hg.cut (n - a.length) (by omega)

/-- The last field of a record. -/
theorem last {g : α × List Byte → Option β} {out : List Byte → β} (hf : Spells f a x) (hg : ∀ c, g (x, c) = some (out c)) :
    Reads (fun p => (f p).bind g) a out where
  whole c := by rw [hf.whole]; exact hg c
  cut n hn := by rw [hf.cut n hn]; rfl

/-- What is answered from one read alone. -/
theorem bindSome {g : List Byte → Option α} {k : α → Option β} {y : β} (hg : Reads g a fun _ => x) (hk : k x = some y) :
    Reads (fun p => (g p).bind k) a fun _ => y where
  whole c := by rw [hg.whole]; exact hk
  cut n hn := by rw [hg.cut n hn]; rfl

theorem ite_neg {c : Prop} [Decidable c] {g k : List Byte → Option β} {out : List Byte → β} (hc : ¬c) (hg : Reads g a out) :
    Reads (fun p => if c then k p else g p) a out := by
  simpa only [if_neg hc] using hg

theorem map {g : List Byte → Option β} {out : List Byte → β} (h : Reads g a out) (k : β → γ) :
    Reads (fun p => (g p).map k) a fun c => k (out c) where
  whole c := by rw [h.whole]; rfl
  cut n hn := by rw [h.cut n hn]; rfl

end Reads

/-- A reader finds every field that fits in its own bytes. -/
def ReadsBack {α : Type} (f : List Byte → Option (α × List Byte)) (bytes : α → List Byte) (fits : α → Bool) : Prop :=
  ∀ x, fits x = true → Spells f (bytes x) x

theorem read8_back : ReadsBack read8 u8 byteOk := by
  intro n h
  simp only [byteOk, decide_eq_true_eq] at h
  refine ⟨fun c => ?_, fun k hk => ?_⟩
  · have small : n % 256 = n := Nat.mod_eq_of_lt (by omega)
    simp [read8, readNat, u8, small]
  · obtain rfl : k = 0 := by simpa [u8] using hk
    rfl

theorem read16_back : ReadsBack read16 u16 wordOk := by
  intro n h
  simp only [wordOk, decide_eq_true_eq] at h
  refine ⟨fun c => ?_, fun k hk => ?_⟩
  · have high : n / 256 % 256 = n / 256 := Nat.mod_eq_of_lt (by omega)
    simp [read16, readNat, u16, bytesOf, high, Nat.div_add_mod']
  · have short : k < 2 := by simpa [u16, bytesOf] using hk
    interval_cases k <;> rfl

theorem u16_mod (n : Nat) : u16 (n % 65536) = u16 n := by
  simp only [u16, bytesOf, List.nil_append, List.cons_append, List.cons.injEq, and_true]
  constructor
  · apply BitVec.eq_of_toNat_eq
    simp
    omega
  · apply BitVec.eq_of_toNat_eq
    simp

/-- R184: a signed field in two's complement. -/
theorem readSigned1_back : ReadsBack (readSigned 1) (signed 1) signedByteOk := by
  intro x h
  simp only [signedByteOk, decide_eq_true_eq] at h
  have back := (read8_back (x % (256 ^ 1 : Nat)).toNat (by simp [byteOk]; omega)).map
    fun r => ((if 2 * r.1 < 256 ^ 1 then (r.1 : Int) else (r.1 : Int) - (256 ^ 1 : Nat)), r.2)
  have value : (if 2 * (x % (256 ^ 1 : Nat)).toNat < 256 ^ 1 then ((x % (256 ^ 1 : Nat)).toNat : Int)
      else ((x % (256 ^ 1 : Nat)).toNat : Int) - (256 ^ 1 : Nat)) = x := by split <;> omega
  exact ⟨fun c => (back.whole c).trans (by rw [value]), back.cut⟩

theorem readSigned2_back : ReadsBack (readSigned 2) (signed 2) signedWordOk := by
  intro x h
  simp only [signedWordOk, decide_eq_true_eq] at h
  have back := (read16_back (x % (256 ^ 2 : Nat)).toNat (by simp [wordOk]; omega)).map
    fun r => ((if 2 * r.1 < 256 ^ 2 then (r.1 : Int) else (r.1 : Int) - (256 ^ 2 : Nat)), r.2)
  have value : (if 2 * (x % (256 ^ 2 : Nat)).toNat < 256 ^ 2 then ((x % (256 ^ 2 : Nat)).toNat : Int)
      else ((x % (256 ^ 2 : Nat)).toNat : Int) - (256 ^ 2 : Nat)) = x := by split <;> omega
  exact ⟨fun c => (back.whole c).trans (by rw [value]), back.cut⟩

/-- An enumerated field is read from the place of its value. -/
theorem readEnum_place {α : Type} {values : List α} {n : Nat} {x : α} (place : values[n]? = some x) (small : n ≤ 255) :
    Spells (readEnum values) (u8 n) x := by
  have h := read8_back n (by simpa [byteOk] using small)
  refine ⟨fun c => ?_, fun k hk => ?_⟩
  · rw [readEnum, h.whole]
    simp [place]
  · rw [readEnum, h.cut k hk]

theorem readEnum_back {α : Type} {values : List α} {code : α → Nat} (codes : ∀ x, values[code x]? = some x ∧ code x ≤ 255) :
    ReadsBack (readEnum values) (fun x => u8 (code x)) fun _ => true :=
  fun x _ => readEnum_place (codes x).1 (codes x).2

theorem readYesNo_back : ReadsBack readYesNo yesNo fun _ => true :=
  readEnum_back (code := fun x : Bool => if x then 1 else 0) fun x => by cases x <;> decide

theorem readOptional_back {α : Type} {f : List Byte → Option (α × List Byte)} {bytes : α → List Byte} {fits : α → Bool}
    (hf : ReadsBack f bytes fits) : ReadsBack (readOptional f) (optional bytes) (Option.all fits) := by
  intro x hx
  have eq : readOptional f = fun p => (readYesNo p).bind fun r =>
      if r.1 then (f r.2).map fun y => (some y.1, y.2) else some (none, r.2) := by
    funext p
    unfold readOptional
    rcases readYesNo p with - | ⟨- | -, b⟩ <;> rfl
  rw [eq]
  cases x with
  | none => exact .last (readYesNo_back false rfl) fun _ => rfl
  | some y => exact .bind (readYesNo_back true rfl) ((hf y hx).map _)

theorem readMany_back {α : Type} {f : List Byte → Option (α × List Byte)} {bytes : α → List Byte} {fits : α → Bool}
    (hf : ReadsBack f bytes fits) (l : List α) (h : l.all fits = true) : Spells (readMany f l.length) (l.flatMap bytes) l := by
  induction l with
  | nil => exact .pure _
  | cons x l ih =>
    simp only [List.all_cons, Bool.and_eq_true] at h
    simp only [List.flatMap_cons, List.length_cons]
    exact .bind (hf x h.1) <| .last (ih h.2) fun _ => rfl

/-- A label whose unused places are the zeros at its end is read without them. -/
theorem readLabel_spells {l : Label} (fits : labelFits l = true) (ends : l.getLast? ≠ some 0#8) :
    Spells readLabel (labelBytes l) l := by
  simp only [labelFits, decide_eq_true_eq] at fits
  have long := labelBytes_length l
  refine ⟨fun c => ?_, fun n hn => if_neg (by rw [List.length_take]; omega)⟩
  have kept : l.reverse.dropWhile (· == 0) = l.reverse := by
    rw [← List.head?_reverse] at ends
    cases e : l.reverse with
    | nil => rfl
    | cons x _ =>
      rw [e, List.head?_cons] at ends
      exact List.dropWhile_cons_of_neg (by simpa using ends)
  have bytes : labelBytes l = l ++ List.replicate (16 - l.length) 0 := by rw [labelBytes, List.take_of_length_le fits]
  have used : ((labelBytes l).reverse.dropWhile (· == 0)).reverse = l := by
    rw [bytes, List.reverse_append, List.reverse_replicate, List.dropWhile_append_of_pos (by simp), kept, List.reverse_reverse]
  rw [readLabel, if_pos (by rw [List.length_append]; omega), List.take_left' long, List.drop_left' long, used]

theorem readHandle_back : ReadsBack readHandle handleBytes handleFits := by
  intro x h
  simp only [handleFits, Bool.and_eq_true] at h
  exact .bind (read8_back _ h.1) <| .last (read8_back _ h.2) fun _ => rfl

theorem readDate_back : ReadsBack readDate dateBytes dateFits := by
  intro x h
  simp only [dateFits, Bool.and_eq_true] at h
  obtain ⟨⟨year, month⟩, day⟩ := h
  simp only [dateBytes, List.append_assoc]
  exact .bind (read16_back _ year) <| .bind (read8_back _ month) <| .last (read8_back _ day) fun _ => rfl

theorem readHourMinute_back : ReadsBack readHourMinute hourMinuteBytes hourMinuteFits := by
  intro x h
  simp only [hourMinuteFits, Bool.and_eq_true] at h
  exact .bind (read8_back _ h.1) <| .last (read8_back _ h.2) fun _ => rfl

theorem readInstant_back :
    ReadsBack readInstant (fun d => dateBytes d.date ++ u8 d.hour ++ u8 d.minute ++ u8 d.second) dateTimeFits := by
  intro x h
  simp only [dateTimeFits, Bool.and_eq_true] at h
  obtain ⟨⟨⟨date, hour⟩, minute⟩, second⟩ := h
  simp only [List.append_assoc]
  exact .bind (readDate_back _ date) <| .bind (read8_back _ hour) <| .bind (read8_back _ minute) <|
    .last (read8_back _ second) fun _ => rfl

/-! ## The codes of the enumerated fields -/

theorem readWeekday_back : ReadsBack (readEnum weekdays) (fun x => u8 x.index) fun _ => true :=
  readEnum_back fun x => by cases x <;> decide

theorem readFunction_back : ReadsBack (readEnum lineFunctions) (fun x => u8 (functionCode x)) fun _ => true :=
  readEnum_back fun x => by cases x <;> decide

theorem readOnOff_back : ReadsBack (readEnum [true, false]) (fun x => u8 (if x then 0 else 1)) fun _ => true :=
  readEnum_back fun x => by cases x <;> decide

theorem readGroup_back : ReadsBack (readEnum [.ring, .chime, .service]) (fun x => u8 (groupCode x)) fun _ => true :=
  readEnum_back fun x => by cases x <;> decide

theorem readSensor_back : ReadsBack (readEnum [.none, .swingOnly, .swingAndRest]) (fun x => u8 (sensorCode x)) fun _ => true :=
  readEnum_back fun x => by cases x <;> decide

theorem readFeedback_back : ReadsBack (readEnum [.busy, .none]) (fun x => u8 (feedbackCode x)) fun _ => true :=
  readEnum_back fun x => by cases x <;> decide

theorem readNightMode_back : ReadsBack (readEnum [.all, .quarters]) (fun x => u8 (nightModeCode x)) fun _ => true :=
  readEnum_back fun x => by cases x <;> decide

theorem readLayerMode_back : ReadsBack (readEnum [.top, .max]) (fun x => u8 (modeCode x)) fun _ => true :=
  readEnum_back fun x => by cases x <;> decide

/-! ## Records -/

theorem readTimeSettings_back : ReadsBack readTimeSettings timeSettingsBytes TimeSettings.fits := by
  intro x h
  simp only [TimeSettings.fits, Bool.and_eq_true] at h
  obtain ⟨⟨⟨⟨⟨⟨⟨trim, offset⟩, startMonth⟩, startWeek⟩, startTime⟩, endMonth⟩, endWeek⟩, endTime⟩ := h
  simp only [timeSettingsBytes, List.append_assoc]
  exact .bind (readSigned2_back _ trim) <| .bind (readYesNo_back _ rfl) <| .bind (readYesNo_back _ rfl) <|
    .bind (read8_back _ offset) <| .bind (read8_back _ startMonth) <| .bind (read8_back _ startWeek) <|
    .bind (readWeekday_back _ rfl) <| .bind (readHourMinute_back _ startTime) <| .bind (read8_back _ endMonth) <|
    .bind (read8_back _ endWeek) <| .bind (readWeekday_back _ rfl) <| .last (readHourMinute_back _ endTime) fun _ => rfl

theorem readLineRecord_back : ReadsBack readLineRecord lineBytes LineRecord.fits := by
  intro x h
  simp only [LineRecord.fits, Bool.and_eq_true] at h
  simp only [lineBytes, List.append_assoc]
  exact .bind (readFunction_back _ rfl) <| .bind (readOptional_back read8_back _ h.1) <| .bind (readOnOff_back _ rfl) <|
    .last (read8_back _ h.2) fun _ => rfl

/-- R36, R20: of a dial's bytes an AMEND takes the label, the service, the widths and the window. -/
theorem readDialAmend_spells (d : Dial) {a : DialAmend}
    (ha : a = { label := d.label, service := d.service, impulseWidth := d.impulseWidth, spacing := d.spacing, window := d.window })
    (fits : a.fits = true) (ends : d.label.getLast? ≠ some 0#8) : Spells readDialAmend (dialBytes d) a := by
  subst ha
  simp only [DialAmend.fits, Bool.and_eq_true, beq_iff_eq] at fits
  obtain ⟨⟨⟨⟨⟨label, tens⟩, width⟩, halves⟩, spacing⟩, window⟩ := fits
  have position : wordOk (d.position % 65536) = true := by simp only [wordOk, decide_eq_true_eq]; omega
  have fault : Machine.optional (fun _ => u8 0) d.fault = Machine.optional (fun _ : Unit => u8 0) (d.fault.map fun _ => ()) := by
    cases d.fault <;> rfl
  have reason : Spells (readOptional (readEnum [()])) (Machine.optional (fun _ : Unit => u8 0) (d.fault.map fun _ => ())) _ :=
    readOptional_back (readEnum_back (code := fun _ => 0) fun _ => ⟨rfl, by decide⟩) _ (by simp)
  simp only [dialBytes, List.append_assoc]
  rw [← u16_mod, fault]
  exact .bind (readLabel_spells label ends) <| .bind (readOnOff_back _ rfl) <| .bind (read16_back _ position) <|
    .bind (readEnum_place (x := ()) (by cases d.nextPolarity <;> rfl) (by cases d.nextPolarity <;> decide)) <|
    .bind (read8_back _ width) <| .bind (read8_back _ spacing) <| .bind (read16_back _ window) <| .bind (readYesNo_back _ rfl) <|
    .last reason fun _ => by
      rw [Nat.div_mul_cancel (Nat.dvd_of_mod_eq_zero tens), Nat.div_mul_cancel (Nat.dvd_of_mod_eq_zero halves)]

theorem readBellConfig_spells {x : BellConfig} (h : x.fits = true) (ends : x.label.getLast? ≠ some 0#8) :
    Spells readBellConfig (bellBytes x) x := by
  simp only [BellConfig.fits, Bool.and_eq_true] at h
  obtain ⟨⟨⟨⟨⟨⟨⟨⟨label, settle⟩, lead⟩, velocity0⟩, velocity1⟩, velocity2⟩, velocity3⟩, repeatInterval⟩, rating⟩ := h
  simp only [bellBytes, List.append_assoc]
  exact .bind (readLabel_spells label ends) <| .bind (readGroup_back _ rfl) <| .bind (readYesNo_back _ rfl) <|
    .bind (readYesNo_back _ rfl) <| .bind (readYesNo_back _ rfl) <| .bind (readYesNo_back _ rfl) <|
    .bind (readSensor_back _ rfl) <| .bind (read16_back _ settle) <| .bind (read16_back _ lead) <|
    .bind (read8_back _ velocity0) <| .bind (read8_back _ velocity1) <| .bind (read8_back _ velocity2) <|
    .bind (read8_back _ velocity3) <| .bind (readFeedback_back _ rfl) <| .bind (read16_back _ repeatInterval) <|
    .last (read16_back _ rating) fun _ => rfl

theorem readClockConfig_back : ReadsBack readClockConfig clockConfigBytes ClockConfig.fits := by
  intro x h
  simp only [ClockConfig.fits, Bool.and_eq_true, List.all_cons, List.all_nil] at h
  obtain ⟨⟨⟨⟨⟨⟨⟨⟨⟨⟨first, second, third, fourth, -⟩, bell⟩, interval⟩, velocity⟩, gap⟩, quarter⟩, hour⟩, expiry⟩, start⟩, stop⟩ := h
  simp only [clockConfigBytes, List.flatMap_cons, List.flatMap_nil, List.append_nil, List.append_assoc]
  exact .bind (readYesNo_back _ rfl) <| .bind (readOptional_back readHandle_back _ first) <|
    .bind (readOptional_back readHandle_back _ second) <| .bind (readOptional_back readHandle_back _ third) <|
    .bind (readOptional_back readHandle_back _ fourth) <| .bind (readYesNo_back _ rfl) <| .bind (read8_back _ bell) <|
    .bind (read16_back _ interval) <| .bind (read8_back _ velocity) <| .bind (read16_back _ gap) <|
    .bind (read8_back _ quarter) <| .bind (read8_back _ hour) <| .bind (read16_back _ expiry) <|
    .bind (readOptional_back readHourMinute_back _ start) <| .bind (readOptional_back readHourMinute_back _ stop) <|
    .last (readNightMode_back _ rfl) fun _ => rfl

theorem readChannelConfig_spells {x : ChannelConfig} (h : x.fits = true) (ends : x.label.getLast? ≠ some 0#8) :
    Spells readChannelConfig (channelBytes x) x := by
  simp only [ChannelConfig.fits, Bool.and_eq_true] at h
  obtain ⟨⟨⟨label, rating⟩, ceiling⟩, floor⟩ := h
  simp only [channelBytes, List.append_assoc]
  exact .bind (readLabel_spells label ends) <| .bind (readYesNo_back _ rfl) <| .bind (read16_back _ rating) <|
    .bind (read16_back _ ceiling) <| .last (read16_back _ floor) fun _ => rfl

theorem readLevel_back : ReadsBack readLevel (fun x => u8 x.1 ++ u16 x.2) fun x => byteOk x.1 && wordOk x.2 := by
  intro x h
  simp only [Bool.and_eq_true] at h
  exact .bind (read8_back _ h.1) <| .last (read16_back _ h.2) fun _ => rfl

theorem readDuskPair_back : ReadsBack readDuskPair (fun x => u8 x.1 ++ u16 x.2) fun x => byteOk x.1 && wordOk x.2 := by
  intro x h
  simp only [Bool.and_eq_true] at h
  exact .bind (read8_back _ h.1) <| .last (read16_back _ h.2) fun _ => rfl

theorem readMapPair_back :
    ReadsBack readMapPair (fun x => u8 x.1 ++ Machine.optional u8 x.2) fun x => byteOk x.1 && x.2.all byteOk := by
  intro x h
  simp only [Bool.and_eq_true] at h
  exact .bind (read8_back _ h.1) <| .last (readOptional_back read8_back _ h.2) fun _ => rfl

theorem readScene_spells {x : SceneConfig} (h : x.fits = true) (ends : x.label.getLast? ≠ some 0#8) :
    Spells readScene (sceneConfigBytes x) x := by
  simp only [SceneConfig.fits, payloadFits, Bool.and_eq_true, decide_eq_true_eq] at h
  obtain ⟨⟨⟨⟨⟨label, size⟩, levels⟩, fadeIn⟩, fadeOut⟩, priority⟩ := h
  have count : byteOk x.levels.length = true := by simp only [byteOk, decide_eq_true_eq]; omega
  simp only [sceneConfigBytes, listed, List.append_assoc]
  exact .bind (readLabel_spells label ends) <| .bind (read16_back _ fadeIn) <| .bind (read16_back _ fadeOut) <|
    .bind (read8_back _ priority) <| .bind (readLayerMode_back _ rfl) <| .bind (read8_back _ count) <|
    .last (readMany_back readLevel_back _ levels) fun _ => rfl

end Sys2Proof
end

section
/-! Occasion records and tune steps read back from their own bytes (section 11.5), and the payloads that are read until they end. -/

namespace Sys2Proof

open Machine

/-! ## Fields of a set size -/

/-- A reader of a field of `k` bytes: it answers nothing on fewer, and leaves the bytes after them. -/
structure Sized {α : Type} (f : List Byte → Option (α × List Byte)) (k : Nat) : Prop where
  short : ∀ b, b.length < k → f b = none
  left : ∀ b x c, f b = some (x, c) → c = b.drop k

namespace Sized

variable {α β : Type} {f : List Byte → Option (α × List Byte)} {k m : Nat}

theorem bind {g : α × List Byte → Option (β × List Byte)} (hf : Sized f k) (hg : ∀ x, Sized (fun c => g (x, c)) m) :
    Sized (fun p => (f p).bind g) (k + m) where
  short b h := by
    cases e : f b with
    | none => rfl
    | some r =>
      obtain ⟨x, c⟩ := r
      obtain rfl := hf.left b x c e
      by_cases long : k ≤ b.length
      · exact (hg x).short _ (by rw [List.length_drop]; omega)
      · rw [hf.short b (by omega)] at e
        cases e
  left b y d h := by
    obtain ⟨⟨x, c⟩, e, h⟩ := Option.bind_eq_some_iff.1 h
    obtain rfl := hf.left b x c e
    rw [(hg x).left _ y d h, List.drop_drop]

/-- What is worked from fields already read leaves the bytes where they are. -/
theorem rest {g : List Byte → Option (β × List Byte)} (h : ∀ b x c, g b = some (x, c) → c = b) : Sized g 0 :=
  ⟨nofun, fun b x c e => (h b x c e).trans List.drop_zero.symm⟩

theorem pure {x : List Byte → β} : Sized (fun p => some (x p, p)) 0 := rest fun _ _ _ e => by cases e; rfl

theorem last {g : α × List Byte → Option (β × List Byte)} (hf : Sized f k) (hg : ∀ x b y c, g (x, b) = some (y, c) → c = b) :
    Sized (fun p => (f p).bind g) k := hf.bind fun x => rest (hg x)

theorem map {h : α → β} (hf : Sized f k) : Sized (fun p => (f p).map fun r => (h r.1, r.2)) k where
  short b e := by rw [hf.short b e]; rfl
  left b y c e := by
    obtain ⟨⟨x, d⟩, h, he⟩ := Option.map_eq_some_iff.1 e
    cases he
    exact hf.left b x _ h

theorem spells (hs : Sized f k) {a : List Byte} {x : α} (size : a.length = k) (whole : ∀ c, f (a ++ c) = some (x, c)) :
    Spells f a x :=
  ⟨whole, fun n hn => hs.short _ (by rw [List.length_take]; omega)⟩

end Sized

theorem readNat_sized (k : Nat) : Sized (readNat k) k := by
  induction k with
  | zero => exact Sized.pure
  | succ k ih =>
    refine ⟨fun b h => ?_, fun b x c h => ?_⟩
    · cases b with
      | nil => rfl
      | cons y b => exact congrArg _ (ih.short b (by simpa using h))
    · cases b with
      | nil => cases h
      | cons y b =>
        obtain ⟨⟨n, d⟩, e, he⟩ := Option.map_eq_some_iff.1 h
        cases he
        exact ih.left b n _ e

theorem read8_sized : Sized read8 1 := readNat_sized 1

theorem read16_sized : Sized read16 2 := readNat_sized 2

theorem readSigned_sized (k : Nat) : Sized (readSigned k) k :=
  (readNat_sized k).map (h := fun n : Nat => if 2 * n < 256 ^ k then (n : Int) else (n : Int) - (256 ^ k : Nat))

theorem readMany_sized {α : Type} {f : List Byte → Option (α × List Byte)} {k : Nat} (h : Sized f k) :
    ∀ n, Sized (readMany f n) (k * n)
  | 0 => Sized.pure
  | n + 1 => by
    rw [Nat.mul_succ, Nat.add_comm (k * n)]
    refine h.bind fun x => ?_
    refine (readMany_sized h n).last ?_
    intro _ _ _ _ e
    cases e
    rfl

/-! ## Occasion records -/

theorem readRecurrence_sized : Sized readRecurrence 5 := by
  unfold readRecurrence
  refine read8_sized.bind (m := 4) fun kind => (readMany_sized read8_sized 4).last ?_
  intro x b y c e
  dsimp only at e
  split at e
  case h_4 =>
    obtain ⟨w, -, he⟩ := Option.map_eq_some_iff.1 e
    cases he
    rfl
  all_goals cases e
  all_goals rfl

theorem readAnchor_sized : Sized readAnchor 4 := by
  unfold readAnchor
  refine read8_sized.bind (m := 3) fun kind => ?_
  match kind with
  | 0 =>
    refine read8_sized.bind (m := 2) fun h => ?_
    refine read8_sized.bind (m := 1) fun m => ?_
    exact read8_sized.last fun _ _ _ _ e => by cases e; rfl
  | 1 =>
    refine (readSigned_sized 2).bind (m := 1) fun offset => ?_
    exact read8_sized.last fun _ _ _ _ e => by cases e; rfl
  | k + 2 => exact ⟨fun _ _ => rfl, nofun⟩

theorem u16_eq (n : Nat) : u16 n = u8 (n / 256) ++ u8 (n % 256) := by
  have low : BitVec.ofNat 8 (n % 256) = BitVec.ofNat 8 n := BitVec.eq_of_toNat_eq (by simp)
  simp only [u16, u8, bytesOf, low, List.nil_append]

/-- The kind of a recurrence and its four bytes (section 11.5). -/
def recurrencePlaces : Recurrence → Nat × List Nat
  | .once d => (0, [d.year / 256, d.year % 256, d.month, d.day])
  | .daily => (1, [0, 0, 0, 0])
  | .weekly w => (2, [w.toNat, 0, 0, 0])
  | .monthlyNth week weekday months => (3, [week, weekday.index + 1, months.toNat / 256, months.toNat % 256])
  | .annual month day => (4, [month, day, 0, 0])

theorem recurrenceBytes_eq (x : Recurrence) :
    recurrenceBytes x = u8 (recurrencePlaces x).1 ++ (recurrencePlaces x).2.flatMap u8 := by
  cases x <;> simp [recurrenceBytes, recurrencePlaces, dateBytes, u16_eq, u8, List.replicate]

theorem recurrencePlaces_fit {x : Recurrence} (h : x.fits = true) : (recurrencePlaces x).2.all byteOk = true := by
  cases x with
  | once d =>
    simp only [Recurrence.fits, dateFits, Bool.and_eq_true, wordOk, byteOk, decide_eq_true_eq] at h
    simp [recurrencePlaces, byteOk]
    omega
  | daily => rfl
  | weekly w =>
    have := w.isLt
    simp [recurrencePlaces, byteOk]
    omega
  | monthlyNth week w months =>
    have days : w.index + 1 ≤ 255 := by cases w <;> decide
    have := months.isLt
    simp only [Recurrence.fits, byteOk, decide_eq_true_eq] at h
    simp [recurrencePlaces, byteOk]
    omega
  | annual month day =>
    simp only [Recurrence.fits, Bool.and_eq_true, byteOk, decide_eq_true_eq] at h
    simp [recurrencePlaces, byteOk]
    omega

theorem readRecurrence_back : ReadsBack readRecurrence recurrenceBytes Recurrence.fits := by
  intro x h
  have places := readMany_back read8_back _ (recurrencePlaces_fit h)
  rw [recurrenceBytes_eq]
  cases x with
  | once d => exact .bind (read8_back 0 rfl) <| .last places fun _ => by simp [recurrencePlaces, Nat.div_add_mod']
  | daily => exact .bind (read8_back 1 rfl) <| .last places fun _ => rfl
  | weekly w => exact .bind (read8_back 2 rfl) <| .last places fun _ => by simp [recurrencePlaces]
  | monthlyNth week w months =>
    refine .bind (read8_back 3 rfl) <| .last places fun _ => ?_
    have day : weekdays[w.index]? = some w := by cases w <;> rfl
    simp [recurrencePlaces, Nat.div_add_mod', day]
  | annual month day => exact .bind (read8_back 4 rfl) <| .last places fun _ => rfl

theorem readAnchor_back : ReadsBack readAnchor anchorBytes Anchor.fits := by
  intro x h
  cases x with
  | clock hour minute second =>
    simp only [Anchor.fits, Bool.and_eq_true] at h
    obtain ⟨⟨hour, minute⟩, second⟩ := h
    simp only [anchorBytes, List.append_assoc]
    exact .bind (read8_back 0 rfl) <| .bind (read8_back _ hour) <| .bind (read8_back _ minute) <|
      .last (read8_back _ second) fun _ => rfl
  | dusk offset =>
    simp only [anchorBytes, List.append_assoc]
    exact .bind (read8_back 1 rfl) <| .bind (readSigned2_back _ h) <| .last (read8_back 0 rfl) fun _ => rfl

/-! ## Action blocks -/

/-- The code of an action's kind and the bytes of its fields (section 11.5). -/
def actionBlock : ActionKind → Nat × List Byte
  | .play tune transposition repeats yields => (1, handleBytes tune ++ signed 1 transposition ++ u8 repeats ++ yesNo yields)
  | .toll bell interval blows velocity => (2, u8 bell ++ u8 interval ++ u16 blows ++ u8 velocity)
  | .swing bell minutes => (3, u8 bell ++ u8 minutes)
  | .sceneUp scene hold => (4, handleBytes scene ++ u16 hold)
  | .sceneDown scene => (5, handleBytes scene)
  | .silence minutes => (6, u8 minutes)

theorem actionBytes_eq (a : Action) : actionBytes a = u8 (actionBlock a.kind).1 ++ (u16 a.offset ++ ((actionBlock a.kind).2
    ++ List.replicate (7 - (actionBlock a.kind).2.length) 0)) := by
  simp only [actionBytes, List.append_assoc]
  rfl

theorem readActionKind_back {a : Action} (h : a.fits = true) :
    Reads (readActionKind (actionBlock a.kind).1) (actionBlock a.kind).2 fun _ => a.kind := by
  obtain ⟨offset, kind⟩ := a
  simp only [Action.fits, Bool.and_eq_true] at h
  obtain ⟨-, h⟩ := h
  cases kind with
  | play tune transposition repeats yields =>
    simp only [Bool.and_eq_true] at h
    obtain ⟨⟨tune, transposition⟩, repeats⟩ := h
    simp only [actionBlock, List.append_assoc]
    exact .bind (readHandle_back _ tune) <| .bind (readSigned1_back _ transposition) <| .bind (read8_back _ repeats) <|
      .last (readYesNo_back _ rfl) fun _ => rfl
  | toll bell interval blows velocity =>
    simp only [Bool.and_eq_true] at h
    obtain ⟨⟨⟨bell, interval⟩, blows⟩, velocity⟩ := h
    simp only [actionBlock, List.append_assoc]
    exact .bind (read8_back _ bell) <| .bind (read8_back _ interval) <| .bind (read16_back _ blows) <|
      .last (read8_back _ velocity) fun _ => rfl
  | swing bell minutes =>
    simp only [Bool.and_eq_true] at h
    exact .bind (read8_back _ h.1) <| .last (read8_back _ h.2) fun _ => rfl
  | sceneUp scene hold =>
    simp only [Bool.and_eq_true] at h
    exact .bind (readHandle_back _ h.1) <| .last (read16_back _ h.2) fun _ => rfl
  | sceneDown scene => exact .last (readHandle_back _ h) fun _ => rfl
  | silence minutes => exact .last (read8_back _ h) fun _ => rfl

/-- The fields of an action block, wherever it ends. -/
def readActionFields (b : List Byte) : Option Action := do
  let (kind, c) ← read8 b
  let (offset, c) ← read16 c
  let k ← readActionKind kind c
  some { offset := offset, kind := k }

theorem readAction_eq (b : List Byte) :
    readAction b = if b.length < 10 then none else (readActionFields b).map fun a => (a, b.drop 10) := by
  unfold readAction readActionFields
  refine if_congr Iff.rfl rfl ?_
  rcases read8 b with - | ⟨kind, c⟩
  · rfl
  · rcases e : read16 c with - | ⟨offset, d⟩
    · simp [e]
    · cases k : readActionKind kind d <;> simp [e, k]

theorem readAction_sized : Sized readAction 10 where
  short b h := if_pos h
  left b x c h := by
    rw [readAction_eq] at h
    split at h
    · cases h
    · obtain ⟨y, -, he⟩ := Option.map_eq_some_iff.1 h
      cases he
      rfl

theorem readAction_back : ReadsBack readAction actionBytes Action.fits := by
  intro a h
  refine readAction_sized.spells (actionBytes_length a) fun c => ?_
  have offset : wordOk a.offset = true := by
    simp only [Action.fits, Bool.and_eq_true] at h
    exact h.1
  have code : byteOk (actionBlock a.kind).1 = true := by cases a.kind <;> rfl
  have fields : Reads readActionFields (u8 (actionBlock a.kind).1 ++ (u16 a.offset ++ (actionBlock a.kind).2)) fun _ => a :=
    .bind (read8_back _ code) <| .bind (read16_back _ offset) <| (readActionKind_back h).bindSome rfl
  rw [readAction_eq, if_neg (by rw [List.length_append, actionBytes_length]; omega), List.drop_left' (actionBytes_length a),
    actionBytes_eq]
  have := fields.whole (List.replicate (7 - (actionBlock a.kind).2.length) 0 ++ c)
  simp only [List.append_assoc] at this ⊢
  rw [this]
  rfl

/-! ## The configuration of an occasion record -/

/-- The fields of an occasion record, wherever the record ends. -/
def readOccasionFields (b : List Byte) : Option OccasionConfig := do
  let (label, c) ← readLabel b
  let (recurrence, c) ← readRecurrence c
  let (window, c) ← read8 c
  let (first, c) ← readDate c
  let (last, c) ← readDate c
  let (anchor, c) ← readAnchor c
  let (grace, c) ← read8 c
  let (priority, c) ← read8 c
  let (count, c) ← read8 c
  if 4 < count then none
  else do
    let (actions, _) ← readMany readAction count c
    some { label := label, recurrence := recurrence,
           firstDate := if window % 2 = 1 then some first else none,
           lastDate := if window / 2 % 2 = 1 then some last else none,
           anchor := anchor, grace := grace, priority := priority, actions := actions }

theorem readOccasion_eq (b : List Byte) :
    readOccasion b = if b.length < 77 then none else (readOccasionFields b).map fun x => (x, b.drop 77) := by
  unfold readOccasion readOccasionFields
  refine if_congr Iff.rfl rfl ?_
  simp only [Option.bind_eq_bind, Option.map_bind, Function.comp_def, apply_ite (Option.map _), Option.map_none, Option.map_some]

/-- The date a window names, which is none where its presence bit is clear. -/
def windowDate (d : Option Date) : Date := d.getD { year := 0, month := 0, day := 0 }

theorem windowBytes_eq (d : Option Date) : windowBytes d = dateBytes (windowDate d) := by
  cases d <;> rfl

theorem windowDate_fits {d : Option Date} (h : d.all dateFits = true) : dateFits (windowDate d) = true := by
  cases d with
  | none => rfl
  | some d => exact h

theorem readOccasion_back {x : OccasionConfig} (h : x.fits = true) (ends : x.label.getLast? ≠ some 0#8) :
    Spells readOccasion (occasionConfigBytes x) x := by
  simp only [OccasionConfig.fits, Bool.and_eq_true, decide_eq_true_eq] at h
  obtain ⟨⟨⟨⟨⟨⟨⟨⟨label, recurrence⟩, first⟩, last⟩, anchor⟩, grace⟩, priority⟩, four⟩, actions⟩ := h
  have long := occasionConfigBytes_length four
  have window : byteOk ((if x.firstDate.isSome then 1 else 0) + if x.lastDate.isSome then 2 else 0) = true := by
    cases x.firstDate <;> cases x.lastDate <;> rfl
  have count : byteOk x.actions.length = true := by simp only [byteOk, decide_eq_true_eq]; omega
  have fields : Reads readOccasionFields (labelBytes x.label ++ (recurrenceBytes x.recurrence
      ++ (u8 ((if x.firstDate.isSome then 1 else 0) + if x.lastDate.isSome then 2 else 0) ++ (dateBytes (windowDate x.firstDate)
      ++ (dateBytes (windowDate x.lastDate) ++ (anchorBytes x.anchor ++ (u8 x.grace ++ (u8 x.priority ++ (u8 x.actions.length
      ++ x.actions.flatMap actionBytes))))))))) fun _ => x := by
    refine .bind (readLabel_spells label ends) <| .bind (readRecurrence_back _ recurrence) <| .bind (read8_back _ window) <|
      .bind (readDate_back _ (windowDate_fits first)) <| .bind (readDate_back _ (windowDate_fits last)) <|
      .bind (readAnchor_back _ anchor) <| .bind (read8_back _ grace) <| .bind (read8_back _ priority) <|
      .bind (read8_back _ count) <| .ite_neg (Nat.not_lt.2 four) <| .last (readMany_back readAction_back _ actions) fun _ => ?_
    obtain ⟨l, r, first, last, -, -, -, -⟩ := x
    cases first <;> cases last <;> simp [windowDate]
  refine ⟨fun c => ?_, fun n hn => ?_⟩
  · have whole := fields.whole (List.replicate (10 * (4 - x.actions.length)) 0 ++ c)
    rw [readOccasion_eq, if_neg (by rw [List.length_append]; omega), List.drop_left' long, occasionConfigBytes, windowBytes_eq,
      windowBytes_eq]
    simp only [List.append_assoc] at whole ⊢
    rw [whole]
    rfl
  · exact if_pos (by rw [List.length_take]; omega)

end Sys2Proof
end

section
/-! Tune steps, lists of pairs, and when a payload of them or of an occasion record cannot be read (section 11.5). -/

namespace Sys2Proof

open Machine

/-! ## Fields of one form until the payload ends -/

theorem readAll_back {α : Type} {f : List Byte → Option (α × List Byte)} {bytes : α → List Byte} {l : List α}
    (hf : ∀ x ∈ l, Spells f (bytes x) x ∧ bytes x ≠ []) {fuel : Nat} (enough : l.length ≤ fuel) :
    readAll f fuel (l.flatMap bytes) = some l := by
  induction l generalizing fuel with
  | nil => cases fuel <;> rfl
  | cons x l ih =>
    obtain ⟨spells, some⟩ := hf x List.mem_cons_self
    obtain ⟨fuel, rfl⟩ : ∃ n, fuel = n + 1 := ⟨fuel - 1, by simp at enough; omega⟩
    have tail := ih (fun y hy => hf y (List.mem_cons_of_mem _ hy)) (Nat.le_of_succ_le_succ enough)
    have whole := spells.whole (l.flatMap bytes)
    rw [List.flatMap_cons]
    cases e : bytes x ++ l.flatMap bytes with
    | nil => exact absurd (List.append_eq_nil_iff.1 e).1 some
    | cons y b =>
      rw [e] at whole
      simp [readAll, whole, tail]

/-- A payload of fields of a set size is refused where one of them is, or is cut short. -/
theorem readAll_none_iff {α : Type} {f : List Byte → Option (α × List Byte)} {k : Nat} (hs : Sized f k) (hk : 0 < k)
    {fuel : Nat} {p : List Byte} (enough : p.length ≤ fuel) :
    readAll f fuel p = none ↔ ∃ j, k * j < p.length ∧ f (p.drop (k * j)) = none := by
  induction fuel generalizing p with
  | zero =>
    obtain rfl := List.length_eq_zero_iff.1 (Nat.le_zero.1 enough)
    simp [readAll]
  | succ fuel ih =>
    cases p with
    | nil => simp [readAll]
    | cons y p =>
      cases e : f (y :: p) with
      | none => exact iff_of_true (by simp [readAll, e]) ⟨0, by simp, by simpa using e⟩
      | some r =>
        obtain ⟨x, c⟩ := r
        have left := hs.left _ x c e
        have shorter : c.length ≤ fuel := by
          simp only [left, List.length_drop, List.length_cons] at enough ⊢
          omega
        have step : readAll f (fuel + 1) (y :: p) = none ↔ readAll f fuel c = none := by
          cases t : readAll f fuel c <;> simp [readAll, e, t]
        rw [step, ih shorter]
        constructor
        · rintro ⟨j, lt, bad⟩
          refine ⟨j + 1, ?_, ?_⟩
          · rw [left, List.length_drop] at lt
            rw [Nat.mul_succ]
            omega
          · rw [left, List.drop_drop] at bad
            rwa [Nat.mul_succ, Nat.add_comm]
        · rintro ⟨j, lt, bad⟩
          cases j with
          | zero =>
            rw [Nat.mul_zero, List.drop_zero, e] at bad
            cases bad
          | succ j =>
            rw [Nat.mul_succ] at lt bad
            refine ⟨j, ?_, ?_⟩
            · rw [left, List.length_drop]
              omega
            · rwa [left, List.drop_drop, Nat.add_comm]

/-- Where a field of the set size is refused by its bytes alone, the payload is by its length or by those of one place. -/
theorem readAll_none_iff_places {α : Type} {f : List Byte → Option (α × List Byte)} {k : Nat} (hs : Sized f k) (hk : 0 < k)
    {bad : List Byte → Prop} (hbad : ∀ b, k ≤ b.length → (f b = none ↔ bad b)) {fuel : Nat} {p : List Byte}
    (enough : p.length ≤ fuel) :
    readAll f fuel p = none ↔ p.length % k ≠ 0 ∨ ∃ j, k * j < p.length ∧ bad (p.drop (k * j)) := by
  rw [readAll_none_iff hs hk enough]
  constructor
  · rintro ⟨j, lt, none⟩
    by_cases room : k ≤ (p.drop (k * j)).length
    · exact .inr ⟨j, lt, (hbad _ room).1 none⟩
    · rw [List.length_drop] at room
      have left : p.length % k = p.length - k * j := by
        rw [← Nat.sub_add_cancel (Nat.le_of_lt lt), Nat.add_mul_mod_self_left, Nat.add_sub_cancel,
          Nat.mod_eq_of_lt (Nat.lt_of_not_le room)]
      exact .inl (by omega)
  · rintro (cut | ⟨j, lt, h⟩)
    · have whole := Nat.div_add_mod p.length k
      have less := Nat.mod_lt p.length hk
      exact ⟨p.length / k, by omega, hs.short _ (by rw [List.length_drop]; omega)⟩
    · refine ⟨j, lt, ?_⟩
      by_cases room : k ≤ (p.drop (k * j)).length
      · exact (hbad _ room).2 h
      · exact hs.short _ (Nat.lt_of_not_le room)

/-! ## Tune steps -/

theorem readStep_sized : Sized readStep 8 := by
  unfold readStep
  refine read8_sized.bind (m := 7) fun kind => ?_
  refine read8_sized.bind (m := 6) fun first => ?_
  refine read8_sized.bind (m := 5) fun high => ?_
  refine read8_sized.bind (m := 4) fun low => ?_
  refine (readMany_sized read8_sized 4).last ?_
  intro rest b y c e
  match kind, e with
  | 1, e =>
    obtain ⟨d, -, he⟩ := Option.map_eq_some_iff.1 e
    cases he
    rfl
  | 2, e => cases e; rfl
  | 3, e => cases e; rfl

theorem readDegrees_padded {d : List Nat} (h : 255 ∉ d) (n : Nat) : readDegrees (d ++ List.replicate n 255) = some d := by
  have used : (d ++ List.replicate n 255).takeWhile (· != 255) = d := by
    rw [List.takeWhile_append_of_pos (fun x hx => by simpa using fun e : x = 255 => h (e ▸ hx))]
    simp
  simp [readDegrees, used]

theorem readStep_spells {x : Step} (h : x.fits = true) (sounds : ∀ k v d, x = .note k v d → 255 ∉ k) :
    Spells readStep (stepBytes x) x := by
  have halves {n : Nat} (hn : wordOk n = true) : byteOk (n / 256) = true ∧ byteOk (n % 256) = true := by
    simp only [wordOk, byteOk, decide_eq_true_eq] at hn ⊢
    omega
  have zeros : Spells (readMany read8 4) (List.replicate 4 0#8) [0, 0, 0, 0] :=
    readMany_back read8_back [0, 0, 0, 0] rfl
  cases x with
  | note d v t =>
    simp only [Step.fits, Bool.and_eq_true, decide_eq_true_eq] at h
    obtain ⟨⟨⟨four, degrees⟩, velocity⟩, duration⟩ := h
    have size : (d ++ List.replicate (4 - d.length) 255).length = 4 := by
      rw [List.length_append, List.length_replicate]
      omega
    have places := readMany_back read8_back (d ++ List.replicate (4 - d.length) 255)
      (by rw [List.all_append, degrees]; simp [List.all_replicate, byteOk])
    rw [size, List.flatMap_append] at places
    have pad : (List.replicate (4 - d.length) 255).flatMap u8 = List.replicate (4 - d.length) 255#8 := by
      simp [List.flatMap_replicate, u8]
    rw [pad] at places
    simp only [stepBytes, u16_eq, List.append_assoc]
    exact .bind (read8_back 1 rfl) <| .bind (read8_back _ velocity) <| .bind (read8_back _ (halves duration).1) <|
      .bind (read8_back _ (halves duration).2) <| .last places fun _ => by
        simp [readDegrees_padded (sounds d v t rfl), Nat.div_add_mod']
  | rest t =>
    simp only [stepBytes, u16_eq, List.append_assoc]
    exact .bind (read8_back 2 rfl) <| .bind (read8_back 0 rfl) <| .bind (read8_back _ (halves h).1) <|
      .bind (read8_back _ (halves h).2) <| .last zeros fun _ => by simp [Nat.div_add_mod']
  | call tune repeats =>
    simp only [Step.fits, handleFits, Bool.and_eq_true] at h
    obtain ⟨⟨slot, gen⟩, repeats⟩ := h
    simp only [stepBytes, handleBytes, List.append_assoc]
    exact .bind (read8_back 3 rfl) <| .bind (read8_back _ repeats) <| .bind (read8_back _ slot) <| .bind (read8_back _ gen) <|
      .last zeros fun _ => rfl

theorem readDegrees_four_none_iff (a b c d : Nat) : readDegrees [a, b, c, d] = none ↔
    a = 255 ∧ b ≠ 255 ∨ b = 255 ∧ c ≠ 255 ∨ c = 255 ∧ d ≠ 255 := by
  by_cases ha : a = 255 <;> by_cases hb : b = 255 <;> by_cases hc : c = 255 <;> by_cases hd : d = 255 <;>
    simp [readDegrees, ha, hb, hc, hd]

theorem read8_cons (x : Byte) (b : List Byte) : read8 (x :: b) = some (x.toNat, b) := by simp [read8, readNat]

theorem readMany_four (x y z w : Byte) (b : List Byte) :
    readMany read8 4 (x :: y :: z :: w :: b) = some ([x.toNat, y.toNat, z.toNat, w.toNat], b) := by
  simp [readMany, read8_cons]

/-- The code of a byte at a place of a payload. -/
def byteAt (p : List Byte) (k : Nat) : Nat := (p.getD k 0#8).toNat

theorem byteAt_drop (p : List Byte) (n k : Nat) : byteAt (p.drop n) k = byteAt p (n + k) := by
  simp [byteAt, List.getD_eq_getElem?_getD]

/-- Whether the bytes of a step cannot be read as one: no kind of step, or a degree after one that is not used. -/
def stepRefused (b : List Byte) : Prop :=
  byteAt b 0 = 0 ∨ 3 < byteAt b 0 ∨ (byteAt b 0 = 1 ∧ ∃ k, 4 ≤ k ∧ k < 7 ∧ byteAt b k = 255 ∧ byteAt b (k + 1) ≠ 255)

theorem readStep_none_iff {b : List Byte} (long : 8 ≤ b.length) : readStep b = none ↔ stepRefused b := by
  match b, long with
  | x0 :: x1 :: x2 :: x3 :: x4 :: x5 :: x6 :: x7 :: b, _ =>
    have places (P : Nat → Prop) : (∃ k, 4 ≤ k ∧ k < 7 ∧ P k) ↔ P 4 ∨ P 5 ∨ P 6 := by
      constructor
      · rintro ⟨k, low, high, h⟩
        obtain rfl | rfl | rfl : k = 4 ∨ k = 5 ∨ k = 6 := by omega
        exacts [.inl h, .inr (.inl h), .inr (.inr h)]
      · rintro (h | h | h)
        exacts [⟨4, by omega, by omega, h⟩, ⟨5, by omega, by omega, h⟩, ⟨6, by omega, by omega, h⟩]
    rw [stepRefused, places]
    simp only [byteAt, readStep, read8_cons, readMany_four, Option.bind_eq_bind, Option.bind_some,
      List.getD_cons_zero,
      List.getD_cons_succ]
    generalize x0.toNat = kind
    match kind with
    | 0 => simp
    | 1 => simp [readDegrees_four_none_iff]
    | 2 => simp
    | 3 => simp
    | k + 4 => simp

/-! ## When an occasion record cannot be read -/

theorem readMany_none_iff {α : Type} {f : List Byte → Option (α × List Byte)} {k : Nat} (hs : Sized f k) (n : Nat) (b : List Byte) :
    readMany f n b = none ↔ ∃ j, j < n ∧ f (b.drop (k * j)) = none := by
  induction n generalizing b with
  | zero => simp [readMany]
  | succ n ih =>
    cases e : f b with
    | none => exact iff_of_true (by simp [readMany, e]) ⟨0, Nat.succ_pos n, by simpa using e⟩
    | some r =>
      obtain ⟨x, c⟩ := r
      obtain rfl := hs.left b x c e
      have step : readMany f (n + 1) b = none ↔ readMany f n (b.drop k) = none := by
        cases t : readMany f n (b.drop k) <;> simp [readMany, e, t]
      rw [step, ih]
      constructor
      · rintro ⟨j, lt, bad⟩
        rw [List.drop_drop] at bad
        exact ⟨j + 1, by omega, by rwa [Nat.mul_succ, Nat.add_comm]⟩
      · rintro ⟨j, lt, bad⟩
        cases j with
        | zero =>
          rw [Nat.mul_zero, List.drop_zero, e] at bad
          cases bad
        | succ j => exact ⟨j, by omega, by rwa [List.drop_drop, Nat.add_comm, ← Nat.mul_succ]⟩

theorem readRecurrence_none_iff {b : List Byte} (long : 5 ≤ b.length) : readRecurrence b = none ↔
    4 < byteAt b 0 ∨ (byteAt b 0 = 3 ∧ (byteAt b 2 = 0 ∨ 7 < byteAt b 2)) := by
  match b, long with
  | x0 :: x1 :: x2 :: x3 :: x4 :: b, _ =>
    simp only [byteAt, readRecurrence, read8_cons, readMany_four, Option.bind_eq_bind, Option.bind_some,
      List.getD_cons_zero,
      List.getD_cons_succ]
    generalize x0.toNat = kind
    match kind with
    | 0 => simp
    | 1 => simp
    | 2 => simp
    | 3 =>
      have places (n : Nat) : (if n = 0 then none else weekdays[n - 1]?) = none ↔ n = 0 ∨ 7 < n := by
        by_cases h : n = 0
        · simp [h]
        · rw [if_neg h, List.getElem?_eq_none_iff]
          simp only [weekdays, List.length_cons, List.length_nil]
          omega
      simp [places]
    | 4 => simp
    | k + 5 => simp

theorem readAnchor_none_iff {b : List Byte} (long : 4 ≤ b.length) : readAnchor b = none ↔ 1 < byteAt b 0 := by
  match b, long with
  | x0 :: x1 :: x2 :: x3 :: b, _ =>
    simp only [byteAt, readAnchor, read8_cons, Option.bind_eq_bind, Option.bind_some, List.getD_cons_zero]
    generalize x0.toNat = kind
    match kind with
    | 0 => simp
    | 1 => simp [readSigned, readNat, read8_cons]
    | k + 2 => simp

/-- Whether the bytes of an action block cannot be read as one: no kind of action, or a yields byte that is neither yes nor no. -/
def actionRefused (b : List Byte) : Prop := byteAt b 0 = 0 ∨ 6 < byteAt b 0 ∨ (byteAt b 0 = 1 ∧ 1 < byteAt b 7)

theorem readYesNo_none_iff (x : Byte) (b : List Byte) : readYesNo (x :: b) = none ↔ 1 < x.toNat := by
  simp only [readYesNo, readEnum, read8_cons, Option.map_eq_none_iff, List.getElem?_eq_none_iff, List.length_cons, List.length_nil]
  omega

theorem readAction_none_iff {b : List Byte} (long : 10 ≤ b.length) : readAction b = none ↔ actionRefused b := by
  rw [readAction_eq, if_neg (Nat.not_lt.2 long), Option.map_eq_none_iff]
  match b, long with
  | x0 :: x1 :: x2 :: x3 :: x4 :: x5 :: x6 :: x7 :: x8 :: x9 :: b, _ =>
    have yields := readYesNo_none_iff x7 (x8 :: x9 :: b)
    simp only [actionRefused, byteAt, readActionFields, read8_cons, read16, readNat, Option.bind_eq_bind, Option.bind_some,
      List.getD_cons_zero,
      List.getD_cons_succ, Option.map_some]
    generalize x0.toNat = kind
    match kind with
    | 0 => simp [readActionKind]
    | 1 => 
      cases e : readYesNo (x7 :: x8 :: x9 :: b)
      all_goals simp [e] at yields
      all_goals simp [readActionKind, readHandle, read8_cons, readSigned, readNat, e, yields]
    | 2 => simp [readActionKind, read8_cons, read16, readNat]
    | 3 => simp [readActionKind, read8_cons]
    | 4 => simp [readActionKind, readHandle, read8_cons, read16, readNat]
    | 5 => simp [readActionKind, readHandle, read8_cons]
    | 6 => simp [readActionKind, read8_cons]
    | k + 7 => simp [readActionKind]

theorem readDate_cons (x y z w : Byte) (b : List Byte) : readDate (x :: y :: z :: w :: b)
    = some ({ year := x.toNat * 256 + y.toNat, month := z.toNat, day := w.toNat }, b) := by
  simp [readDate, read16, readNat, read8_cons]

theorem readOccasion_none_iff (p : List Byte) : readOccasion p = none ↔ p.length < 77 ∨ 4 < byteAt p 16 ∨
    (byteAt p 16 = 3 ∧ (byteAt p 18 = 0 ∨ 7 < byteAt p 18)) ∨ 1 < byteAt p 30 ∨ 4 < byteAt p 36 ∨
    ∃ j, j < byteAt p 36 ∧ actionRefused (p.drop (37 + 10 * j)) := by
  rw [readOccasion_eq]
  by_cases long : p.length < 77
  · simp [long]
  rw [if_neg long, Option.map_eq_none_iff]
  have byte {n : Nat} (h : n < 77) : read8 (p.drop n) = some (byteAt p n, p.drop (n + 1)) := by
    rw [List.drop_eq_getElem_cons (by omega), read8_cons]
    simp [byteAt, List.getD_eq_getElem?_getD, show n < p.length by omega]
  have date {n : Nat} (h : n + 4 ≤ 77) : ∃ d, readDate (p.drop n) = some (d, p.drop (n + 4)) := by
    rw [List.drop_eq_getElem_cons (by omega), List.drop_eq_getElem_cons (i := n + 1) (by omega),
      List.drop_eq_getElem_cons (i := n + 2) (by omega), List.drop_eq_getElem_cons (i := n + 3) (by omega)]
    exact ⟨_, readDate_cons _ _ _ _ _⟩
  obtain ⟨first, hfirst⟩ := date (n := 22) (by omega)
  obtain ⟨last, hlast⟩ := date (n := 26) (by omega)
  have label : readLabel p = some (_, p.drop 16) := if_pos (by omega)
  have window : read8 (p.drop 21) = some (byteAt p 21, p.drop 22) := byte (by omega)
  have grace : read8 (p.drop 34) = some (byteAt p 34, p.drop 35) := byte (by omega)
  have priority : read8 (p.drop 35) = some (byteAt p 35, p.drop 36) := byte (by omega)
  have count : read8 (p.drop 36) = some (byteAt p 36, p.drop 37) := byte (by omega)
  have recurs := readRecurrence_none_iff (b := p.drop 16) (by rw [List.length_drop]; omega)
  have anchors := readAnchor_none_iff (b := p.drop 30) (by rw [List.length_drop]; omega)
  simp only [byteAt_drop] at recurs anchors
  cases hr : readRecurrence (p.drop 16) with
  | none =>
    have none : readOccasionFields p = none := by
      simp only [readOccasionFields, Option.bind_eq_bind, label, Option.bind_some, hr, Option.bind_none]
    exact iff_of_true none (.inr ((recurs.1 hr).elim .inl fun h => .inr (.inl h)))
  | some r =>
    obtain ⟨r, c⟩ := r
    obtain rfl : c = p.drop 21 := (readRecurrence_sized.left _ _ _ hr).trans List.drop_drop
    cases ha : readAnchor (p.drop 30) with
    | none =>
      have none : readOccasionFields p = none := by
        simp only [readOccasionFields, Option.bind_eq_bind, label, Option.bind_some, hr, window, hfirst, hlast, ha, Option.bind_none]
      exact iff_of_true none (.inr (.inr (.inr (.inl (anchors.1 ha)))))
    | some a =>
      obtain ⟨a, c⟩ := a
      obtain rfl : c = p.drop 34 := (readAnchor_sized.left _ _ _ ha).trans List.drop_drop
      have fields : readOccasionFields p = none ↔ 4 < byteAt p 36 ∨ readMany readAction (byteAt p 36) (p.drop 37) = none := by
        simp only [readOccasionFields, Option.bind_eq_bind, label, Option.bind_some, hr, window, hfirst, hlast, ha, grace, priority,
          count]
        by_cases many : 4 < byteAt p 36
        · simp only [many, if_true, true_or]
        · cases e : readMany readAction (byteAt p 36) (p.drop 37) <;> simp [many]
      have refused {j : Nat} (few : ¬4 < byteAt p 36) (lt : j < byteAt p 36) :
          readAction ((p.drop 37).drop (10 * j)) = none ↔ actionRefused (p.drop (37 + 10 * j)) := by
        rw [List.drop_drop]
        exact readAction_none_iff (by rw [List.length_drop]; omega)
      rw [fields, readMany_none_iff readAction_sized]
      constructor
      · intro h
        by_cases few : 4 < byteAt p 36
        · exact .inr (.inr (.inr (.inr (.inl few))))
        · obtain ⟨j, lt, bad⟩ := h.resolve_left few
          exact .inr (.inr (.inr (.inr (.inr ⟨j, lt, (refused few lt).1 bad⟩))))
      · rintro (short | recurrence | recurrence | anchor | many | ⟨j, lt, bad⟩)
        · exact absurd short long
        · exact absurd (recurs.2 (.inl recurrence)) (by rw [hr]; nofun)
        · exact absurd (recurs.2 (.inr recurrence)) (by rw [hr]; nofun)
        · exact absurd (anchors.2 anchor) (by rw [ha]; nofun)
        · exact .inl many
        · by_cases few : 4 < byteAt p 36
          · exact .inl few
          · exact .inr ⟨j, lt, (refused few lt).2 bad⟩

end Sys2Proof
end

section
/-! The bytes of each request (R184, section 11.5): what spells it, and that nothing else does. -/

namespace Sys2Proof

open Machine

variable {slot gen : Nat} {p : List Byte} {q : Request}

theorem byteOk_iff {n : Nat} : byteOk n = true ↔ n < 256 := by
  simp only [byteOk, decide_eq_true_eq]
  omega

theorem wordOk_iff {n : Nat} : wordOk n = true ↔ n < 65536 := by
  simp only [wordOk, decide_eq_true_eq]
  omega

/-! ## The forms of the two directions -/

/-- The bytes that a request has been read from have the form `form`, and stand at the head of the payload. -/
def SpeltOnly (command cls slot gen : Nat) (form : List Byte → Request → Prop) : Prop :=
  ∀ p q, p.length ≤ 512 → decodeRequest command cls slot gen p = some q → ∃ a b, p = a ++ b ∧ form a q

theorem speltOnly_of_read {α : Type} {command cls : Nat} {form : List Byte → Request → Prop} {f : List Byte → Option (α × List Byte)}
    {r : α → Request} (h : ∀ p, decodeRequest command cls slot gen p = (f p).map fun x => r x.1)
    (hf : ∀ {p x c}, p.length ≤ 512 → f p = some (x, c) → ∃ a, p = a ++ c ∧ form a (r x)) : SpeltOnly command cls slot gen form := by
  intro p q size e
  rw [h, Option.map_eq_some_iff] at e
  obtain ⟨⟨x, c⟩, e, rfl⟩ := e
  obtain ⟨a, hp, ha⟩ := hf size e
  exact ⟨a, c, hp, ha⟩

/-- A request of one record, which has one spelling. -/
theorem speltOnly_of_only {α : Type} {command cls : Nat} {form : List Byte → Request → Prop} {f : List Byte → Option (α × List Byte)}
    {bytes : α → List Byte} {fits : α → Bool} {r : α → Request} (hf : ReadsOnly f bytes fits)
    (h : ∀ p, decodeRequest command cls slot gen p = (f p).map fun x => r x.1) (hform : ∀ x, fits x = true → form (bytes x) (r x)) :
    SpeltOnly command cls slot gen form :=
  speltOnly_of_read h fun {_ x _} _ e => ⟨bytes x, (hf e).1, hform x (hf e).2⟩

/-- The record of a label: its fields, and the label's end. -/
theorem speltOnly_of_labelled {α : Type} {command cls : Nat} {form : List Byte → Request → Prop}
    {f : List Byte → Option (α × List Byte)} {bytes : α → List Byte} {fits : α → Bool} {label : α → Label} {r : α → Request}
    (hf : ReadsOnly f bytes fun x => fits x && (label x).getLast? != some 0#8)
    (h : ∀ p, decodeRequest command cls slot gen p = (f p).map fun x => r x.1)
    (hform : ∀ x, fits x = true → (label x).getLast? ≠ some 0#8 → form (bytes x) (r x)) : SpeltOnly command cls slot gen form :=
  speltOnly_of_only hf h fun x hx => by
    simp only [Bool.and_eq_true, bne_iff_ne, ne_eq] at hx
    exact hform x hx.1 hx.2

/-- The record of a scene, whose levels are read by their count. -/
theorem speltOnly_of_scene {command cls : Nat} {form : List Byte → Request → Prop} {r : SceneConfig → Request}
    (h : ∀ p, decodeRequest command cls slot gen p = (readScene p).map fun x => r x.1)
    (hform : ∀ x, x.fits = true → x.label.getLast? ≠ some 0#8 → form (sceneConfigBytes x) (r x)) :
    SpeltOnly command cls slot gen form :=
  speltOnly_of_read h fun short e =>
    let ⟨bytes, fits, last⟩ := readScene_only short e
    ⟨_, bytes, hform _ fits last⟩

/-- A request that its command and class alone spell. -/
theorem decode_alone {command cls : Nat} (h : ∀ p, decodeRequest command cls slot gen p = some q) :
    Reads (decodeRequest command cls slot gen) [] fun _ => q := ⟨fun _ => h _, nofun⟩

/-! ## The pairs of a command and a class (R184) -/

/-- R184: the classes each command takes. -/
def commandClasses : List (Nat × List Nat) :=
  [(1, List.range' 1 14), (2, [5, 8, 12]), (3, [8, 12]), (4, [5]), (5, [5]), (6, [5]), (7, List.range' 1 14), (8, [5, 8, 12]),
    (9, [8]), (10, [8]), (11, [17]), (12, [2]), (13, [5]), (14, [16]), (15, [4]), (16, [4, 15, 16]), (17, [12]), (18, [12]),
    (19, [2, 3, 4, 5, 7, 8, 11, 12, 17, 18, 19, 20, 21, 22]), (20, [14]), (21, [14]), (22, [14])]

section

variable {command cls : Nat} {h : Handle}

theorem decodeLookUp_class (e : decodeLookUp cls slot h p = some q) : cls ∈ List.range' 1 14 := by
  unfold decodeLookUp at e
  split at e <;> simp_all

theorem decodeListNext_class (e : decodeListNext cls p = some q) : cls ∈ [5, 8, 12] := by
  unfold decodeListNext at e
  split at e <;> simp_all

theorem decodeAmend_class (e : decodeAmend cls slot h p = some q) : cls ∈ List.range' 1 14 := by
  unfold decodeAmend at e
  split at e <;> simp_all

theorem decodeRetire_class (e : decodeRetire cls h p = some q) : cls ∈ [5, 8, 12] := by
  unfold decodeRetire at e
  obtain ⟨r, -, e⟩ := Option.bind_eq_some_iff.1 e
  split at e <;> simp_all

theorem decodeStop_class (e : decodeStop cls slot p = some q) : cls ∈ [4, 15, 16] := by
  unfold decodeStop at e
  split at e <;> simp_all

theorem decodeReadState_class (e : decodeReadState cls slot h = some q) :
    cls ∈ [2, 3, 4, 5, 7, 8, 11, 12, 17, 18, 19, 20, 21, 22] := by
  unfold decodeReadState at e
  split at e <;> simp_all

theorem decodeSingle_class (e : decodeSingle command cls slot h p = some q) : ∃ x ∈ commandClasses, x.1 = command ∧ cls ∈ x.2 := by
  unfold decodeSingle at e
  split at e <;> simp_all [commandClasses]

theorem decodeRequest_class (e : decodeRequest command cls slot gen p = some q) :
    ∃ x ∈ commandClasses, x.1 = command ∧ cls ∈ x.2 := by
  have listed {command : Nat} {classes : List Nat} (hc : (command, classes) ∈ commandClasses) (hm : cls ∈ classes) :
      ∃ x ∈ commandClasses, x.1 = command ∧ cls ∈ x.2 := ⟨_, hc, rfl, hm⟩
  unfold decodeRequest at e
  split at e
  · exact listed (by decide) (decodeLookUp_class e)
  · exact listed (by decide) (decodeListNext_class e)
  · exact listed (by decide) (decodeAmend_class e)
  · exact listed (by decide) (decodeRetire_class e)
  · exact listed (by decide) (decodeStop_class e)
  · exact listed (by decide) (decodeReadState_class e)
  · exact decodeSingle_class e

/-- R184: section 11.5 lists the class for the command, or there is no request. -/
theorem decodeRequest_unlisted (h : ∀ x ∈ commandClasses, x.1 = command → cls ∉ x.2) :
    decodeRequest command cls slot gen p = none :=
  Option.eq_none_iff_forall_ne_some.2 fun _ e =>
    let ⟨x, hx, hc, hm⟩ := decodeRequest_class e
    h x hx hc hm

end

/-! ## LIST NEXT and RETIRE -/

section

variable {α : Type} {states : List α} {r : Option Nat → Option α → Request} {cls : Nat}

/-- The places of the filters of LIST NEXT: the states in order, and last any state. -/
def filterPlaces {α : Type} (states : List α) : List (Nat × Option α) := (states.map some ++ [none]).zipIdx.map Prod.swap

theorem mem_filterPlaces {x : Nat × Option α} : x ∈ filterPlaces states ↔ (states.map some ++ [none])[x.1]? = some x.2 := by
  refine Iff.trans ?_ (List.mk_mem_zipIdx_iff_getElem? (x := x.2) (i := x.1))
  exact ⟨fun h => let ⟨_, hy, e⟩ := List.mem_map.1 h; e ▸ hy, fun h => List.mem_map.2 ⟨_, h, rfl⟩⟩

theorem decode_listNext (few : states.length < 256)
    (h : ∀ p, decodeRequest 2 cls slot gen p = (readListNext states p).map fun y => r y.1.1 y.1.2)
    (x : Nat × Option α) (hx : x ∈ filterPlaces states) :
    Reads (decodeRequest 2 cls slot gen) (u8 0 ++ u8 x.1) (fun _ => r none x.2) ∧
      ∀ k, k < 256 → Reads (decodeRequest 2 cls slot gen) (u8 1 ++ u8 k ++ u8 x.1) fun _ => r (some k) x.2 := by
  have place := mem_filterPlaces.1 hx
  have small : x.1 ≤ 255 := by
    have := (List.getElem?_eq_some_iff.1 place).1
    simp only [List.length_append, List.length_map, List.length_singleton] at this
    omega
  have spells {after : Option Nat} (hafter : after.all byteOk = true) :
      Spells (readListNext states) (Machine.optional u8 after ++ u8 x.1) (after, x.2) :=
    .bind (readOptional_back read8_back _ hafter) <| .last (readEnum_place place small) fun _ => rfl
  rw [funext h]
  exact ⟨(spells (after := none) rfl).map _, fun k hk => (spells (after := some k) (byteOk_iff.2 hk)).map _⟩

theorem listNext_only (h : ∀ p, decodeRequest 2 cls slot gen p = (readListNext states p).map fun y => r y.1.1 y.1.2) :
    SpeltOnly 2 cls slot gen fun a q => ∃ x ∈ filterPlaces states, (a = u8 0 ++ u8 x.1 ∧ q = r none x.2) ∨
      ∃ k, k < 256 ∧ a = u8 1 ++ u8 k ++ u8 x.1 ∧ q = r (some k) x.2 := by
  refine speltOnly_of_read (r := fun y : Option Nat × Option α => r y.1 y.2) h fun {p y c} _ e => ?_
  simp only [readListNext, Option.bind_eq_bind, Option.bind_eq_some_iff] at e
  obtain ⟨⟨after, b0⟩, h0, ⟨f, b1⟩, h1, he⟩ := e
  cases he
  obtain ⟨rfl, fits⟩ := readOptional_only read8_only h0
  obtain ⟨n, place, rfl⟩ : ∃ n, (states.map some ++ [none])[n]? = some f ∧ b0 = u8 n ++ b1 := by
    unfold readEnum at h1
    match h2 : read8 b0, h1 with
    | some (n, d), h1 =>
      obtain ⟨y, hy, he⟩ := Option.map_eq_some_iff.1 h1
      cases he
      exact ⟨n, hy, (read8_only h2).1⟩
  refine ⟨Machine.optional u8 after ++ u8 n, by rw [List.append_assoc], (n, f), mem_filterPlaces.2 place, ?_⟩
  cases after with
  | none => exact .inl ⟨rfl, rfl⟩
  | some k => exact .inr ⟨k, byteOk_iff.1 fits, rfl, rfl⟩

end

theorem readRetireMode_back : ReadsBack readRetireMode (fun m => u8 (if m = .gentle then 0 else 1)) fun _ => true :=
  readEnum_back fun x => by cases x <;> decide

theorem readRetireMode_only : ReadsOnly readRetireMode (fun m => u8 (if m = .gentle then 0 else 1)) fun _ => true :=
  readEnum_only (code := fun m : RetireMode => if m = .gentle then 0 else 1) (codes_are_places rfl)

theorem retire_only {cls : Nat} {form : List Byte → Request → Prop} {r : RetireMode → Request}
    (h : ∀ p, decodeRequest 8 cls slot gen p = (readRetireMode p).bind fun x => some (r x.1))
    (gentle : form (u8 0) (r .gentle)) (abrupt : form (u8 1) (r .abrupt)) : SpeltOnly 8 cls slot gen form := by
  refine speltOnly_of_only readRetireMode_only (r := r) (fun p => (h p).trans Option.map_eq_bind.symm) fun m _ => ?_
  cases m with
  | gentle => exact gentle
  | abrupt => exact abrupt

/-- R184: RETIRE's mode, by its place. -/
def retireForms (h : Handle) : List (Nat × RetireMode × Request) := [(0, .gentle, .retireGentle h), (1, .abrupt, .retireAbrupt h)]

theorem decode_retire (x : Nat × RetireMode × Request) (hx : x ∈ retireForms { slot := slot, gen := gen }) :
    Reads (decodeRequest 8 5 slot gen) (u8 x.1) (fun _ => .retireTune { slot := slot, gen := gen } x.2.1) ∧
      Reads (decodeRequest 8 8 slot gen) (u8 x.1) (fun _ => x.2.2) ∧
      Reads (decodeRequest 8 12 slot gen) (u8 x.1) (fun _ => .retireScene { slot := slot, gen := gen } x.2.1) := by
  simp only [retireForms, List.mem_cons, List.not_mem_nil, or_false] at hx
  have gentle := readRetireMode_back .gentle rfl
  have abrupt := readRetireMode_back .abrupt rfl
  rcases hx with rfl | rfl
  · exact ⟨.last gentle fun _ => rfl, .last gentle fun _ => rfl, .last gentle fun _ => rfl⟩
  · exact ⟨.last abrupt fun _ => rfl, .last abrupt fun _ => rfl, .last abrupt fun _ => rfl⟩

end Sys2Proof
end

section
/-! The requests of several fields, and the payloads that are refused (R184, section 11.5). -/

namespace Sys2Proof

open Machine

variable {slot gen : Nat} {p : List Byte}

/-! ## Requests without a payload -/

theorem decode_lookUp : ∀ x ∈ [(1, Request.lookUpTimeSettings), (2, .lookUpDial slot), (3, .lookUpLine slot), (4, .lookUpBell slot),
    (6, .lookUpChimeMap), (7, .lookUpClockProgram), (8, .lookUpOccasion { slot := slot, gen := gen }), (9, .lookUpDuskSettings),
    (10, .lookUpDuskTable), (11, .lookUpChannel slot), (12, .lookUpScene { slot := slot, gen := gen }), (13, .lookUpFeeder),
    (14, .lookUpConditions)], ∀ p, decodeRequest 1 x.1 slot gen p = some x.2 := by
  simp [decodeRequest, decodeLookUp]

theorem decode_readState : ∀ x ∈ [(2, Request.readStateDial slot), (3, .readStateLine slot), (4, .readStateBell slot),
    (5, .readStateTune { slot := slot, gen := gen }), (7, .readStateClockProgram),
    (8, .readStateOccasion { slot := slot, gen := gen }), (11, .readStateChannel slot),
    (12, .readStateScene { slot := slot, gen := gen }), (17, .readStateTimeBase), (18, .readStateTuneLibrary),
    (19, .readStateChimeSequencer), (20, .readStateOccasionCalendar), (21, .readStateFloodlightMixer),
    (22, .readStateFeederAccount)], ∀ p, decodeRequest 19 x.1 slot gen p = some x.2 := by
  simp [decodeRequest, decodeReadState]

theorem decode_noPayload :
    ∀ x ∈ [(6, 5, Request.closeTune { slot := slot, gen := gen }), (9, 8, .suspend { slot := slot, gen := gen }),
      (10, 8, .resume { slot := slot, gen := gen }), (16, 4, .stopBell slot), (18, 12, .lowerScene { slot := slot, gen := gen }),
      (20, 14, .readConditions), (22, 14, .restart)], ∀ p, decodeRequest x.1 x.2.1 slot gen p = some x.2.2 := by
  simp [decodeRequest, decodeStop, decodeSingle]

/-! ## LIST NEXT, by class -/

/-- The states a tune is listed by, in the order of their codes. -/
def tuneStates : List TuneState := [.draft, .live, .retiring]

/-- The states an occasion is listed by, in the order of their codes. -/
def occasionStates : List OccasionState := [.armed, .firing, .suspended, .spent, .retiring]

/-- The states a scene is listed by, in the order of their codes. -/
def sceneStates : List SceneState := [.live, .retiring]

theorem listNextTune_read (p : List Byte) :
    decodeRequest 2 5 slot gen p = (readListNext tuneStates p).map fun y => .listNextTune y.1.1 y.1.2 := rfl

theorem listNextOccasion_read (p : List Byte) :
    decodeRequest 2 8 slot gen p = (readListNext occasionStates p).map fun y => .listNextOccasion y.1.1 y.1.2 := rfl

theorem listNextScene_read (p : List Byte) :
    decodeRequest 2 12 slot gen p = (readListNext sceneStates p).map fun y => .listNextScene y.1.1 y.1.2 := rfl

/-! ## Requests of one or two fields -/

/-- An optional word, as LOOK UP of a tune and RAISE SCENE carry. -/
theorem decode_optionalWord {command cls : Nat} {r : Option Nat → Request}
    (h : ∀ p, decodeRequest command cls slot gen p = (readOptional read16 p).map fun x => r x.1) :
    Reads (decodeRequest command cls slot gen) (u8 0) (fun _ => r none) ∧
      ∀ n, n < 65536 → Reads (decodeRequest command cls slot gen) (u8 1 ++ u16 n) fun _ => r (some n) := by
  rw [funext h]
  have back := readOptional_back read16_back
  exact ⟨(back none rfl).map _, fun n hn => (back (some n) (wordOk_iff.2 hn)).map _⟩

theorem optionalWord_only {command cls : Nat} {r : Option Nat → Request}
    (h : ∀ p, decodeRequest command cls slot gen p = (readOptional read16 p).map fun x => r x.1) :
    SpeltOnly command cls slot gen fun a q =>
      (a = u8 0 ∧ q = r none) ∨ ∃ n, n < 65536 ∧ a = u8 1 ++ u16 n ∧ q = r (some n) :=
  speltOnly_of_only (readOptional_only read16_only) h fun x hx =>
    match x, hx with
    | none, _ => .inl ⟨rfl, rfl⟩
    | some n, hn => .inr ⟨n, wordOk_iff.1 hn, rfl, rfl⟩

theorem decode_word {command cls : Nat} {r : Nat → Request}
    (h : ∀ p, decodeRequest command cls slot gen p = (read16 p).map fun x => r x.1) {n : Nat} (hn : n < 65536) :
    Reads (decodeRequest command cls slot gen) (u16 n) fun _ => r n := by
  rw [funext h]
  exact (read16_back n (wordOk_iff.2 hn)).map _

theorem decode_byte {command cls : Nat} {r : Nat → Request}
    (h : ∀ p, decodeRequest command cls slot gen p = (read8 p).map fun x => r x.1) {n : Nat} (hn : n < 256) :
    Reads (decodeRequest command cls slot gen) (u8 n) fun _ => r n := by
  rw [funext h]
  exact (read8_back n (byteOk_iff.2 hn)).map _

/-- The bits of a word that name no flag are not judged (log entry 25). -/
theorem decode_flags {n : Nat} (hn : n < 65536) :
    Reads (decodeRequest 21 14 slot gen) (u16 n) (fun _ => .acknowledge (BitVec.ofNat 12 n)) ∧
      Reads (decodeRequest 7 14 slot gen) (u16 n) (fun _ => .amendConditions (BitVec.ofNat 12 n)) := by
  have flags : Spells readFlags (u16 n) (BitVec.ofNat 12 n) :=
    (read16_back n (wordOk_iff.2 hn)).map fun r => (BitVec.ofNat 12 r.1, r.2)
  exact ⟨flags.map fun r => Request.acknowledge r.1, flags.map fun r => Request.amendConditions r.1⟩

theorem decode_flagSet (f : FlagSet) : Reads (decodeRequest 21 14 slot gen) (u16 f.toNat) (fun _ => .acknowledge f) ∧
    Reads (decodeRequest 7 14 slot gen) (u16 f.toNat) (fun _ => .amendConditions f) := by
  have h := decode_flags (slot := slot) (gen := gen) (n := f.toNat) (by have := f.isLt; omega)
  rwa [BitVec.ofNat_toNat, BitVec.setWidth_eq] at h

/-! ## SET TIME, PLAY, TOLL and the dusk settings -/

/-- The bytes of a local instant. -/
def dateTimeBytes (d : DateTime) : List Byte := dateBytes d.date ++ u8 d.hour ++ u8 d.minute ++ u8 d.second

theorem readBasis_only : ReadsOnly (readEnum [TimeBasis.standardTime, .localTime]) (fun m => u8 (if m = .standardTime then 0 else 1))
    fun _ => true :=
  readEnum_only (code := fun m : TimeBasis => if m = .standardTime then 0 else 1) (codes_are_places rfl)

theorem decode_setTime {d : DateTime} (h : dateTimeFits d = true) :
    Reads (decodeRequest 11 17 slot gen) (u8 0 ++ dateTimeBytes d) (fun _ => .setTime .standardTime d) ∧
      Reads (decodeRequest 11 17 slot gen) (u8 1 ++ dateTimeBytes d) (fun _ => .setTime .localTime d) :=
  ⟨.bind (readEnum_place (x := .standardTime) rfl (by decide)) <| .last (readInstant_back _ h) fun _ => rfl,
    .bind (readEnum_place (x := .localTime) rfl (by decide)) <| .last (readInstant_back _ h) fun _ => rfl⟩

theorem setTime_only : SpeltOnly 11 17 slot gen fun a q => ∃ d, dateTimeFits d = true ∧
    ((a = u8 0 ++ dateTimeBytes d ∧ q = .setTime .standardTime d) ∨ (a = u8 1 ++ dateTimeBytes d ∧ q = .setTime .localTime d)) := by
  intro p q _ e
  obtain ⟨⟨basis, b0⟩, h0, e⟩ := Option.bind_eq_some_iff.1 e
  obtain ⟨⟨d, c⟩, h1, e⟩ := Option.bind_eq_some_iff.1 e
  cases e
  obtain ⟨rfl, -⟩ := readBasis_only h0
  obtain ⟨rfl, fits⟩ := readInstant_only h1
  refine ⟨u8 (if basis = .standardTime then 0 else 1) ++ dateTimeBytes d, c, (List.append_assoc ..).symm, d, fits, ?_⟩
  cases basis with
  | standardTime => exact .inl ⟨rfl, rfl⟩
  | localTime => exact .inr ⟨rfl, rfl⟩

theorem signed_one (x : Int) : signed 1 x = u8 (x % 256).toNat := rfl

theorem yesNo_eq (b : Bool) : yesNo b = u8 b.toNat := by cases b <;> rfl

theorem decode_play {x : Int} {repeats priority : Nat} (yields : Bool) (low : -128 ≤ x) (high : x ≤ 127) (hr : repeats < 256)
    (hp : priority < 256) : Reads (decodeRequest 13 5 slot gen)
      (u8 (x % 256).toNat ++ u8 repeats ++ u8 priority ++ u8 yields.toNat)
      fun _ => .play { slot := slot, gen := gen } x repeats priority yields := by
  rw [← signed_one, ← yesNo_eq]
  simp only [List.append_assoc]
  exact .bind (readSigned1_back _ (by simp [signedByteOk, low, high])) <| .bind (read8_back _ (byteOk_iff.2 hr)) <|
    .bind (read8_back _ (byteOk_iff.2 hp)) <| .last (readYesNo_back _ rfl) fun _ => rfl

theorem play_only : SpeltOnly 13 5 slot gen fun a q => ∃ (x : Int) (repeats priority : Nat) (yields : Bool),
    -128 ≤ x ∧ x ≤ 127 ∧ repeats < 256 ∧ priority < 256 ∧
      a = u8 (x % 256).toNat ++ u8 repeats ++ u8 priority ++ u8 yields.toNat ∧
      q = .play { slot := slot, gen := gen } x repeats priority yields := by
  intro p q _ e
  obtain ⟨⟨x, b0⟩, h0, e⟩ := Option.bind_eq_some_iff.1 e
  obtain ⟨⟨repeats, b1⟩, h1, e⟩ := Option.bind_eq_some_iff.1 e
  obtain ⟨⟨priority, b2⟩, h2, e⟩ := Option.bind_eq_some_iff.1 e
  obtain ⟨⟨yields, c⟩, h3, e⟩ := Option.bind_eq_some_iff.1 e
  cases e
  obtain ⟨rfl, hx⟩ := readSigned1_only h0
  obtain ⟨rfl, hr⟩ := read8_only h1
  obtain ⟨rfl, hp⟩ := read8_only h2
  obtain ⟨rfl, -⟩ := readYesNo_only h3
  simp only [signedByteOk, decide_eq_true_eq] at hx
  exact ⟨_, c, by simp only [signed_one, yesNo_eq, List.append_assoc], x, repeats, priority, yields, hx.1, hx.2,
    byteOk_iff.1 hr, byteOk_iff.1 hp, rfl, rfl⟩

theorem decode_toll {bell interval blows velocity : Nat} (hb : bell < 256) (hi : interval < 256) (hn : blows < 65536)
    (hv : velocity < 256) : Reads (decodeRequest 14 16 slot gen) (u8 bell ++ u8 interval ++ u16 blows ++ u8 velocity)
      fun _ => .toll bell interval blows velocity := by
  simp only [List.append_assoc]
  exact .bind (read8_back _ (byteOk_iff.2 hb)) <| .bind (read8_back _ (byteOk_iff.2 hi)) <|
    .bind (read16_back _ (wordOk_iff.2 hn)) <| .last (read8_back _ (byteOk_iff.2 hv)) fun _ => rfl

theorem decode_amendDuskSettings {x : DuskSettings} (line : x.line.all byteOk = true) (threshold : x.threshold < 65536)
    (confirm : x.confirm < 256) : Reads (decodeRequest 7 9 slot gen) (duskSettingsBytes x)
      fun _ => .amendDuskSettings x.line x.threshold x.confirm := by
  simp only [duskSettingsBytes, List.append_assoc]
  exact .bind (readOptional_back read8_back _ line) <| .bind (read16_back _ (wordOk_iff.2 threshold)) <|
    .bind (read8_back _ (byteOk_iff.2 confirm)) <| .last (readYesNo_back _ rfl) fun _ => rfl

theorem amendDuskSettings_only : SpeltOnly 7 9 slot gen fun a q => ∃ x : DuskSettings, x.line.all byteOk = true ∧
    x.threshold < 65536 ∧ x.confirm < 256 ∧ a = duskSettingsBytes x ∧ q = .amendDuskSettings x.line x.threshold x.confirm := by
  intro p q _ e
  obtain ⟨⟨line, b0⟩, h0, e⟩ := Option.bind_eq_some_iff.1 e
  obtain ⟨⟨threshold, b1⟩, h1, e⟩ := Option.bind_eq_some_iff.1 e
  obtain ⟨⟨confirm, b2⟩, h2, e⟩ := Option.bind_eq_some_iff.1 e
  obtain ⟨⟨fault, c⟩, h3, e⟩ := Option.bind_eq_some_iff.1 e
  cases e
  obtain ⟨rfl, hl⟩ := readOptional_only read8_only h0
  obtain ⟨rfl, ht⟩ := read16_only h1
  obtain ⟨rfl, hc⟩ := read8_only h2
  obtain ⟨rfl, -⟩ := readYesNo_only h3
  exact ⟨_, c, by simp only [duskSettingsBytes, List.append_assoc],
    { line := line, threshold := threshold, confirm := confirm, sensorFault := fault }, hl, wordOk_iff.1 ht, byteOk_iff.1 hc,
    rfl, rfl⟩

/-! ## Payloads of items in a row -/

theorem decode_appendSteps {l : List Step} (few : l.length ≤ 64) (fits : l.all Step.fits = true)
    (sounds : ∀ k v d, Step.note k v d ∈ l → 255 ∉ k) :
    decodeRequest 5 5 slot gen (l.flatMap stepBytes) = some (.appendSteps { slot := slot, gen := gen } l) := by
  refine congrArg (Option.map _) (readAll_back (fun x hx => ⟨?_, ?_⟩) (by omega))
  · exact readStep_spells (List.all_eq_true.1 fits x hx) fun k v d e => sounds k v d (e ▸ hx)
  · cases x <;> simp [stepBytes, u8]

theorem decode_amendChimeMap {bytes : Nat × Option Nat → List Byte} (h : ∀ x, bytes x = u8 x.1 ++ Machine.optional u8 x.2)
    {l : List (Nat × Option Nat)} (few : l.length ≤ 256) (fits : l.all (fun x => byteOk x.1 && x.2.all byteOk) = true) :
    decodeRequest 7 6 slot gen (l.flatMap bytes) = some (.amendChimeMap l) := by
  rw [funext h]
  exact congrArg (Option.map _) (readAll_back
    (fun x hx => ⟨readMapPair_back x (List.all_eq_true.1 fits x hx), by simp [u8]⟩) (by omega))

theorem amendChimeMap_only {bytes : Nat × Option Nat → List Byte} (h : ∀ x, bytes x = u8 x.1 ++ Machine.optional u8 x.2)
    {q : Request} (e : decodeRequest 7 6 slot gen p = some q) : ∃ l : List (Nat × Option Nat), q = .amendChimeMap l ∧
      l.all (fun x => byteOk x.1 && x.2.all byteOk) = true ∧ p = l.flatMap bytes := by
  rw [funext h]
  obtain ⟨l, hl, rfl⟩ := Option.map_eq_some_iff.1 e
  obtain ⟨hp, fits⟩ := readAll_only readMapPair_only _ _ _ hl
  exact ⟨l, rfl, fits, hp⟩

theorem decode_amendDuskTable {l : List (Nat × Nat)} (few : l.length ≤ 170)
    (fits : l.all (fun x => byteOk x.1 && wordOk x.2) = true) :
    decodeRequest 7 10 slot gen (l.flatMap fun x => u8 x.1 ++ u16 x.2) = some (.amendDuskTable l) :=
  congrArg (Option.map _) (readAll_back
    (fun x hx => ⟨readDuskPair_back x (List.all_eq_true.1 fits x hx), by simp [u8]⟩) (by omega))

/-! ## Payloads that are refused -/

theorem appendSteps_refused_iff (short : p.length ≤ 512) : decodeRequest 5 5 slot gen p = none ↔
    p.length % 8 ≠ 0 ∨ ∃ j, 8 * j < p.length ∧ (byteAt p (8 * j) = 0 ∨ 3 < byteAt p (8 * j) ∨
      (byteAt p (8 * j) = 1 ∧ ∃ k, 4 ≤ k ∧ k < 7 ∧ byteAt p (8 * j + k) = 255 ∧ byteAt p (8 * j + k + 1) ≠ 255)) := by
  have places := readAll_none_iff_places readStep_sized (by decide) (fun _ => readStep_none_iff) short
  simp only [stepRefused, byteAt_drop] at places
  exact Option.map_eq_none_iff.trans places

theorem occasion_refused_iff {command : Nat} (h : command = 3 ∨ command = 7) : decodeRequest command 8 slot gen p = none ↔
    p.length < 77 ∨ 4 < byteAt p 16 ∨ (byteAt p 16 = 3 ∧ (byteAt p 18 = 0 ∨ 7 < byteAt p 18)) ∨ 1 < byteAt p 30 ∨
      4 < byteAt p 36 ∨ ∃ j, j < byteAt p 36 ∧ (byteAt p (37 + 10 * j) = 0 ∨ 6 < byteAt p (37 + 10 * j) ∨
        (byteAt p (37 + 10 * j) = 1 ∧ 1 < byteAt p (44 + 10 * j))) := by
  have flag (j : Nat) : 37 + 10 * j + 7 = 44 + 10 * j := by omega
  have refused := readOccasion_none_iff p
  simp only [actionRefused, byteAt_drop, Nat.add_zero, flag] at refused
  rw [← refused]
  rcases h with rfl | rfl
  · exact Option.map_eq_none_iff
  · exact Option.map_eq_none_iff

theorem readDuskPair_sized : Sized readDuskPair 3 := by
  refine read8_sized.bind (m := 2) fun week => read16_sized.last ?_
  rintro x b y c ⟨⟩
  rfl

theorem readDuskPair_ne_none {b : List Byte} (long : 3 ≤ b.length) : readDuskPair b ≠ none := by
  match b, long with
  | _ :: _ :: _ :: _, _ => nofun

theorem amendDuskTable_refused_iff (short : p.length ≤ 512) : decodeRequest 7 10 slot gen p = none ↔ p.length % 3 ≠ 0 := by
  have places := readAll_none_iff_places readDuskPair_sized (by decide) (bad := fun _ => False)
    (fun b long => iff_false_intro (readDuskPair_ne_none long)) short
  simp only [and_false, exists_false, or_false] at places
  exact Option.map_eq_none_iff.trans places

end Sys2Proof
end

section
/-! Link frames (R179 to R182): the bits shifted in and out, the judgement of a frame's bytes, and the routing of its request. -/

namespace Sys2Proof

open Machine

/-! ## Bits (R179) -/

theorem testBit_foldr_bits (l : List Bool) (k : Nat) :
    (l.foldr (fun (b : Bool) n => 2 * n + b.toNat) 0).testBit k = l.getD k false := by
  induction l generalizing k with
  | nil => simp
  | cons b l ih =>
    rw [List.foldr_cons]
    generalize l.foldr (fun (b : Bool) n => 2 * n + b.toNat) 0 = n at ih
    cases k with
    | zero => cases b <;> simp [Nat.testBit_zero]
    | succ k =>
      have half : (2 * n + b.toNat) / 2 = n := by have := b.toNat_lt; omega
      rw [Nat.testBit_succ, half, ih, List.getD_cons_succ]

theorem byteOfBits_bit {l : List Bool} (size : l.length = 8) {j : Nat} (hj : j < 8) :
    (byteOfBits l).getLsbD (7 - j) = l.getD j false := by
  have place : l.reverse.getD (7 - j) false = l.getD j false := by
    rw [List.getD_eq_getElem?_getD, List.getElem?_reverse (by omega), List.getD_eq_getElem?_getD]
    congr 2
    omega
  rw [byteOfBits, BitVec.getLsbD_ofNat, List.foldl_eq_foldr_reverse, testBit_foldr_bits, place,
    decide_eq_true (by omega), Bool.true_and]

theorem shiftedBytes_length : ∀ bits : List Bool, (shiftedBytes bits).length = bits.length / 8
  | _ :: _ :: _ :: _ :: _ :: _ :: _ :: _ :: rest => by
    simp only [shiftedBytes, List.length_cons, shiftedBytes_length rest]
    omega
  | [] | [_] | [_, _] | [_, _, _] | [_, _, _, _] | [_, _, _, _, _] | [_, _, _, _, _, _] | [_, _, _, _, _, _, _] => by
    simp [shiftedBytes]

theorem shiftedBytes_bit {bits : List Bool} {k j : Nat} (hk : k < bits.length / 8) (hj : j < 8) :
    ((shiftedBytes bits).getD k 0#8).getLsbD (7 - j) = bits.getD (8 * k + j) false := by
  induction bits using shiftedBytes.induct generalizing k with
  | case1 a b c d e f g h rest ih =>
    cases k with
    | zero =>
      rw [Nat.mul_zero, Nat.zero_add]
      refine (byteOfBits_bit (l := [a, b, c, d, e, f, g, h]) rfl hj).trans ?_
      interval_cases j <;> rfl
    | succ k =>
      have next : 8 * (k + 1) + j = 8 * k + j + 8 := by omega
      rw [next]
      refine ih ?_
      simp only [List.length_cons] at hk
      omega
  | case2 bits short =>
    have none := shiftedBytes_length bits
    rw [shiftedBytes.eq_2 _ short] at none
    exact absurd hk (by simp [← none])

/-! ## The bytes shifted out (R180, section 11.5) -/

theorem LinkFrame.byteOut_response {f : LinkFrame} {r : Response} (h : f.response = some r) (n : Nat) :
    f.byteOut 0 = BitVec.ofNat 8 (statusCode r.status) ∧ f.byteOut 1 = (if f.openAtBegin then 3#8 else 2#8) ∧
      f.byteOut 2 = BitVec.ofNat 8 r.slot ∧ f.byteOut 3 = BitVec.ofNat 8 r.gen ∧
      f.byteOut 4 = BitVec.ofNat 8 (r.payload.length / 256) ∧ f.byteOut 5 = BitVec.ofNat 8 r.payload.length ∧
      f.byteOut (n + 6) = r.payload.getD n 0#8 := by
  obtain ⟨began, response⟩ := f
  obtain rfl : response = some r := h
  exact ⟨rfl, by cases began <;> rfl, rfl, rfl, rfl, rfl, rfl⟩

theorem LinkFrame.byteOut_none {f : LinkFrame} (h : f.response = none) (n : Nat) :
    f.byteOut 0 = (if f.openAtBegin then 0#8 else 2#8) ∧ f.byteOut 1 = (if f.openAtBegin then 1#8 else 0#8) ∧
      f.byteOut (n + 2) = 0#8 := by
  obtain ⟨began, response⟩ := f
  obtain rfl : response = none := h
  refine ⟨by cases began <;> rfl, by cases began <;> rfl, ?_⟩
  match n with
  | 0 | 1 | 2 | 3 | _ + 4 => rfl

/-! ## The judgement of a frame's bytes (R181, R184) -/

section

variable {bytes : List Byte}

theorem byteAt_eq_zero_iff (k : Nat) : byteAt bytes k = 0 ↔ bytes.getD k 0#8 = 0 :=
  ⟨fun h => BitVec.eq_of_toNat_eq h, fun h => congrArg BitVec.toNat h⟩

theorem decodeFrame_nothing (h : byteAt bytes 0 = 0) : decodeFrame bytes = .nothing :=
  match bytes, h with
  | [], _ => rfl
  | _ :: _, h => if_pos ((byteAt_eq_zero_iff 0).1 h)

/-- The bytes of a frame past its header. -/
theorem decodeFrame_long (command : byteAt bytes 0 ≠ 0) (long : 6 ≤ bytes.length) : decodeFrame bytes =
    if 512 < byteAt bytes 4 * 256 + byteAt bytes 5 ∨ (bytes.drop 6).length < byteAt bytes 4 * 256 + byteAt bytes 5 then .badFrame
    else if 22 < byteAt bytes 0 ∨ byteAt bytes 1 = 0 ∨ 22 < byteAt bytes 1 then .badFrame
    else .taken (decodeBody (byteAt bytes 0) (byteAt bytes 1) (byteAt bytes 2) (byteAt bytes 3)
      ((bytes.drop 6).take (byteAt bytes 4 * 256 + byteAt bytes 5))) :=
  match bytes, long with
  | b0 :: b1 :: b2 :: b3 :: b4 :: b5 :: rest, _ => (if_neg fun e : b0 = 0 => command (e ▸ rfl)).trans <|
    have cls := byteAt_eq_zero_iff (bytes := b0 :: b1 :: b2 :: b3 :: b4 :: b5 :: rest) 1
    if_congr Iff.rfl rfl <| if_congr (or_congr_right (or_congr_left cls.symm)) rfl rfl

theorem decodeFrame_short (command : byteAt bytes 0 ≠ 0) (short : bytes.length < 6) : decodeFrame bytes = .badFrame := by
  have named {b0 : Byte} {rest : List Byte} (h : byteAt (b0 :: rest) 0 ≠ 0) : ¬b0 = 0 := fun e => h (e ▸ rfl)
  match bytes, command, short with
  | [], command, _ => exact absurd rfl command
  | [_], command, _ => exact if_neg (named command)
  | [_, _], command, _ => exact if_neg (named command)
  | [_, _, _], command, _ => exact if_neg (named command)
  | [_, _, _, _], command, _ => exact if_neg (named command)
  | [_, _, _, _, _], command, _ => exact if_neg (named command)

theorem decodeFrame_badFrame (command : byteAt bytes 0 ≠ 0)
    (bad : bytes.length < 6 ∨ 512 < byteAt bytes 4 * 256 + byteAt bytes 5 ∨
      bytes.length < 6 + (byteAt bytes 4 * 256 + byteAt bytes 5) ∨ 22 < byteAt bytes 0 ∨ byteAt bytes 1 = 0 ∨
      22 < byteAt bytes 1) : decodeFrame bytes = .badFrame := by
  by_cases short : bytes.length < 6
  · exact decodeFrame_short command short
  rw [decodeFrame_long command (Nat.le_of_not_lt short), List.length_drop]
  split
  next => rfl
  next fits => exact if_pos (by omega)

theorem decodeFrame_taken (command : byteAt bytes 0 ≠ 0) (long : 6 ≤ bytes.length)
    (small : byteAt bytes 4 * 256 + byteAt bytes 5 ≤ 512) (whole : 6 + (byteAt bytes 4 * 256 + byteAt bytes 5) ≤ bytes.length)
    (known : byteAt bytes 0 ≤ 22) (cls : byteAt bytes 1 ≠ 0) (high : byteAt bytes 1 ≤ 22) :
    decodeFrame bytes = .taken (decodeBody (byteAt bytes 0) (byteAt bytes 1) (byteAt bytes 2) (byteAt bytes 3)
      ((bytes.drop 6).take (byteAt bytes 4 * 256 + byteAt bytes 5))) := by
  rw [decodeFrame_long command long, List.length_drop, if_neg (by omega), if_neg (by omega)]

end

section

variable {command cls slot gen : Nat} {p : List Byte}

theorem isSingleRecord_iff : isSingleRecord command cls = true ↔ (command = 3 ∨ command = 8) ∧ (cls = 7 ∨ cls = 13) := by
  simp [isSingleRecord]

/-- R184: a refusal carries the handle or the index that the request names. -/
theorem refusedTask_eq (x : Status) : refusedTask x command cls slot gen =
    if (cls = 5 ∨ cls = 8 ∨ cls = 12) ∧ command ≠ 2 ∧ command ≠ 3 ∧ command ≠ 4 then .refused x slot gen
    else if cls = 2 ∨ cls = 3 ∨ cls = 4 ∨ cls = 11 ∨ cls = 15 then .refused x slot 0
    else .refused x 0 0 := by
  simp [refusedTask, namesHandle, namesIndex]

theorem decodeBody_single (h : (command = 3 ∨ command = 8) ∧ (cls = 7 ∨ cls = 13)) :
    decodeBody command cls slot gen p = .refused .wrongState 0 0 := by
  rw [decodeBody, if_pos (isSingleRecord_iff.2 h), refusedTask_eq, if_neg (by omega), if_neg (by omega)]

theorem decodeBody_request {r : Request} (h : ¬((command = 3 ∨ command = 8) ∧ (cls = 7 ∨ cls = 13)))
    (read : decodeRequest command cls slot gen p = some r) : decodeBody command cls slot gen p = .request r := by
  rw [decodeBody, if_neg (mt isSingleRecord_iff.1 h), read]

theorem decodeBody_unread (h : ¬((command = 3 ∨ command = 8) ∧ (cls = 7 ∨ cls = 13)))
    (unread : decodeRequest command cls slot gen p = none) : decodeBody command cls slot gen p =
      if command = 5 ∧ cls = 5 then .badSteps { slot := slot, gen := gen } else refusedTask .badField command cls slot gen := by
  rw [decodeBody, if_neg (mt isSingleRecord_iff.1 h), unread]

end

namespace Machine

variable {s : State} {dt : Nat} {bits : List Bool}

/-! ## The beginning and the end of a frame (R179 to R181) -/

theorem State.linkOpen_iff : s.linkOpen = true ↔ s.link.inProgress = none ∧ s.memory.writes = [] ∧ s.hammers.gate = .closed := by
  simp only [State.linkOpen, Bool.and_eq_true, Option.isNone_iff_eq_none, List.isEmpty_iff, decide_eq_true_eq, and_assoc]

theorem State.not_mains_of_reserve (h : s.time.power = .reserve) : ¬s.inMains := by
  simp [State.inMains, h]

theorem State.beginFrame_selected (h : s.link.sel = true) : s.beginFrame = s := if_pos h

theorem State.beginFrame_mains (mains : s.inMains) (h : s.link.sel = false) : s.beginFrame =
    { s with link.sel := true, link.frame := some { openAtBegin := s.linkOpen, response := s.link.waiting }
             link.waiting := none } := by
  rw [State.beginFrame, if_neg (by simp [h])]
  exact if_pos mains

theorem State.beginFrame_reserve (reserve : s.time.power = .reserve) : s.beginFrame = { s with link.sel := true } := by
  unfold State.beginFrame
  split
  next sel => rw [← sel]
  next => exact if_neg (State.not_mains_of_reserve reserve)

/-- The state that a frame leaves before its bytes are judged. -/
def State.frameClosed (s : State) : State := { s with link.sel := false, link.frame := none }

theorem State.endFrame_none (h : s.link.frame = none) : s.endFrame bits = { s with link.sel := false } := by
  rw [State.endFrame, h]

theorem State.endFrame_unjudged {f : LinkFrame} (h : s.link.frame = some f) (shut : s.time.power = .reserve ∨ f.openAtBegin = false) :
    s.endFrame bits = s.frameClosed := by
  rw [State.endFrame, h]
  refine if_neg fun both => ?_
  rcases shut with reserve | shut
  · exact State.not_mains_of_reserve reserve both.1
  · exact Bool.eq_false_iff.1 shut both.2

theorem State.endFrame_judged {f : LinkFrame} (h : s.link.frame = some f) (mains : s.inMains) (began : f.openAtBegin = true) :
    s.endFrame bits = s.frameClosed.takeContent (decodeFrame (shiftedBytes bits)) := by
  rw [State.endFrame, h]
  exact if_pos ⟨mains, began⟩

theorem State.takeTask_waits {t : Task} (h : s.memory.writes ≠ []) : s.takeTask t =
    { s with link.inProgress := some { task := t, phase := .awaitingWrite, taken := s.clock, seen := s.seenBy t } } :=
  if_neg (by simpa using h)

theorem State.takeTask_works {t : Task} (h : s.memory.writes = []) : s.takeTask t = State.workTask
    { s with link.inProgress := some { task := t, phase := .working, taken := s.clock, seen := s.seenBy t } } t :=
  if_pos (by simp [h])

/-! ## The routing of a request (R182) -/

theorem State.routeRequest_ready {x : Task} {c : Nat} {v : Seen}
    (h : s.link.inProgress = some { task := x, phase := .ready, taken := c, seen := v }) : s.routeRequest = State.workTask
      { s with link.inProgress := some { task := x, phase := .working, taken := c, seen := v } } x := by
  unfold State.routeRequest State.setPhaseOfRequest
  rw [h]
  rfl

theorem State.routeRequest_idle (h : ∀ x c v, s.link.inProgress ≠ some { task := x, phase := .ready, taken := c, seen := v }) :
    s.routeRequest = s := by
  unfold State.routeRequest
  split
  next => rfl
  next q hq => exact if_neg fun ready => h q.task q.taken q.seen (by rw [hq, ← ready])

/-- R72: READ STATE of a bell answers the stroke state seen at the taking. -/
theorem State.routeRequest_readStateBell {b c : Nat} {k : StrokeState} (hb : b < 40) (h : s.link.inProgress
      = some { task := .request (.readStateBell b), phase := .ready, taken := c, seen := .stroke k }) :
    s.routeRequest = s.answer (reply .done b 0 (s.bellReport b k)) :=
  (State.routeRequest_ready h).trans (State.answerIndex_of_lt hb _ _)

/-- R170: a feeder AMEND below the load at the taking. -/
theorem State.routeRequest_amendFeeder_under {n c m : Nat} (hn : n ≤ 60000) (h : s.link.inProgress
      = some { task := .request (.amendFeeder n), phase := .ready, taken := c, seen := .load m }) (under : n < m) :
    s.routeRequest = s.answer (reply .wrongState 0 0) :=
  (State.routeRequest_ready h).trans (State.workAmendFeeder_wrongState hn under)

theorem State.routeRequest_amendFeeder_enough {n c m : Nat} (hn : n ≤ 60000) (h : s.link.inProgress
      = some { task := .request (.amendFeeder n), phase := .ready, taken := c, seen := .load m }) (enough : m ≤ n) :
    s.routeRequest = State.writeThenAnswer
      { s with link.inProgress := some { task := .request (.amendFeeder n), phase := .working, taken := c, seen := .load m } }
      (.feeder n) (reply .done 0 0) :=
  (State.routeRequest_ready h).trans (State.workAmendFeeder_written hn enough)

/-! ## SDO (R179) -/

theorem State.sdo_released (h : s.time.power = .reserve ∨ s.link.sel = false ∨ s.link.frame = none) (n : Nat) : s.sdo n = none := by
  unfold State.sdo
  split
  next both =>
    rcases h with reserve | released | no
    · exact absurd both.1 (State.not_mains_of_reserve reserve)
    · exact absurd both.2 (Bool.eq_false_iff.1 released)
    · rw [no]
      rfl
  next => rfl

theorem State.sdo_driven {f : LinkFrame} (mains : s.inMains) (sel : s.link.sel = true) (h : s.link.frame = some f) (n : Nat) :
    s.sdo n = some (f.bitOut n) := by
  rw [State.sdo, if_pos ⟨mains, sel⟩, h]
  rfl

end Machine

end Sys2Proof
end

section
/-! The assembly of what a link frame brings (R179 to R184). -/

namespace Sys2Proof.Machine

/-- Settles O56: the frame's beginning, its end and the routing; what is shifted out and in; the judgement of the bytes; and the
bytes of each request. -/
theorem framesBringRequests : Obligations.FramesBringRequests := by
  unfold Obligations.FramesBringRequests
  refine ⟨fun s dt bits => ?frames,
    fun f r n => ⟨rfl, fun h => LinkFrame.byteOut_response h n, fun h => LinkFrame.byteOut_none h n⟩, rfl,
    fun bits => ⟨shiftedBytes_length bits, fun _ _ => shiftedBytes_bit⟩, fun bytes => ?judged, fun slot gen rest => ?requests⟩
  case frames =>
    intro e
    have happened {act : State → State} {t : State} (h : act e = t) : happen dt act s = .next t := congrArg _ h
    have frameEnded {t : State} (h : e.endFrame bits = t) : exec (.frameEnd dt bits) s = .next t :=
      happened (act := fun s => s.endFrame bits) h
    refine ⟨fun mains sel => happened (State.beginFrame_mains mains sel),
      fun reserve => happened (State.beginFrame_reserve reserve),
      fun sel => happened (State.beginFrame_selected sel), State.linkOpen_iff,
      fun closed => frameEnded (State.endFrame_none closed), fun f frame => ?ended, fun _ => rfl, fun _ => rfl,
      fun mains => ?routed, fun _ => rfl, fun _ _ _ => rfl,
      fun n => ⟨fun h => State.sdo_released h n, fun f mains sel h => State.sdo_driven mains sel h n⟩⟩
    case ended =>
      intro done content
      have judged (mains : s.time.power = .mains) (began : f.openAtBegin = true) {x : FrameContent} {t : State}
          (hx : content = x) (ht : done.takeContent x = t) : exec (.frameEnd dt bits) s = .next t :=
        frameEnded ((State.endFrame_judged (s := e) frame mains began).trans ((congrArg done.takeContent hx).trans ht))
      exact ⟨fun shut => frameEnded (State.endFrame_unjudged (s := e) frame shut), fun mains began =>
        ⟨fun h => judged mains began h rfl, fun h => judged mains began h rfl, fun x h =>
          ⟨fun writes => judged mains began h (State.takeTask_waits writes),
            fun writes => judged mains began h (State.takeTask_works writes)⟩⟩⟩
    case routed =>
      have routed {t : State} (h : e.routeRequest = t) : exec (.requestRouted dt) s = .next t :=
        (happen_mains dt mains).trans (congrArg _ h)
      exact ⟨fun x c v h => routed (State.routeRequest_ready h), fun h => routed (State.routeRequest_idle h),
        fun b c k hb h => routed (State.routeRequest_readStateBell hb h), fun n c m hn h =>
          ⟨fun under => routed (State.routeRequest_amendFeeder_under hn h under),
            fun enough => ⟨_, routed (State.routeRequest_amendFeeder_enough hn h enough), rfl, rfl⟩⟩⟩
  case judged =>
    refine ⟨decodeFrame_nothing, decodeFrame_badFrame, fun command long small whole known cls high => ?_⟩
    intro payload refusal
    have taken := decodeFrame_taken command long small whole known cls high
    refine ⟨fun single => taken.trans (congrArg _ (decodeBody_single single)), fun several =>
      ⟨fun r read => taken.trans (congrArg _ (decodeBody_request several read)), fun unread =>
        ⟨fun steps => ?_, fun other => ?_⟩⟩⟩
    · exact taken.trans (congrArg _ ((decodeBody_unread several unread).trans (if_pos steps)))
    · exact taken.trans (congrArg _ ((decodeBody_unread several unread).trans ((if_neg other).trans (refusedTask_eq _))))
  case requests =>
    intro h be instant ends whole refused reads only paired tuneFilters occasionFilters sceneFilters
    have be_eq : be = bytesOf := funext fun k => funext fun n => bytesOf_eq k n
    have instant_eq : instant = dateTimeBytes := funext fun d => by simp only [instant, be_eq]; rfl
    have spelt {command cls : Nat} {p : List Byte} {q : Request} (r : Reads (decodeRequest command cls slot gen) p fun _ => q) :
        reads command cls p q := ⟨r.whole rest, r.cut⟩
    have sameMap (x : Nat × Option Nat) : (be 1 x.1 ++ match x.2 with | none => be 1 0 | some b => be 1 1 ++ be 1 b)
        = u8 x.1 ++ optional u8 x.2 := by
      obtain ⟨_, b⟩ := x
      rw [be_eq]
      cases b <;> rfl
    clear_value instant be
    subst instant_eq be_eq
    refine ⟨fun command cls p => decodeRequest_unlisted, ?lookUp, ?readState, ?tunes, ?occasions, ?scenes, ?alone, ?retire,
      spelt (decode_optionalWord fun _ => rfl).1, spelt (decode_optionalWord fun _ => rfl).1, fun n hn => ?words,
      fun n hn => ⟨spelt (decode_byte (fun _ => rfl) hn), spelt (decode_byte (fun _ => rfl) hn)⟩,
      fun f => ⟨spelt (decode_flagSet f).1, spelt (decode_flagSet f).2⟩,
      fun x repeats priority yields low high hr hp => spelt (decode_play yields low high hr hp),
      fun bell interval blows velocity hb hi hn hv => spelt (decode_toll hb hi hn hv),
      fun d fits => ⟨spelt (decode_setTime fits).1, spelt (decode_setTime fits).2⟩,
      fun l fits last => ?labels, fun c fits last => ?occasion, fun c fits last => ?scene,
      fun x fits => spelt ((readTimeSettings_back x fits).map _),
      fun d fits last => spelt ((readDialAmend_spells d rfl fits last).map _),
      fun x fits => spelt ((readLineRecord_back x fits).map _), fun c fits last => spelt ((readBellConfig_spells fits last).map _),
      fun c fits => spelt ((readClockConfig_back c fits).map _),
      fun x line threshold confirm => spelt (decode_amendDuskSettings line threshold confirm),
      fun c fits last => spelt ((readChannelConfig_spells fits last).map _),
      fun l few fits sounds => decode_appendSteps few fits sounds,
      fun l few fits => decode_amendChimeMap sameMap few fits, fun l few fits => decode_amendDuskTable few fits,
      fun n hn => ⟨spelt (decode_flags hn).1, spelt (decode_flags hn).2⟩, optionalWord_only fun _ => rfl,
      listNext_only listNextTune_read, listNext_only listNextOccasion_read, listNext_only listNextScene_read, ?onlyTimeSettings,
      ?onlyDial, ?onlyLine, ?onlyBell, ?onlyClock, amendDuskSettings_only, ?onlyChannel, ?onlyStoreScene, ?onlyAmendScene,
      ?onlyRetireTune, ?onlyRetireOccasion, ?onlyRetireScene, setTime_only, play_only, optionalWord_only fun _ => rfl, fun p short => ?refusals⟩
    case lookUp => exact fun x hx => spelt (decode_alone (decode_lookUp x hx))
    case readState => exact fun x hx => spelt (decode_alone (decode_readState x hx))
    case alone => exact fun x hx => spelt (decode_alone (decode_noPayload x hx))
    case tunes =>
      have forms := decode_listNext (slot := slot) (gen := gen) (by decide) listNextTune_read
      exact fun x hx => ⟨spelt (forms x hx).1, fun k hk => spelt ((forms x hx).2 k hk)⟩
    case occasions =>
      have forms := decode_listNext (slot := slot) (gen := gen) (by decide) listNextOccasion_read
      exact fun x hx => ⟨spelt (forms x hx).1, fun k hk => spelt ((forms x hx).2 k hk)⟩
    case scenes =>
      have forms := decode_listNext (slot := slot) (gen := gen) (by decide) listNextScene_read
      exact fun x hx => ⟨spelt (forms x hx).1, fun k hk => spelt ((forms x hx).2 k hk)⟩
    case retire =>
      exact fun x hx =>
        let ⟨tune, occasion, scene⟩ := decode_retire x hx
        ⟨spelt tune, spelt occasion, spelt scene⟩
    case words =>
      exact ⟨spelt (decode_word (fun _ => rfl) hn), spelt (decode_word (fun _ => rfl) hn), spelt (decode_word (fun _ => rfl) hn),
        spelt ((decode_optionalWord fun _ => rfl).2 n hn), spelt ((decode_optionalWord fun _ => rfl).2 n hn)⟩
    case labels =>
      exact ⟨spelt ((readLabel_spells fits last).map _), spelt ((readLabel_spells fits last).map _)⟩
    case occasion =>
      exact ⟨spelt ((readOccasion_back fits last).map _), spelt ((readOccasion_back fits last).map _)⟩
    case scene =>
      exact ⟨spelt ((readScene_spells fits last).map _), spelt ((readScene_spells fits last).map _)⟩
    case onlyTimeSettings => exact speltOnly_of_only readTimeSettings_only (fun _ => rfl) fun x fits => ⟨x, fits, rfl, rfl⟩
    case onlyDial =>
      exact speltOnly_of_read (fun _ => rfl) fun _ e =>
        let ⟨d, bytes, last, fits, fields⟩ := readDialAmend_only e
        ⟨_, bytes, d, last, rfl, _, fits, rfl, fields⟩
    case onlyLine => exact speltOnly_of_only readLineRecord_only (fun _ => rfl) fun x fits => ⟨x, fits, rfl, rfl⟩
    case onlyBell => exact speltOnly_of_labelled readBellConfig_only (fun _ => rfl) fun c fits last => ⟨c, fits, last, rfl, rfl⟩
    case onlyClock => exact speltOnly_of_only readClockConfig_only (fun _ => rfl) fun c fits => ⟨c, fits, rfl, rfl⟩
    case onlyChannel =>
      exact speltOnly_of_labelled readChannelConfig_only (fun _ => rfl) fun c fits last => ⟨c, fits, last, rfl, rfl⟩
    case onlyStoreScene => exact speltOnly_of_scene (fun _ => rfl) fun c fits last => ⟨c, fits, last, rfl, rfl⟩
    case onlyAmendScene => exact speltOnly_of_scene (fun _ => rfl) fun c fits last => ⟨c, fits, last, rfl, rfl⟩
    case onlyRetireTune =>
      exact retire_only (r := .retireTune h) (fun _ => rfl) ⟨(0, .gentle), .head _, rfl, rfl⟩
        ⟨(1, .abrupt), .tail _ (.head _), rfl, rfl⟩
    case onlyRetireOccasion =>
      exact retire_only (r := fun m => match m with | .gentle => .retireGentle h | .abrupt => .retireAbrupt h)
        (fun p => congrArg (readRetireMode p).bind (funext fun x => by rcases x with ⟨- | -, _⟩ <;> rfl))
        (.inl ⟨rfl, rfl⟩) (.inr ⟨rfl, rfl⟩)
    case onlyRetireScene =>
      exact retire_only (r := .retireScene h) (fun _ => rfl) ⟨(0, .gentle), .head _, rfl, rfl⟩
        ⟨(1, .abrupt), .tail _ (.head _), rfl, rfl⟩
    case refusals =>
      exact ⟨appendSteps_refused_iff short, fun command hc => occasion_refused_iff hc, amendDuskTable_refused_iff short,
        fun q read => amendChimeMap_only sameMap read⟩

end Sys2Proof.Machine
end

section
/-! No command gives the pool a step or loses one (R77): the free steps and the steps held by tunes total the same after every act. -/

namespace Sys2Proof.Machine

variable {s t u : State}

/-- The free steps and the steps held by tunes total the same in `t` as in `s` (R77). -/
def State.PoolKept (s t : State) : Prop := t.tunes.allSteps = s.tunes.allSteps

namespace State.PoolKept

theorem of_tunes (h : t.tunes = s.tunes) : s.PoolKept t := congrArg TuneLibrary.allSteps h

theorem refl (s : State) : s.PoolKept s := of_tunes rfl

theorem trans (h : s.PoolKept t) (k : t.PoolKept u) : s.PoolKept u := Eq.trans k h

theorem ite {c : Prop} [Decidable c] (h : s.PoolKept t) (k : s.PoolKept u) : s.PoolKept (if c then t else u) := by
  split
  · exact h
  · exact k

theorem whenMains {act : State → State} (k : s.PoolKept (act s)) : s.PoolKept (s.whenMains act) := ite k (refl s)

end State.PoolKept

/-- What follows quietly from a state with the same tunes keeps the pool. -/
theorem Quiet.poolKept {r : Bool} (q : Quiet r t u) (h : t.tunes = s.tunes := by rfl) : s.PoolKept u :=
  (State.PoolKept.of_tunes h).trans q.pool

open State.PoolKept

/-! ## Host requests -/

theorem Worked.poolKept (w : Worked s t) : s.PoolKept t := by
  cases w with
  | quietly q => exact q.poolKept
  | asks => exact of_tunes rfl
  | waits => exact of_tunes rfl
  | sets basis d n hn => exact (State.PoolKept.trans ((s.takeSetTime_quiet (r := true) n).poolKept) (of_tunes rfl))
  | restarts => exact (s.requestRestart_quiet (r := true)).poolKept

theorem State.takeTask_poolKept (s : State) (k : Task) : s.PoolKept (s.takeTask k) := by
  unfold State.takeTask
  dsimp only
  split
  · refine State.PoolKept.trans ?_ (State.workTask_worked _ _ fun p hp => by cases hp; rfl).poolKept
    exact of_tunes rfl
  · exact of_tunes rfl

theorem State.hostRequest_poolKept (s : State) (q : Request) : s.PoolKept (s.hostRequest q) := by
  unfold State.hostRequest
  exact ite (ite (State.takeTask_poolKept { s with link.waiting := none } _) (of_tunes rfl)) (refl s)

theorem State.routeRequest_poolKept (s : State) : s.PoolKept s.routeRequest := by
  unfold State.routeRequest
  split
  · exact refl s
  · rename_i q hq
    split
    · refine (s.setPhaseOfRequest_quiet (r := true) _).poolKept.trans (State.workTask_worked _ _ fun p hp => ?_).poolKept
      simp only [State.setPhaseOfRequest, hq, Option.map_some, Option.some.injEq] at hp
      rw [← hp]
    · exact refl s

theorem State.resumeAmendDial_poolKept (s : State) : s.PoolKept s.resumeAmendDial := by
  rcases s.resumeAmendDial_worked with e | ⟨i, a, x, e⟩ <;> rw [e]
  · exact refl s
  · exact of_tunes rfl

/-! ## The Time Base and the resets -/

theorem State.finishSetTime_poolKept (s : State) (atMark : Bool) : s.PoolKept (s.finishSetTime atMark) := by
  unfold State.finishSetTime
  split
  · exact refl s
  · exact (s.takeSetTime_quiet (r := true) _).poolKept.trans (of_tunes rfl)

theorem State.countSecond_poolKept (s : State) : s.PoolKept s.countSecond :=
  let ⟨_, q⟩ := s.countSecond_quiet (r := true)
  q.poolKept

theorem State.alignToMark_poolKept (s : State) : s.PoolKept s.alignToMark := by
  unfold State.alignToMark
  exact ite (ite (of_tunes rfl) (ite ((State.PoolKept.of_tunes rfl).trans (State.countSecond_poolKept _)) (refl s))) (refl s)

theorem State.cancelQualification_poolKept (s : State) : s.PoolKept s.cancelQualification := by
  unfold State.cancelQualification
  split
  · exact refl s
  · exact ite (of_tunes rfl) (refl s)

theorem State.completeQualification_poolKept (s : State) : s.PoolKept s.completeQualification := by
  unfold State.completeQualification
  split
  · exact refl s
  · exact ite (ite (s.coldStart_quiet (r := true)).poolKept (s.supplyReturn_quiet (r := true)).poolKept) (refl s)

theorem State.enterReserve_poolKept (s : State) : s.PoolKept s.enterReserve := (s.enterReserve_quiet (r := true)).poolKept

theorem State.powerUpCold_poolKept (s : State) : s.PoolKept s.powerUpCold :=
  (State.PoolKept.ite s.enterReserve_poolKept (.refl s)).trans (of_tunes rfl)

theorem State.assertRstn_poolKept (s : State) : s.PoolKept s.assertRstn := by
  unfold State.assertRstn
  dsimp only
  split
  · split <;> exact (State.requestRestart_quiet (r := true) _).poolKept
  · exact of_tunes rfl

/-! ## Frames and record memory -/

theorem State.endFrame_poolKept (s : State) (bits : List Bool) : s.PoolKept (s.endFrame bits) := by
  unfold State.endFrame
  split
  · exact of_tunes rfl
  · dsimp only
    split
    · unfold State.takeContent
      split
      · exact of_tunes rfl
      · exact of_tunes rfl
      · exact (State.PoolKept.of_tunes rfl).trans (State.takeTask_poolKept _ _)
    · exact of_tunes rfl

theorem State.applyWrite_poolKept (s : State) (e : WriteEffect) : s.PoolKept (s.applyWrite e) := by
  rcases e.plain_or with p | ⟨x, rfl⟩ | ⟨c, rfl⟩
  · exact (s.applyWrite_quiet (r := true) e p).poolKept
  · exact (s.applyTimeSettings_quiet (r := true) x).poolKept
  · exact (State.tryAsks_quiet (r := true) { s with feeder.capacity := c }).poolKept

theorem State.storeWrite_poolKept (s : State) (e : WriteEffect) : s.PoolKept (s.storeWrite e) := by
  rcases e.plain_or with p | ⟨x, rfl⟩ | ⟨c, rfl⟩
  · exact (s.storeWrite_quiet (r := true) e p).poolKept
  · exact of_tunes rfl
  · exact of_tunes rfl

theorem State.endWrite_poolKept (s : State) : s.PoolKept s.endWrite := by
  unfold State.endWrite
  split
  · exact refl s
  · rename_i w rest _
    have acted : s.PoolKept (if s.time.power = .mains then ({ s with memory.writes := rest } : State).applyWrite w.effect
        else ({ s with memory.writes := rest } : State).storeWrite w.effect) :=
      ite ((of_tunes rfl).trans (State.applyWrite_poolKept _ _)) ((of_tunes rfl).trans (State.storeWrite_poolKept _ _))
    have released := acted.trans (State.releaseRequest_quiet (r := true) _).poolKept
    dsimp only
    split
    · exact released
    · exact released.trans (of_tunes rfl)

/-! ## Every command -/

theorem CommandAct.poolKept {act : State → State} (k : CommandAct act) (s : State) : s.PoolKept (act s) := by
  cases k with
  | request q => exact s.hostRequest_poolKept q
  | running act q => exact .whenMains (q s).poolKept
  | dialAmendResumed => exact .whenMains s.resumeAmendDial_poolKept
  | requestRouted => exact .whenMains s.routeRequest_poolKept
  | timeSetAtEdge => exact .whenMains (ite (s.finishSetTime_poolKept true) (refl s))
  | timeSetAtTimeout => exact .whenMains (ite (s.finishSetTime_poolKept false) (refl s))
  | secondEnded => exact ite s.countSecond_poolKept (refl s)
  | markAligned => exact s.alignToMark_poolKept
  | mainsLost => exact ite s.enterReserve_poolKept (refl s)
  | qualificationBegun => exact ite (of_tunes rfl) (refl s)
  | qualificationCancelled => exact s.cancelQualification_poolKept
  | qualificationCompleted => exact s.completeQualification_poolKept
  | poweredUpCold => exact s.powerUpCold_poolKept
  | pinChanged line high reading => exact (s.changePin_quiet (r := true) line high reading).poolKept
  | filterExpired line => exact ite (s.takeEdge_quiet (r := true) line).poolKept (refl s)
  | rstnAsserted => exact s.assertRstn_poolKept
  | rstnReleased => exact of_tunes rfl
  | restartTaken => exact ite (s.restartReset_quiet (r := true)).poolKept (refl s)
  | frameBegun => exact (s.beginFrame_quiet (r := true)).poolKept
  | frameEnded bits => exact s.endFrame_poolKept bits
  | writeEnded => exact s.endWrite_poolKept
  | boundaryPassed => exact (s.passBoundary_quiet (r := true)).poolKept

/-- Settles O5: every step idles or lets its counts pass and acts, and no act changes what the pool totals. -/
theorem poolAlwaysTotals : Obligations.PoolAlwaysTotals := by
  unfold Obligations.PoolAlwaysTotals
  intro s t sound e
  rcases step_next e with rfl | ⟨rest, dt, act, k, rfl⟩
  · exact sound
  · exact Eq.trans (k.poolKept _) sound

end Sys2Proof.Machine
end

section
/-! Requests about a tune, an occasion or a scene whose handle is out of range or stale (R73). -/

namespace Sys2Proof.Machine

variable {s : State} {h : Handle}

theorem State.withTune_out (out : handleInRange h Config.tunes = false) (act : Tune → State) :
    s.withTune h act = s.badField h.slot h.gen := by
  unfold State.withTune
  rw [if_neg (by simp [out])]

theorem State.withTune_none (range : handleInRange h Config.tunes = true) (none : s.findTune h = none) (act : Tune → State) :
    s.withTune h act = s.noRecord h.slot h.gen := by
  unfold State.withTune
  rw [if_pos range, none]

theorem State.withOccasion_out (out : handleInRange h Config.occasions = false) (act : Occasion → State) :
    s.withOccasion h act = s.badField h.slot h.gen := by
  unfold State.withOccasion
  rw [if_neg (by simp [out])]

theorem State.withOccasion_none (range : handleInRange h Config.occasions = true) (none : s.findOccasion h = none)
    (act : Occasion → State) : s.withOccasion h act = s.noRecord h.slot h.gen := by
  unfold State.withOccasion
  rw [if_pos range, none]

/-- R73: a handle names no record of a free slot, nor one of another generation. -/
theorem Slot.named_none {α : Type} {x : Slot α} (stale : x.record = none ∨ x.gen ≠ h.gen) : x.named h = none := by
  unfold Slot.named
  split
  · exact stale.resolve_right fun other => other (Eq.symm ‹_›)
  · rfl

theorem handleInRange_of_not_out {slots : Nat} (inside : ¬(slots ≤ h.slot ∨ h.gen = 0 ∨ 255 < h.gen)) :
    handleInRange h slots = true := handleInRange_of (by omega) (by omega) (by omega)

/-! Each request about one record is its owner's act on the record the handle names. -/

theorem State.work_withTune (w : State) (steps : List Step) (label : Label) (mode : RetireMode) :
    ∀ r ∈ [Request.appendSteps h steps, .closeTune h, .retireTune h mode, .amendTune h label, .lookUpTune h none,
      .readStateTune h], ∃ act, w.work r = w.withTune h act := by
  simp only [List.forall_mem_cons]
  exact ⟨⟨_, rfl⟩, ⟨_, rfl⟩, ⟨_, rfl⟩, ⟨_, rfl⟩, ⟨_, rfl⟩, ⟨_, rfl⟩, fun _ e => absurd e List.not_mem_nil⟩

theorem State.work_withOccasion (w : State) (c : OccasionConfig) :
    ∀ r ∈ [Request.suspend h, .resume h, .retireGentle h, .retireAbrupt h, .amendOccasion h c, .lookUpOccasion h,
      .readStateOccasion h], ∃ act, w.work r = w.withOccasion h act := by
  simp only [List.forall_mem_cons]
  exact ⟨⟨_, rfl⟩, ⟨_, rfl⟩, ⟨_, rfl⟩, ⟨_, rfl⟩, ⟨_, rfl⟩, ⟨_, rfl⟩, ⟨_, rfl⟩, fun _ e => absurd e List.not_mem_nil⟩

theorem State.work_withScene (w : State) (mode : RetireMode) (x : SceneConfig) :
    ∀ r ∈ [Request.raiseScene h none, .lowerScene h, .retireScene h mode, .amendScene h x, .lookUpScene h, .readStateScene h],
      ∃ act, w.work r = w.withScene h act := by
  simp only [List.forall_mem_cons]
  exact ⟨⟨_, show w.workRaiseScene h none = _ from if_pos rfl⟩, ⟨_, rfl⟩, ⟨_, rfl⟩, ⟨_, rfl⟩, ⟨_, rfl⟩, ⟨_, rfl⟩, fun _ e => absurd e List.not_mem_nil⟩

/-- Settles O34: each request acts on the record its handle names, and answers where it names none. -/
theorem staleHandlesReachNothing : Obligations.StaleHandlesReachNothing := by
  unfold Obligations.StaleHandlesReachNothing
  intro s dt h steps label mode c x ready
  refine ⟨fun r hr => ?_, fun r hr => ?_, fun r hr => ?_⟩
  · obtain ⟨act, e⟩ := ((s.elapse dt).working r).work_withTune steps label mode r hr
    simp only [exec_commandOf ready, e]
    exact ⟨fun out => congrArg _ (State.withTune_out (handleInRange_eq_false out) act),
      fun inside stale => congrArg _ (State.withTune_none (s := (s.elapse dt).working r) (handleInRange_of_not_out inside) (Slot.named_none stale) act)⟩
  · obtain ⟨act, e⟩ := ((s.elapse dt).working r).work_withOccasion c r hr
    simp only [exec_commandOf ready, e]
    exact ⟨fun out => congrArg _ (State.withOccasion_out (handleInRange_eq_false out) act),
      fun inside stale => congrArg _ (State.withOccasion_none (s := (s.elapse dt).working r) (handleInRange_of_not_out inside) (Slot.named_none stale) act)⟩
  · obtain ⟨act, e⟩ := ((s.elapse dt).working r).work_withScene mode x r hr
    simp only [exec_commandOf ready, e]
    exact ⟨fun out => congrArg _ (State.withScene_out (handleInRange_eq_false out) act),
      fun inside stale => congrArg _ (State.withScene_none (s := (s.elapse dt).working r) (handleInRange_of_not_out inside) (Slot.named_none stale) act)⟩

end Sys2Proof.Machine
end

section
/-! One rule for each operation of the Tune Library (R73, R81 to R83): what it writes in the slot a handle names, and what a handle
names after it. -/

namespace Sys2Proof.Machine

variable {s t : State} {g h : Handle} {x : Tune}

/-! ## Tunes named by a handle (R73) -/

theorem Slot.named_same {α : Type} {y : Slot α} (same : h.gen = y.gen) : y.named h = y.record := if_pos same

theorem State.findTune_of_tunes (same : t.tunes = s.tunes) (h : Handle) : t.findTune h = s.findTune h := by
  simp only [State.findTune, State.tuneSlot, same]

theorem State.findTune_gen (found : s.findTune h = some x) : h.gen = (s.tuneSlot h.slot).gen := (Slot.named_some found).1

theorem State.findTune_record (found : s.findTune h = some x) : (s.tuneSlot h.slot).record = some x := (Slot.named_some found).2

theorem State.findTune_slot_lt (found : s.findTune h = some x) : h.slot < Config.tunes := by
  by_contra out
  have blank : s.tuneSlot h.slot = ⟨0, none⟩ := getD_of_ge_vector _ (Nat.le_of_not_lt out) _
  have record := State.findTune_record found
  rw [blank] at record
  cases record

/-- Two handles that both name a tune by one slot are the same. -/
theorem State.findTune_none_of_sameSlot (found : s.findTune g = some x) (slot : h.slot = g.slot) (other : h ≠ g) :
    s.findTune h = none := by
  refine Slot.named_none (.inr fun gen => other ?_)
  rw [slot, ← State.findTune_gen found] at gen
  cases h; cases g
  simp_all

/-! ## Writing the slot of a named tune -/

theorem State.setTune_named (found : s.findTune h = some x) (y : Tune) :
    s.setTune h.slot y = s.setTuneSlot h.slot { gen := h.gen, record := some y } := by
  rw [State.setTune, State.findTune_gen found]

/-- What a handle names after the slot of a named tune is written, its generation kept. -/
theorem State.findTune_setTuneSlot (found : s.findTune g = some x) (r : Option Tune) (h : Handle) :
    (s.setTuneSlot g.slot { gen := g.gen, record := r }).findTune h = if h = g then r else s.findTune h := by
  unfold State.findTune
  rw [State.tuneSlot_setTuneSlot]
  by_cases same : h = g
  · subst same
    rw [if_pos rfl, if_pos ⟨rfl, State.findTune_slot_lt found⟩, Slot.named_same rfl]
  · rw [if_neg same]
    by_cases slot : h.slot = g.slot
    · rw [if_pos ⟨slot.symm, State.findTune_slot_lt found⟩]
      refine Eq.trans (if_neg fun gen => same ?_) (State.findTune_none_of_sameSlot found slot same).symm
      cases h; cases g
      simp_all
    · rw [if_neg fun both => slot both.1.symm]

/-! ## Freeing (R83) -/

theorem State.freeTune_named (found : s.findTune h = some x) : s.freeTune h.slot =
    { s.setTuneSlot h.slot { gen := h.gen, record := none } with
      tunes.freeSteps := s.tunes.freeSteps + x.steps.length
      memory.writes := s.memory.writes ++ [{ effect := .stored (.tune h.slot), response := none }] } := by
  unfold State.freeTune
  rw [State.findTune_record found, State.findTune_gen found]
  rfl

/-! ## References (R81, R82) -/

theorem State.takeRef_named (found : s.findTune h = some x) :
    s.takeRef h = s.setTuneSlot h.slot { gen := h.gen, record := some { x with refs := x.refs + 1 } } := by
  unfold State.takeRef
  rw [found]
  exact State.setTune_named found _

theorem State.takeRefusal_none : s.findTune h = none → s.takeRefusal h = some .gone := fun gone => by
  unfold State.takeRefusal
  rw [gone]

theorem State.takeRefusal_named (found : s.findTune h = some x) :
    s.takeRefusal h = if x.state = .live then none else some .notLive := by
  unfold State.takeRefusal
  rw [found]

theorem State.dropRef_none (gone : s.findTune h = none) : s.dropRef h = s := by
  unfold State.dropRef
  rw [gone]

section
variable (found : s.findTune h = some x)
include found

/-- The count falls by 1 while the tune is not RETIRING or keeps a reference. -/
theorem State.dropRef_kept (kept : x.state ≠ .retiring ∨ 1 < x.refs) :
    s.dropRef h = s.setTuneSlot h.slot { gen := h.gen, record := some { x with refs := x.refs - 1 } } := by
  unfold State.dropRef
  rw [found]
  refine (if_neg fun last => ?_).trans (State.setTune_named found _)
  exact kept.elim (fun live => live last.1) fun more => Nat.not_le.2 more last.2

/-- The last reference of a RETIRING tune frees it. -/
theorem State.dropRef_freed (retiring : x.state = .retiring) (last : x.refs ≤ 1) : s.dropRef h =
    { s.setTuneSlot h.slot { gen := h.gen, record := none } with
      tunes.freeSteps := s.tunes.freeSteps + x.steps.length
      memory.writes := s.memory.writes ++ [{ effect := .stored (.tune h.slot), response := none }] } := by
  unfold State.dropRef
  rw [found]
  refine (if_pos ⟨retiring, last⟩).trans ?_
  rw [State.setTune_named found]
  have named := State.findTune_setTuneSlot found (some { x with refs := x.refs - 1 }) h
  rw [if_pos rfl] at named
  rw [State.freeTune_named named]
  simp only [State.setTuneSlot, Vector.setIfInBounds_setIfInBounds]

end

/-- What a handle names after the reference of a named tune is dropped. -/
theorem State.findTune_dropRef (found : s.findTune g = some x) (h : Handle) : (s.dropRef g).findTune h =
    if h = g then (if x.state = .retiring ∧ x.refs ≤ 1 then none else some { x with refs := x.refs - 1 })
    else s.findTune h := by
  by_cases last : x.state = .retiring ∧ x.refs ≤ 1
  · rw [State.dropRef_freed found last.1 last.2, if_pos last]
    exact State.findTune_setTuneSlot found none h
  · rw [State.dropRef_kept found (by by_cases retiring : x.state = .retiring <;> simp_all), if_neg last]
    exact State.findTune_setTuneSlot found _ h

theorem State.findTune_takeRef (found : s.findTune g = some x) (h : Handle) :
    (s.takeRef g).findTune h = if h = g then some { x with refs := x.refs + 1 } else s.findTune h := by
  rw [State.takeRef_named found]
  exact State.findTune_setTuneSlot found _ h

end Sys2Proof.Machine
end

section
/-! The life of a tune: OPEN TUNE, APPEND STEPS, CLOSE TUNE, AMEND and RETIRE (R74 to R80, R83). -/

namespace Sys2Proof.Machine

variable {s : State} {h : Handle} {x : Tune}

/-! ## The lowest free slot (R74) -/

theorem lowestFree_eq_some {α : Type} {n i : Nat} {v : Vector (Slot α) n} (lt : i < n) (free : (v.getD i ⟨0, none⟩).record = none)
    (lowest : ∀ j, j < i → (v.getD j ⟨0, none⟩).record ≠ none) : lowestFree v = some i :=
  List.find?_range_eq_some.2 ⟨by rw [free]; rfl, List.mem_range.2 lt, fun j hj => by
    simpa [Option.isNone_eq_false_iff, Option.isSome_iff_ne_none] using lowest j hj⟩

theorem lowestFree_eq_none {α : Type} {n : Nat} {v : Vector (Slot α) n}
    (full : ∀ j, j < n → (v.getD j ⟨0, none⟩).record ≠ none) : lowestFree v = none :=
  List.find?_range_eq_none.2 fun j hj => by
    simpa [Option.isNone_eq_false_iff, Option.isSome_iff_ne_none] using full j hj

theorem nextGeneration_eq (g : Nat) : nextGeneration g = if g < 255 then g + 1 else 1 := by
  unfold nextGeneration
  split_ifs <;> omega

/-! ## The checks (R75, R76) -/

theorem stepOk_iff (x : Step) : stepOk x = true ↔ match x with
    | .note degrees velocity duration => 1 ≤ degrees.length ∧ degrees.length ≤ 4 ∧ (∀ k ∈ degrees, k < 32) ∧ degrees.Nodup ∧
      velocity ≤ 3 ∧ 1 ≤ duration ∧ duration ≤ 6000
    | .rest duration => 1 ≤ duration ∧ duration ≤ 6000
    | .call h repeats => h.slot < 64 ∧ 1 ≤ h.gen ∧ h.gen ≤ 255 ∧ 1 ≤ repeats ∧ repeats ≤ 16 := by
  cases x with
  | note degrees velocity duration =>
    simp only [stepOk, Config.degrees, Bool.and_eq_true, decide_eq_true_eq, List.all_eq_true, distinct_iff, and_assoc]
  | rest duration => simp only [stepOk, Bool.and_eq_true, decide_eq_true_eq]
  | call h repeats =>
    simp only [stepOk, Config.tunes, Bool.and_eq_true, decide_eq_true_eq, handleInRange_iff, and_assoc]

theorem batchOk_iff (b : List Step) : batchOk b = true ↔ 1 ≤ b.length ∧ b.length ≤ 32 ∧ ∀ x ∈ b, stepOk x = true := by
  simp only [batchOk, Bool.and_eq_true, decide_eq_true_eq, List.all_eq_true, and_assoc]

/-- R76: the first refusal that applies, in its order. -/
theorem State.appendRefusal_cases (s : State) (x : Tune) (b : List Step) :
    (x.state ≠ .draft → s.appendRefusal x b = some .wrongState) ∧
    (x.state = .draft → ¬batchOk b = true → s.appendRefusal x b = some .badField) ∧
    (x.state = .draft → batchOk b = true → 512 < x.steps.length + b.length → s.appendRefusal x b = some .full) ∧
    (x.state = .draft → batchOk b = true → x.steps.length + b.length ≤ 512 → s.tunes.freeSteps < b.length →
      s.appendRefusal x b = some .poolFull) ∧
    (x.state = .draft → batchOk b = true → x.steps.length + b.length ≤ 512 → b.length ≤ s.tunes.freeSteps →
      s.appendRefusal x b = none) := by
  unfold State.appendRefusal Config.maxTuneSteps
  refine ⟨fun state => if_pos state, fun draft bad => ?_, fun draft ok long => ?_, fun draft ok fits poor => ?_,
    fun draft ok fits rich => ?_⟩
  · rw [if_neg (not_not.2 draft), if_pos (by simpa using bad)]
  · rw [if_neg (not_not.2 draft), if_neg (by simp [ok]), if_pos long]
  · rw [if_neg (not_not.2 draft), if_neg (by simp [ok]), if_neg (Nat.not_lt.2 fits), if_pos poor]
  · rw [if_neg (not_not.2 draft), if_neg (by simp [ok]), if_neg (Nat.not_lt.2 fits), if_neg (Nat.not_lt.2 rich)]

/-! ## OPEN TUNE (R74) -/

theorem State.workOpenTune_badField {label : Label} (long : 16 < label.length) : s.workOpenTune label = s.badField :=
  if_neg (by simpa [labelOk_iff] using long)

theorem State.workOpenTune_full {label : Label} (fits : label.length ≤ 16) (full : ∀ j, j < 64 → (s.tuneSlot j).record ≠ none) :
    s.workOpenTune label = s.answer (reply .full 0 0) := by
  unfold State.workOpenTune
  rw [if_pos ((labelOk_iff _).2 fits), lowestFree_eq_none full]

theorem State.workOpenTune_opens {label : Label} {i : Nat} (noWrite : s.memory.writes = []) (fits : label.length ≤ 16)
    (lt : i < 64) (free : (s.tuneSlot i).record = none) (lowest : ∀ j, j < i → (s.tuneSlot j).record ≠ none) :
    s.workOpenTune label =
      { s.setTuneSlot i { gen := nextGeneration (s.tuneSlot i).gen
                          record := some { label := label, state := .draft, steps := [], refs := 0 } } with
        memory.writes := [{ effect := .stored (.tune i)
                            response := some (reply .done i (nextGeneration (s.tuneSlot i).gen)) }] } := by
  unfold State.workOpenTune
  rw [if_pos ((labelOk_iff _).2 fits), lowestFree_eq_some lt free lowest]
  refine (s.answerAfterWrites_store (s.setTuneSlot i _) rfl _ _).trans ?_
  rw [noWrite]
  rfl

/-! ## Requests about a named tune (R76, R78 to R80)

Each of them is worked on the tune the handle names, and its change is written. -/

theorem exec_ready (ready : s.HostReady) (r : Request) {dt : Nat} {t : State}
    (worked : ((s.elapse dt).working r).work r = t) : exec (commandOf dt r) s = .next t :=
  (exec_commandOf ready dt r).trans (congrArg _ worked)

/-- R182: a request that writes the named tune is answered when its write ends. -/
theorem State.answerAfterWrites_tune (s u : State) (memory : u.memory = s.memory) (noWrite : s.memory.writes = []) (i : Nat)
    (r : Response) : (u.store (.tune i)).answerAfterWrites s.memory.writes.length r
      = { u with memory.writes := [{ effect := .stored (.tune i), response := some r }] } := by
  rw [s.answerAfterWrites_store u memory, noWrite]
  rfl

section
variable (range : handleInRange h Config.tunes = true) (found : s.findTune h = some x)
include range found

theorem State.workAppend_refused {b : List Step} {status : Status} (refused : s.appendRefusal x b = some status) :
    s.workAppend h b = s.answer (reply status h.slot h.gen) := by
  unfold State.workAppend
  rw [State.withTune_found range found, refused]

theorem State.workAppend_linked {b : List Step} (noWrite : s.memory.writes = []) (free : s.appendRefusal x b = none) :
    s.workAppend h b =
      { s.setTuneSlot h.slot { gen := h.gen, record := some { x with steps := x.steps ++ b } } with
        tunes.freeSteps := s.tunes.freeSteps - b.length
        memory.writes := [{ effect := .stored (.tune h.slot)
                            response := some (reply .done h.slot h.gen
                              (u16 (x.steps.length + b.length) ++ u16 (s.tunes.freeSteps - b.length))) }] } := by
  unfold State.workAppend State.linkSteps
  rw [State.withTune_found range found, free, State.setTune_named found]
  exact s.answerAfterWrites_tune { s.setTuneSlot h.slot _ with tunes.freeSteps := _ } rfl noWrite h.slot _

theorem State.workCloseTune_eq : s.workCloseTune h =
    if x.state ≠ .draft then s.wrongState h.slot h.gen
    else if x.steps = [] then s.badField h.slot h.gen
    else ((s.setTune h.slot { x with state := .live }).store (.tune h.slot)).answerAfterWrites s.memory.writes.length
      (reply .done h.slot h.gen) := State.withTune_found range found _

theorem State.workAmendTune_eq (label : Label) : s.workAmendTune h label =
    if x.state = .retiring then s.wrongState h.slot h.gen
    else if labelOk label then ((s.setTune h.slot { x with label := label }).store (.tune h.slot)).answerAfterWrites
      s.memory.writes.length (reply .done h.slot h.gen)
    else s.badField h.slot h.gen := State.withTune_found range found _

theorem State.workRetireTune_eq : s.workRetireTune h =
    if x.state = .retiring then s.wrongState h.slot h.gen
    else if x.state = .draft ∨ x.refs = 0 then
      (s.freeTune h.slot).answerAfterWrites s.memory.writes.length (reply .done h.slot h.gen (u8 0))
    else ((s.setTune h.slot { x with state := .retiring }).store (.tune h.slot)).answerAfterWrites s.memory.writes.length
      (reply .done h.slot h.gen (u8 1 ++ u8 x.refs)) := State.withTune_found range found _

omit range in
/-- A new record of the named tune is written and the request answered. -/
theorem State.storeTune_answered (noWrite : s.memory.writes = []) (y : Tune) (p : List Byte) :
    ((s.setTune h.slot y).store (.tune h.slot)).answerAfterWrites s.memory.writes.length (reply .done h.slot h.gen p)
      = { s.setTuneSlot h.slot { gen := h.gen, record := some y } with
          memory.writes := [{ effect := .stored (.tune h.slot), response := some (reply .done h.slot h.gen p) }] } := by
  rw [State.setTune_named found]
  exact s.answerAfterWrites_tune (s.setTuneSlot h.slot _) rfl noWrite h.slot _

omit range in
/-- The named tune is freed, its steps going back to the pool, and the request answered. -/
theorem State.freeTune_answered (noWrite : s.memory.writes = []) (p : List Byte) :
    (s.freeTune h.slot).answerAfterWrites s.memory.writes.length (reply .done h.slot h.gen p)
      = { s.setTuneSlot h.slot { gen := h.gen, record := none } with
          tunes.freeSteps := s.tunes.freeSteps + x.steps.length
          memory.writes := [{ effect := .stored (.tune h.slot), response := some (reply .done h.slot h.gen p) }] } := by
  rw [State.freeTune_named found, noWrite]
  rfl

end

/-- Settles O35: OPEN TUNE and APPEND STEPS by what their checks find. -/
theorem tunesAreOpenedAndFilled : Obligations.TunesAreOpenedAndFilled := by
  unfold Obligations.TunesAreOpenedAndFilled
  refine ⟨fun s dt label ready => ?opens, fun s dt h x b ready slot low high found => ?appends, stepOk_iff,
    fun s dt taken h x v mains slot low high found asked => ?unread⟩
  case opens =>
    refine ⟨fun long => exec_ready ready (.openTune label) (State.workOpenTune_badField (s := (s.elapse dt).working _) long), fun fits =>
      ⟨fun i lt free lowest => ?_, fun full => exec_ready ready (.openTune label) (State.workOpenTune_full (s := (s.elapse dt).working _) fits full)⟩⟩
    have opened := State.workOpenTune_opens (s := (s.elapse dt).working (.openTune label)) ready.noWrite fits lt free lowest
    rw [nextGeneration_eq] at opened
    exact exec_ready ready (.openTune label) opened
  case appends =>
    let w := (s.elapse dt).working (.appendSteps h b)
    have range := handleInRange_of slot low high
    have refused {status : Status} (e : w.appendRefusal x b = some status) :=
      exec_ready ready (.appendSteps h b) (State.workAppend_refused (s := w) range found e)
    obtain ⟨wrong, bad, full, poor, none⟩ := w.appendRefusal_cases x b
    simp only [batchOk_iff] at bad full poor none
    exact ⟨fun state => refused (wrong state), fun draft invalid => refused (bad draft invalid),
      fun draft ok long => refused (full draft ok long), fun draft ok fits few => refused (poor draft ok fits few),
      fun draft ok fits rich =>
        exec_ready ready (.appendSteps h b) (State.workAppend_linked (s := w) range found ready.noWrite (none draft ok fits rich))⟩
  case unread =>
    let w : State := { s.elapse dt with link.inProgress := some { task := .badSteps h, phase := .working, taken := taken, seen := v } }
    have routed : exec (.requestRouted dt) s = .next (w.workBadSteps h) :=
      (happen_mains dt mains).trans (congrArg _ (State.routeRequest_ready (s := s.elapse dt) asked))
    rw [routed, State.workBadSteps, State.withTune_found (s := w) (handleInRange_of slot low high) found]
    by_cases draft : x.state = .draft
    · rw [if_neg (not_not.2 draft), if_pos draft]
      rfl
    · rw [if_pos draft, if_neg draft]
      rfl

/-- Settles O36: CLOSE TUNE, AMEND and RETIRE of a named tune by its state. -/
theorem tunesLiveAndRetire : Obligations.TunesLiveAndRetire := by
  unfold Obligations.TunesLiveAndRetire
  intro s dt h x mode label ready slot low high found e close amend retire written
  have range := handleInRange_of (slots := Config.tunes) slot low high
  have closed := State.workCloseTune_eq (s := close) range found
  have amended := State.workAmendTune_eq (s := amend) range found label
  have retired := State.workRetireTune_eq (s := retire) range found
  refine ⟨fun state => exec_ready ready (.closeTune h) (closed.trans (if_pos state)), fun draft empty => ?_, fun draft steps => ?_,
    fun retiring => ⟨exec_ready ready (.amendTune h label) (amended.trans (if_pos retiring)), exec_ready ready (.retireTune h mode) (retired.trans (if_pos retiring))⟩,
    fun state long => ?_, fun state fits => ?_, fun unused => ?_, fun live used => ?_⟩
  · exact exec_ready ready (.closeTune h) (closed.trans ((if_neg (not_not.2 draft)).trans (if_pos empty)))
  · exact exec_ready ready (.closeTune h) (closed.trans ((if_neg (not_not.2 draft)).trans ((if_neg steps).trans
      (State.storeTune_answered (s := close) found ready.noWrite _ _))))
  · exact exec_ready ready (.amendTune h label) (amended.trans ((if_neg state).trans (if_neg (by simpa [labelOk_iff] using long))))
  · exact exec_ready ready (.amendTune h label) (amended.trans ((if_neg state).trans ((if_pos ((labelOk_iff _).2 fits)).trans
      (State.storeTune_answered (s := amend) found ready.noWrite _ _))))
  · have state : x.state ≠ .retiring := by rcases unused with draft | ⟨live, _⟩ <;> simp_all
    exact exec_ready ready (.retireTune h mode) (retired.trans ((if_neg state).trans ((if_pos (unused.imp id And.right)).trans
      (State.freeTune_answered (s := retire) found ready.noWrite _))))
  · exact exec_ready ready (.retireTune h mode) (retired.trans ((if_neg (by simp [live])).trans ((if_neg (by simp [live, used])).trans
      (State.storeTune_answered (s := retire) found ready.noWrite _ _))))

/-! ## The Chime Map (R85, R86) -/

theorem TuneLibrary.lookUp_inside {m : TuneLibrary} {transposition : Int} {degree k : Nat}
    (sum : (degree : Int) + transposition = (k : Int)) (lt : k < 32) :
    m.lookUp transposition degree = match m.chimeMap.getD k none with | some b => .bell b | none => .unmapped := by
  unfold TuneLibrary.lookUp
  rw [if_pos (by omega), sum]
  rfl

theorem TuneLibrary.lookUp_outside {m : TuneLibrary} {transposition : Int} {degree : Nat}
    (out : (degree : Int) + transposition < 0 ∨ 31 < (degree : Int) + transposition) :
    m.lookUp transposition degree = .outOfRange := if_neg (by omega)

/-- R85: a degree the pairs do not name is as it was. -/
theorem setDegrees_unnamed {k : Nat} (pairs : List (Nat × Option Nat)) (m : Vector (Option Nat) Config.degrees)
    (unnamed : ∀ x, (k, x) ∉ pairs) : (setDegrees m pairs).getD k none = m.getD k none := by
  induction pairs generalizing m with
  | nil => rfl
  | cons p rest ih =>
    refine (ih _ fun x mem => unnamed x (List.mem_cons_of_mem _ mem)).trans ?_
    rw [getD_setIfInBounds, if_neg]
    rintro ⟨rfl, _⟩
    exact unnamed p.2 List.mem_cons_self

/-- R85: a degree named once is set. -/
theorem setDegrees_named {k : Nat} (lt : k < 32) {x : Option Nat} (pairs : List (Nat × Option Nat))
    (m : Vector (Option Nat) Config.degrees) (once : (pairs.map (·.1)).Nodup) (named : (k, x) ∈ pairs) :
    (setDegrees m pairs).getD k none = x := by
  induction pairs generalizing m with
  | nil => cases named
  | cons p rest ih =>
    rw [List.map_cons, List.nodup_cons] at once
    rcases List.mem_cons.1 named with rfl | later
    · refine (setDegrees_unnamed rest _ fun y mem => once.1 (List.mem_map.2 ⟨_, mem, rfl⟩)).trans ?_
      rw [getD_setIfInBounds, if_pos ⟨rfl, lt⟩]
    · exact ih _ once.2 later

/-- Settles O37: the map's answer inside and outside 0 to 31, and what an AMEND sets. -/
theorem chimeMapAnswersEachDegree : Obligations.ChimeMapAnswersEachDegree := by
  unfold Obligations.ChimeMapAnswersEachDegree
  refine ⟨fun m transposition degree k sum lt => ?_, fun m transposition degree out => TuneLibrary.lookUp_outside out,
    fun m pairs k lt once => ⟨fun x => setDegrees_named lt pairs m once, setDegrees_unnamed pairs m⟩⟩
  rw [TuneLibrary.lookUp_inside sum lt]
  exact ⟨fun b held => by rw [held], fun free => by rw [free]⟩

end Sys2Proof.Machine
end

section
/-! The report of an entry to its source (R94, R111, R117, R135) and the dropping of its reference (R82): what each changes, what it
leaves, and that neither reads the queue. -/

namespace Sys2Proof.Machine

variable {s t : State} {e : Entry} {k j : Nat} {c : Context} {a : ContextAction} {o : Occasion}

/-! ## What a report leaves -/

theorem State.setPhase_frame (s : State) (k j : Nat) (p : ActionPhase) :
    s.setPhase k j p = { s with calendar := (s.setPhase k j p).calendar } := by
  unfold State.setPhase
  split
  · rfl
  · split <;> rfl

theorem State.raiseIf_frame (s : State) (b : Bool) (c : Condition) : s.raiseIf b c = { s with link := (s.raiseIf b c).link } := by
  unfold State.raiseIf
  split <;> rfl

theorem State.setOutcome_frame (s : State) (k j : Nat) (x : Outcome) : s.setOutcome k j x =
    { s with calendar := (s.setOutcome k j x).calendar, memory := (s.setOutcome k j x).memory, link := (s.setOutcome k j x).link } := by
  unfold State.setOutcome
  split
  · rfl
  · split
    · rfl
    · rw [State.raiseIf_frame, State.putOccasion_frame]

/-- What a report to an action can change: the calendar, record memory and the link. -/
abbrev State.OnlyActions (s t : State) : Prop := t = { s with calendar := t.calendar, memory := t.memory, link := t.link }

theorem State.OnlyActions.trans {u : State} (h : s.OnlyActions t) (k : t.OnlyActions u) : s.OnlyActions u :=
  Eq.trans k (congrArg (fun v : State => { v with calendar := u.calendar, memory := u.memory, link := u.link }) h)

theorem State.setPhase_onlyActions (s : State) (k j : Nat) (p : ActionPhase) : s.OnlyActions (s.setPhase k j p) := by
  rw [State.OnlyActions, s.setPhase_frame]

theorem State.finishAction_onlyActions (s : State) (k j : Nat) (x : Outcome) : s.OnlyActions (s.finishAction k j x) :=
  State.OnlyActions.trans (s.setOutcome_frame k j x) (State.setPhase_onlyActions _ k j .done)

theorem State.reportToAction_onlyActions (s : State) (k j n : Nat) (r : EntryReport) (m : Nat) (d : Bool) :
    s.OnlyActions (s.reportToAction k j n r m d) := by
  cases r with
  | queued => exact (s.setPhase_onlyActions k j _).trans (State.setOutcome_frame _ k j _)
  | started => exact s.setOutcome_frame k j _
  | _ => exact s.finishAction_onlyActions k j _

/-- What a report of an entry can change. -/
abbrev State.OnlyReported (s t : State) : Prop := t =
  { s with chime.lastOutcome := t.chime.lastOutcome, program := t.program, calendar := t.calendar, memory := t.memory, link := t.link }

theorem State.reportToClock_onlyReported (s : State) (source : ClockSource) (m : Nat) (r : EntryReport) (started : Bool) (n : Nat) :
    s.OnlyReported (s.reportToClock source m r started n) := by
  unfold State.reportToClock
  rw [State.OnlyReported, State.raiseIf_frame]

theorem State.reportEntry_onlyReported (s : State) (e : Entry) (r : EntryReport) (m : Nat) (d : Bool) :
    s.OnlyReported (s.reportEntry e r m d) := by
  unfold State.reportEntry
  split
  · exact s.reportToClock_onlyReported _ _ _ _ _
  · exact s.reportToClock_onlyReported _ _ _ _ _
  · rw [State.OnlyReported, s.reportToAction_onlyActions]
  · split <;> rfl

section
variable (s : State) (e : Entry) (r : EntryReport) (m : Nat) (d : Bool)

@[simp] theorem State.reportEntry_performance : (s.reportEntry e r m d).chime.performance = s.chime.performance :=
  (congrArg (fun v : State => v.chime.performance) (s.reportEntry_onlyReported e r m d) :)

@[simp] theorem State.reportEntry_clock : (s.reportEntry e r m d).clock = s.clock :=
  (congrArg (fun v : State => v.clock) (s.reportEntry_onlyReported e r m d) :)

@[simp] theorem State.reportEntry_time : (s.reportEntry e r m d).time = s.time :=
  (congrArg (fun v : State => v.time) (s.reportEntry_onlyReported e r m d) :)

@[simp] theorem State.reportEntry_tunes : (s.reportEntry e r m d).tunes = s.tunes :=
  (congrArg (fun v : State => v.tunes) (s.reportEntry_onlyReported e r m d) :)

end

/-! ## What the dropping of a reference leaves (R82) -/

/-- What the dropping of a reference can change: the tunes and record memory. -/
abbrev State.OnlyTunes (s t : State) : Prop := t = { s with tunes := t.tunes, memory := t.memory }

theorem State.dropRef_onlyTunes (s : State) (h : Handle) : s.OnlyTunes (s.dropRef h) := by
  cases found : s.findTune h with
  | none => rw [State.dropRef_none found]
  | some x =>
    by_cases last : x.state = .retiring ∧ x.refs ≤ 1
    · rw [State.dropRef_freed found last.1 last.2]
      rfl
    · rw [State.dropRef_kept found (by by_cases retiring : x.state = .retiring <;> simp_all)]
      rfl

theorem State.dropEntryRef_onlyTunes (s : State) (e : Entry) : s.OnlyTunes (s.dropEntryRef e) := by
  unfold State.dropEntryRef
  split
  · exact s.dropRef_onlyTunes _
  · rfl

section
variable (s : State) (e : Entry)

@[simp] theorem State.dropEntryRef_clock : (s.dropEntryRef e).clock = s.clock :=
  (congrArg (fun v : State => v.clock) (s.dropEntryRef_onlyTunes e) :)

@[simp] theorem State.dropEntryRef_time : (s.dropEntryRef e).time = s.time :=
  (congrArg (fun v : State => v.time) (s.dropEntryRef_onlyTunes e) :)

@[simp] theorem State.dropEntryRef_program : (s.dropEntryRef e).program = s.program :=
  (congrArg (fun v : State => v.program) (s.dropEntryRef_onlyTunes e) :)

@[simp] theorem State.dropEntryRef_link : (s.dropEntryRef e).link = s.link :=
  (congrArg (fun v : State => v.link) (s.dropEntryRef_onlyTunes e) :)

end

/-! ## Reports to each kind of source -/

theorem State.reportEntry_command (command : e.source = .command) (r : EntryReport) (m : Nat) (d : Bool) :
    s.reportEntry e r m d = if r.isFinal then
      { s with chime.lastOutcome := some { what := .entry e.number, report := r, skipped := m, depth := d } } else s := by
  unfold State.reportEntry
  rw [command]

theorem State.reportEntry_occasion {h : Handle} (source : e.source = .occasion h k j) (r : EntryReport) (m : Nat) (d : Bool) :
    s.reportEntry e r m d = s.reportToAction k j e.number r m d := by
  unfold State.reportEntry
  rw [source]

/-! ## Neither a report nor a drop reads the queue -/

/-- The state with another queue. -/
def State.withQueue (s : State) (q : List Entry) : State := { s with chime.queue := q }

section
variable (s : State) (q : List Entry)

theorem State.setPhase_withQueue (k j : Nat) (p : ActionPhase) : (s.withQueue q).setPhase k j p = (s.setPhase k j p).withQueue q := by
  have same : (s.withQueue q).context k = s.context k := rfl
  unfold State.setPhase
  rw [same]
  cases s.context k with
  | none => rfl
  | some c =>
    dsimp only
    cases c.actions[j]? <;> rfl

theorem State.putOccasion_withQueue (i : Nat) (o : Occasion) :
    (s.withQueue q).putOccasion i o = (s.putOccasion i o).withQueue q :=
  (apply_ite (fun u : State => u.withQueue q) ((s.occasionSlot i).record = some o) s
    ((s.setOccasionSlot i { s.occasionSlot i with record := some o }).store (.occasion i))).symm

theorem State.raiseIf_withQueue (b : Bool) (c : Condition) : (s.withQueue q).raiseIf b c = (s.raiseIf b c).withQueue q :=
  (apply_ite (fun u : State => u.withQueue q) (b = true) (s.raise c) s).symm

theorem State.setOutcome_withQueue (k j : Nat) (x : Outcome) :
    (s.withQueue q).setOutcome k j x = (s.setOutcome k j x).withQueue q := by
  have same : (s.withQueue q).context k = s.context k := rfl
  have sameOccasion (h : Handle) : (s.withQueue q).findOccasion h = s.findOccasion h := rfl
  unfold State.setOutcome
  rw [same]
  cases s.context k with
  | none => rfl
  | some c =>
    dsimp only
    rw [sameOccasion]
    cases s.findOccasion c.occasion with
    | none => rfl
    | some o =>
      dsimp only
      rw [State.putOccasion_withQueue, State.raiseIf_withQueue]

theorem State.finishAction_withQueue (k j : Nat) (x : Outcome) :
    (s.withQueue q).finishAction k j x = (s.finishAction k j x).withQueue q := by
  rw [State.finishAction, State.setOutcome_withQueue, State.setPhase_withQueue, State.finishAction]

theorem State.reportToAction_withQueue (k j n : Nat) (r : EntryReport) (m : Nat) (d : Bool) :
    (s.withQueue q).reportToAction k j n r m d = (s.reportToAction k j n r m d).withQueue q := by
  cases r with
  | queued =>
    exact (congrArg (fun u : State => u.setOutcome k j (Outcome.plain .pending)) (s.setPhase_withQueue q k j _)).trans
      (State.setOutcome_withQueue _ q k j _)
  | started => exact s.setOutcome_withQueue q k j _
  | _ => exact s.finishAction_withQueue q k j _

theorem State.reportToClock_withQueue (source : ClockSource) (n : Nat) (r : EntryReport) (started : Bool) (m : Nat) :
    (s.withQueue q).reportToClock source n r started m = (s.reportToClock source n r started m).withQueue q := by
  unfold State.reportToClock
  rw [← State.raiseIf_withQueue]
  rfl

theorem State.reportEntry_withQueue (e : Entry) (r : EntryReport) (m : Nat) (d : Bool) :
    (s.withQueue q).reportEntry e r m d = (s.reportEntry e r m d).withQueue q := by
  unfold State.reportEntry
  cases e.source with
  | quarter n => exact s.reportToClock_withQueue q _ _ _ _ _
  | hour n => exact s.reportToClock_withQueue q _ _ _ _ _
  | occasion h k j => exact s.reportToAction_withQueue q _ _ _ _ _ _
  | command => exact (apply_ite (fun u : State => u.withQueue q) (r.isFinal = true)
      { s with chime.lastOutcome := some { what := .entry e.number, report := r, skipped := m, depth := d } } s).symm

theorem State.dropRef_withQueue (h : Handle) : (s.withQueue q).dropRef h = (s.dropRef h).withQueue q := by
  have same : (s.withQueue q).findTune h = s.findTune h := rfl
  cases found : s.findTune h with
  | none => rw [State.dropRef_none found, State.dropRef_none (same.trans found)]
  | some x =>
    by_cases last : x.state = .retiring ∧ x.refs ≤ 1
    · rw [State.dropRef_freed found last.1 last.2, State.dropRef_freed (same.trans found) last.1 last.2]
      rfl
    · have kept : x.state ≠ .retiring ∨ 1 < x.refs := by by_cases retiring : x.state = .retiring <;> simp_all
      rw [State.dropRef_kept found kept, State.dropRef_kept (same.trans found) kept]
      rfl

theorem State.dropEntryRef_withQueue (e : Entry) : (s.withQueue q).dropEntryRef e = (s.dropEntryRef e).withQueue q := by
  unfold State.dropEntryRef
  cases e.content.tune? with
  | none => rfl
  | some h => exact s.dropRef_withQueue q h

end

end Sys2Proof.Machine
end

section
/-! STOP of an entry number (R106): a queued entry leaves, the performance is told, or nothing has the number. -/

namespace Sys2Proof.Machine

variable {s : State} {n : Nat} {x : Entry} {before after : List Entry}

/-- In a queue whose other entries have other numbers, the entry of a number is found. -/
theorem find_number (number : x.number = n) (others : ∀ y ∈ before ++ after, y.number ≠ n) :
    (before ++ x :: after).find? (fun y => y.number == n) = some x := by
  rw [List.find?_append, List.find?_eq_none.2 fun y mem => by simpa using others y (List.mem_append_left _ mem),
    List.find?_cons_of_pos (by simpa using number), Option.none_or]

/-- A queue without the entry of a number. -/
theorem filter_number (number : x.number = n) (others : ∀ y ∈ before ++ after, y.number ≠ n) :
    (before ++ x :: after).filter (fun y => y.number != n) = before ++ after := by
  have kept (l : List Entry) (sub : ∀ y ∈ l, y ∈ before ++ after) : l.filter (fun y => y.number != n) = l :=
    List.filter_eq_self.2 fun y mem => by simpa using others y (sub y mem)
  rw [List.filter_append, List.filter_cons_of_neg (by simpa using number), kept before fun y => List.mem_append_left _,
    kept after fun y => List.mem_append_right _]

/-- R106: a queued entry is removed. -/
theorem State.stopEntry_queued (queue : s.chime.queue = before ++ x :: after) (number : x.number = n)
    (others : ∀ y ∈ before ++ after, y.number ≠ n) : s.stopEntry n =
      ((State.reportEntry { s with chime.queue := before ++ after } x .stopped x.carried.1 x.carried.2).dropEntryRef x, true) := by
  unfold State.stopEntry
  rw [queue, find_number number others]
  dsimp only
  rw [State.removeEntry, State.unqueue, number, queue, filter_number number others]

theorem find_number_none {q : List Entry} (unqueued : ∀ y ∈ q, y.number ≠ n) : q.find? (fun y => y.number == n) = none :=
  List.find?_eq_none.2 fun y mem => by simpa using unqueued y mem

/-- R106: the performance of the number is stopped. -/
theorem State.stopEntry_performance {p : Performance} (unqueued : ∀ y ∈ s.chime.queue, y.number ≠ n)
    (plays : s.chime.performance = some p) (number : p.entry.number = n) :
    s.stopEntry n = ({ s with chime.performance := some p.stop }, true) := by
  unfold State.stopEntry
  rw [find_number_none unqueued]
  dsimp only
  rw [plays]
  exact if_pos number

theorem State.stopEntry_none (unqueued : ∀ y ∈ s.chime.queue, y.number ≠ n)
    (other : ∀ p, s.chime.performance = some p → p.entry.number ≠ n) : s.stopEntry n = (s, false) := by
  unfold State.stopEntry
  rw [find_number_none unqueued]
  dsimp only
  split
  · rfl
  · exact if_neg (other _ ‹_›)

theorem State.workStopEntry_stopped {t : State} (stopped : s.stopEntry n = (t, true)) :
    s.workStopEntry n = t.settleContexts.answer (reply .done (n % 256) 0) := by
  unfold State.workStopEntry
  rw [stopped]

theorem State.workStopEntry_none (none : s.stopEntry n = (s, false)) :
    s.workStopEntry n = s.answer (reply .noRecord (n % 256) 0) := by
  unfold State.workStopEntry
  rw [none]
  rfl

theorem Entry.carried_eq (x : Entry) : x.carried =
    (match x.resume with | some k => k.skipped | none => 0, match x.resume with | some k => k.depth | none => false) := by
  unfold Entry.carried
  cases x.resume <;> rfl

/-- A performance that is given again as it is. -/
theorem State.performance_same {p : Performance} (plays : s.chime.performance = some p) :
    { s with chime.performance := some p } = s := by rw [← plays]

/-- Settles O42: the entry is queued, the performance, or none. -/
theorem stopNamesOneEntry : Obligations.StopNamesOneEntry := by
  unfold Obligations.StopNamesOneEntry
  intro s dt n ready settled w done
  have stops {t : State} (stopped : w.stopEntry n = (t, true)) : done t.settleContexts :=
    exec_ready ready (.stopChimeEntry n) (State.workStopEntry_stopped stopped)
  have stopsAtOnce {t : State} (stopped : w.stopEntry n = (t, true)) (calendar : t.calendar = s.calendar) : done t :=
    (State.settleContexts_of_calendar settled calendar) ▸ stops stopped
  refine ⟨fun x before after queue number others => ?queued, fun unqueued =>
    ⟨fun p plays number => ?performance, fun other =>
      exec_ready ready (.stopChimeEntry n) (State.workStopEntry_none (State.stopEntry_none (s := w) unqueued other))⟩⟩
  case queued =>
    intro skipped depth left
    have stopped := State.stopEntry_queued (s := w) queue number others
    rw [Entry.carried_eq] at stopped
    refine ⟨stops stopped, fun command => ?_⟩
    rw [State.reportEntry_command command, if_pos (show EntryReport.stopped.isFinal = true from rfl), number] at stopped
    exact stopsAtOnce stopped (State.dropEntryRef_calendar _ _)
  case performance =>
    have stopped := State.stopEntry_performance (s := w) unqueued plays number
    refine ⟨fun playing => ?_, fun preEmpted => ?_, fun ended => ?_⟩
    · have told : p.stop = { p with stopPending := true } := by rw [Performance.stop, playing]
      rw [told] at stopped
      exact stopsAtOnce stopped rfl
    · have told : p.stop = { p with ending := some .stopped } := by rw [Performance.stop, preEmpted]
      rw [told] at stopped
      exact stopsAtOnce stopped rfl
    · have kept : p.stop = p := by rcases ended with e | e <;> rw [Performance.stop, e]
      rw [kept, State.performance_same (s := w) plays] at stopped
      exact stopsAtOnce stopped rfl

end Sys2Proof.Machine
end

section
/-! R135: what each report of an entry makes of an action of a context: its phase there, its entry in the outcome of the context's
occasion, and the condition it raises. -/

namespace Sys2Proof.Machine

variable {s : State} {k j : Nat} {c : Context} {a : ContextAction} {o : Occasion}

/-! ## The phase and the outcome entry of one action -/

theorem State.context_setPhase (stands : s.context k = some c) (action : c.actions[j]? = some a) (p : ActionPhase) (m : Nat) :
    (s.setPhase k j p).context m
      = if k = m then some { c with actions := c.actions.set j { a with phase := p } } else s.context m := by
  unfold State.setPhase
  simp only [stands, action]
  rw [State.context_setContext]
  exact if_congr (and_iff_left (State.context_lt stands)) rfl rfl

theorem State.setPhase_link (s : State) (k j : Nat) (p : ActionPhase) : (s.setPhase k j p).link = s.link :=
  (congrArg State.link (s.setPhase_frame k j p) :)

theorem State.setOutcome_link (s : State) (k j : Nat) {x : Outcome} (calm : x.isRaised = false) :
    (s.setOutcome k j x).link = s.link := by
  unfold State.setOutcome
  split
  · rfl
  · split
    · rfl
    · rw [calm]
      exact State.putOccasion_link _ _ _

theorem State.finishAction_link (s : State) (k j : Nat) {x : Outcome} (calm : x.isRaised = false) :
    (s.finishAction k j x).link = s.link :=
  (State.setPhase_link _ k j .done).trans (s.setOutcome_link k j calm)

/-! ## Reports -/

/-- R135: the outcome entry a report gives. -/
def EntryReport.told (skipped : Nat) (depth : Bool) : EntryReport → Outcome
  | .queued => Outcome.plain .pending
  | .started => Outcome.plain .started
  | .done => { kind := .done, note := .none, skipped := skipped, depth := depth }
  | .stopped => Outcome.plain .cancelled
  | .refusedFull => Outcome.plain .refused .full
  | .expired => Outcome.plain .skipped .expired
  | .preEmptedDropped => Outcome.plain .skipped .preEmpted
  | .gone => Outcome.plain .refused .noRecord
  | .notLive => Outcome.plain .refused .noRecord

/-- R135: the phase a report leaves an action in. -/
def EntryReport.phaseTold (number : Nat) (p : ActionPhase) : EntryReport → ActionPhase
  | .queued => .active (.entry number)
  | .started => p
  | _ => .done

section
variable (stands : s.context k = some c) (action : c.actions[j]? = some a)
  (n : Nat) (r : EntryReport) (skipped : Nat) (depth : Bool)
include stands action

theorem State.findOccasion_reportToAction (found : s.findOccasion c.occasion = some o) (h : Handle) :
    (s.reportToAction k j n r skipped depth).findOccasion h
      = if h = c.occasion then some { o with outcome := o.outcome.set j (r.told skipped depth) } else s.findOccasion h := by
  cases r with
  | queued =>
    have same (g : Handle) : (s.setPhase k j (.active (.entry n))).findOccasion g = s.findOccasion g :=
      State.findOccasion_setPhase s k j _ g
    have stands' := (State.context_setPhase stands action (.active (.entry n)) k).trans (if_pos rfl)
    exact (State.findOccasion_setOutcome stands' ((same _).trans found) j _ h).trans (if_congr Iff.rfl rfl (same h))
  | started => exact State.findOccasion_setOutcome stands found j _ h
  | _ => exact State.findOccasion_finishAction stands found j _ h

theorem State.context_reportToAction (m : Nat) : (s.reportToAction k j n r skipped depth).context m
    = if k = m then some { c with actions := c.actions.set j { a with phase := r.phaseTold n a.phase } } else s.context m := by
  cases r with
  | queued => exact (State.setOutcome_context _ k j _ m).trans (State.context_setPhase stands action _ m)
  | started =>
    have same : c.actions.set j { a with phase := a.phase } = c.actions := by
      obtain ⟨lt, rfl⟩ := List.getElem?_eq_some_iff.1 action
      exact List.set_getElem_self lt
    refine (State.setOutcome_context s k j _ m).trans ?_
    rw [EntryReport.phaseTold, same]
    split
    next e => rw [← e, stands]
    next => rfl
  | _ => exact State.context_finishAction stands action _ m

end

/-- R135: a report whose outcome reads REFUSED or SKIPPED raises OCCASION OUTCOME. -/
theorem State.reportToAction_flags (stands : s.context k = some c) (found : s.findOccasion c.occasion = some o) (n : Nat)
    {r : EntryReport} (raised : r = .refusedFull ∨ r = .expired ∨ r = .preEmptedDropped) (skipped : Nat) (depth : Bool) :
    (s.reportToAction k j n r skipped depth).link.flags.getLsbD 5 = true ∧
      (s.reportToAction k j n r skipped depth).link.fresh.getLsbD 5 = true := by
  rcases raised with rfl | rfl | rfl
  · exact State.finishAction_flags stands found j (.inl rfl)
  · exact State.finishAction_flags stands found j (.inr rfl)
  · exact State.finishAction_flags stands found j (.inr rfl)

/-- R135: no other report does. -/
theorem State.reportToAction_link (s : State) (k j n : Nat) {r : EntryReport}
    (calm : r = .queued ∨ r = .started ∨ r = .done ∨ r = .stopped) (skipped : Nat) (depth : Bool) :
    (s.reportToAction k j n r skipped depth).link = s.link := by
  rcases calm with rfl | rfl | rfl | rfl
  · exact (State.setOutcome_link _ k j rfl).trans (s.setPhase_link k j _)
  · exact s.setOutcome_link k j rfl
  · exact s.finishAction_link k j rfl
  · exact s.finishAction_link k j rfl

end Sys2Proof.Machine
end

section
/-! The end of a performance and the dequeue that follows it (R91, R95, R102, R105). -/

namespace Sys2Proof.Machine

variable {s t : State} {x y : Entry} {rest : List Entry}

/-! ## The dequeue (R91) -/

theorem State.dequeue_performing {p : Performance} (plays : s.chime.performance = some p) : s.dequeue = s := by
  unfold State.dequeue
  rw [plays]

theorem State.dequeue_none (none : s.chime.performance = none) : s.dequeue = dequeueFrom s.chime.queue s := by
  unfold State.dequeue
  rw [none]

theorem State.dequeue_empty (empty : s.chime.queue = []) : s.dequeue = s := by
  cases plays : s.chime.performance with
  | some p => exact State.dequeue_performing plays
  | none =>
    rw [State.dequeue_none plays, empty, dequeueFrom, ← empty]

/-- The dequeue of a list of entries does not read the queue it stands in. -/
theorem dequeueFrom_withQueue (l q : List Entry) (s : State) : dequeueFrom l (s.withQueue q) = dequeueFrom l s := by
  induction l generalizing s with
  | nil => rfl
  | cons x rest ih =>
    unfold dequeueFrom
    rw [State.reportEntry_withQueue, State.dropEntryRef_withQueue, ih]
    rfl

theorem Entry.expired_iff (x : Entry) (now : Nat) : x.expired now = true ↔ ∃ m, x.expiry = some m ∧ m < now := by
  simp [Entry.expired, Option.any_eq_true]

theorem Entry.expired_eq_false {now : Nat} (current : ∀ m, x.expiry = some m → now ≤ m) : x.expired now = false :=
  Bool.eq_false_iff.2 fun expired => by
    obtain ⟨m, expiry, passed⟩ := (x.expired_iff now).1 expired
    exact Nat.not_le.2 passed (current m expiry)

section
variable (none : s.chime.performance = none) (queue : s.chime.queue = x :: rest)
include none queue

/-- R91: a head whose expiry has passed leaves, and the next is tested at the same moment. -/
theorem State.dequeue_expired (expired : x.expired s.time.standard = true) : s.dequeue
    = ((State.reportEntry { s with chime.queue := rest } x .expired).dropEntryRef x).dequeue := by
  have left : State.reportEntry { s with chime.queue := rest } x .expired = (s.reportEntry x .expired).withQueue rest :=
    s.reportEntry_withQueue rest x .expired 0 false
  rw [State.dequeue_none none, queue, dequeueFrom, if_pos expired, left, State.dropEntryRef_withQueue, State.dequeue_none
    (by rw [State.withQueue, State.dropEntryRef_chime, State.reportEntry_performance, none]), dequeueFrom_withQueue]
  rfl

/-- R91: a head that has not expired becomes the performance. -/
theorem State.dequeue_begins (current : x.expired s.time.standard = false) :
    s.dequeue = State.beginPerformance { s with chime.queue := rest } x := by
  rw [State.dequeue_none none, queue, dequeueFrom, if_neg (Bool.eq_false_iff.1 current)]

/-- R91, R94: what a COMMAND entry's STARTED changes is the performance alone. -/
theorem State.dequeue_command (current : x.expired s.time.standard = false) (command : x.source = .command) :
    s.dequeue = { s with chime.queue := rest, chime.performance := some (formPerformance x s.nowMs) } := by
  rw [State.dequeue_begins none queue current, State.beginPerformance, State.reportEntry_command command]
  exact ite_self _

/-- The same at the end of a command that changes nothing in the calendar. -/
theorem State.dequeue_command_settled {u : State} (settled : u.Settled) (calendar : s.calendar = u.calendar)
    (current : x.expired s.time.standard = false) (command : x.source = .command) : s.dequeue.settleContexts
      = { s with chime.queue := rest, chime.performance := some (formPerformance x s.nowMs) } := by
  rw [State.dequeue_command none queue current command]
  exact State.settleContexts_of_calendar settled calendar

end

/-! ## The end of a performance (R102, R105) -/

section
variable {p : Performance} (mains : s.time.power = .mains) (plays : s.chime.performance = some p) (dt : Nat)
include mains

theorem exec_endMoment : exec (.endMoment dt) s = .next (s.elapse dt).reachEnd.settleContexts := happen_mains dt mains

include plays

/-- R96: before the end moment nothing happens. -/
theorem exec_endMoment_early (settled : s.Settled)
    (early : p.ending = none ∨ (s.elapse dt).nowMs < p.nextSounding ∨ p.blows ≠ []) :
    exec (.endMoment dt) s = .next (s.elapse dt) := by
  have same : (s.elapse dt).reachEnd = s.elapse dt := by
    unfold State.reachEnd
    rw [show (s.elapse dt).chime.performance = some p from plays]
    dsimp only
    split
    · rfl
    · refine if_neg fun reached => ?_
      rcases early with playing | before | blows
      · simp_all
      · exact Nat.not_le.2 before reached.1
      · exact blows reached.2
  rw [exec_endMoment mains, same, State.settleContexts_of_calendar (t := s.elapse dt) settled rfl]

/-- R102: at the end moment the performance ends by its ending. -/
theorem exec_endMoment_ends {e : Ending} (reached : p.nextSounding ≤ (s.elapse dt).nowMs) (blows : p.blows = [])
    (ending : p.ending = some e) :
    exec (.endMoment dt) s = .next ((s.elapse dt).endPerformance p e).settleContexts := by
  have ends : (s.elapse dt).reachEnd = (s.elapse dt).endPerformance p e := by
    unfold State.reachEnd
    rw [show (s.elapse dt).chime.performance = some p from plays]
    dsimp only
    rw [ending]
    exact if_pos ⟨reached, blows⟩
  rw [exec_endMoment mains, ends]

end

theorem Entry.outranks_iff (a b : Entry) :
    a.outranks b = true ↔ b.priority < a.priority ∨ (b.priority = a.priority ∧ a.arrival < b.arrival) := by
  rw [Entry.outranks, Bool.or_eq_true, Bool.and_eq_true, decide_eq_true_eq, decide_eq_true_eq, beq_iff_eq, eq_comm (a := a.priority)]

theorem insertEntry_head {q : List Entry} (ahead : x.outranks y = true) : insertEntry (x :: q) y = x :: insertEntry q y := by
  rw [insertEntry, List.takeWhile_cons_of_pos (p := fun z : Entry => z.outranks y) ahead,
    List.dropWhile_cons_of_pos (p := fun z : Entry => z.outranks y) ahead, List.cons_append, insertEntry]

section
variable (full : 8 ≤ s.chime.queue.length) (lowest : loser s.chime.queue = some y)

theorem State.requeue_room (room : s.chime.queue.length < 8) :
    s.requeue x = { s with chime.queue := insertEntry s.chime.queue x } := if_pos room

include full lowest

/-- R105: the loser gives way to an entry that outranks it. -/
theorem State.requeue_displaces (outranks : x.outranks y = true) : s.requeue x =
    let left := s.chime.queue.filter fun z => z.number != y.number
    { (State.reportEntry { s with chime.queue := left } y .refusedFull).dropEntryRef y with chime.queue := insertEntry left x } := by
  refine (if_neg (Nat.not_lt.2 full)).trans ?_
  rw [lowest]
  exact (if_pos outranks).trans
    (congrArg (fun q => (s.displaceEntry y).withQueue (insertEntry q x)) (s.displaceEntry_queue y))

/-- R105: any other pre-empted entry is dropped. -/
theorem State.requeue_dropped (outranked : ¬x.outranks y = true) :
    s.requeue x = (s.reportEntry x .preEmptedDropped x.carried.1 x.carried.2).dropEntryRef x := by
  refine (if_neg (Nat.not_lt.2 full)).trans ?_
  rw [lowest]
  exact if_neg outranked

end

/-! ## What a report is to a COMMAND and to the Clock Program (R94, R117) -/

theorem State.reportToClock_started (source : ClockSource) (m : Nat) {r : EntryReport} (ended : r = .done ∨ r = .stopped) (n : Nat) :
    s.reportToClock source m r true n =
      { s with program.lastOutcome := some { source := source, mark := m, report := r, skipped := n } } := by
  rcases ended with rfl | rfl <;> rfl

/-- R117: the last report of an entry that had started is no miss. -/
theorem State.reportEntry_started {source : ClockSource} {m : Nat} {r : EntryReport} (started : x.started = true)
    (clock : (x.source = .quarter m ∧ source = .quarter) ∨ (x.source = .hour m ∧ source = .hour))
    (ended : r = .done ∨ r = .stopped) (skipped : Nat) (depth : Bool) : s.reportEntry x r skipped depth =
      { s with program.lastOutcome := some { source := source, mark := m, report := r, skipped := skipped } } := by
  unfold State.reportEntry
  rcases clock with ⟨e, rfl⟩ | ⟨e, rfl⟩
  · rw [e, started]
    exact State.reportToClock_started .quarter m ended skipped
  · rw [e, started]
    exact State.reportToClock_started .hour m ended skipped

/-! ## The end of an occasion's performance (R135, R136) -/

/-- R135: what the last report of an occasion's entry leaves of its action, its context and its occasion. -/
theorem State.reportEntry_reported {h : Handle} {k j : Nat} {c : Context} {a : ContextAction} {o : Occasion}
    (source : x.source = .occasion h k j) (undone : s.doneContext = none) (unwaited : s.firstWaiting = none)
    (stands : s.context k = some c) (action : c.actions[j]? = some a) (found : s.findOccasion c.occasion = some o)
    (r : EntryReport) (m : Nat) (d : Bool) :
    ActionReported k { c with actions := c.actions.set j { a with phase := r.phaseTold x.number a.phase } }
      { o with outcome := o.outcome.set j (r.told m d) } (s.reportEntry x r m d) := by
  rw [State.reportEntry_occasion source]
  have context (i : Nat) := State.context_reportToAction stands action x.number r m d i
  refine ⟨(s.reportToAction_held k j x.number r m d).unwaited unwaited, fun i other => ?_, (context k).trans (if_pos rfl),
    (State.findOccasion_reportToAction stands action x.number r m d found c.occasion).trans (if_pos rfl)⟩
  rw [context, if_neg (Ne.symm other)]
  exact State.doneContext_none_iff.1 undone i

/-- R136: the last report of the one action of a context frees it, and the occasion leaves it. -/
theorem State.reportEntry_frees {h : Handle} {k : Nat} {c : Context} {a : ContextAction} {o : Occasion} {z : Outcome}
    (source : x.source = .occasion h k 0) (undone : s.doneContext = none) (unwaited : s.firstWaiting = none)
    (stands : s.context k = some c) (one : c.actions = [a]) (found : s.findOccasion c.occasion = some o)
    (firing : o.state = .firing) (only : o.outcome = [z]) {r : EntryReport} (ended : r = .done ∨ r = .stopped) (m : Nat) (d : Bool)
    (same : t.calendar = (s.reportEntry x r m d).calendar) :
    t.settleContexts.context k = none ∧ t.settleContexts.findOccasion c.occasion = some
      { o with outcome := [r.told m d], context := none, state := if o.due.isSome then .armed else .spent } := by
  have reported := (State.reportEntry_reported source undone unwaited stands (by rw [one]; rfl) found r m d).of_calendar same
  have all : ∀ y ∈ c.actions.set 0 { a with phase := r.phaseTold x.number a.phase }, y.phase = .done := fun y mem => by
    rw [one, List.set_cons_zero, List.mem_singleton] at mem
    rcases ended with rfl | rfl <;> rw [mem] <;> rfl
  have freed := reported.settle_freed all firing
  rwa [only, List.set_cons_zero] at freed

/-! ## The end moment of each ending and source -/

/-- The state once its performance has ended. -/
def State.unperformed (s : State) : State := { s with chime.performance := none }

/-- The report of a performance that has come to an ending other than PRE-EMPTED. -/
def Ending.Reports (e : Option Ending) (r : EntryReport) : Prop := (e = some .done ∧ r = .done) ∨ (e = some .stopped ∧ r = .stopped)

theorem Ending.Reports.final {e : Option Ending} {r : EntryReport} (how : Ending.Reports e r) : r = .done ∨ r = .stopped :=
  how.imp And.right And.right

section
variable {p : Performance} {dt : Nat} (mains : s.time.power = .mains) (plays : s.chime.performance = some p)
  (reached : p.nextSounding ≤ (s.elapse dt).nowMs) (blows : p.blows = [])
include mains plays reached blows

/-- R102: DONE and STOPPED are reported and the reference is dropped. -/
theorem exec_endMoment_closes {r : EntryReport} (how : Ending.Reports p.ending r) : exec (.endMoment dt) s = .next
    (((s.elapse dt).unperformed.reportEntry p.entry r p.skipped p.depth).dropEntryRef p.entry).dequeue.settleContexts := by
  rcases how with ⟨ending, rfl⟩ | ⟨ending, rfl⟩ <;> rw [exec_endMoment_ends mains plays dt reached blows ending] <;> rfl

/-- R105: PRE-EMPTED goes back to the queue. -/
theorem exec_endMoment_requeues (preEmpted : p.ending = some .preEmpted) {t : State}
    (back : (s.elapse dt).unperformed.requeue p.requeued = t) : exec (.endMoment dt) s = .next t.dequeue.settleContexts := by
  rw [exec_endMoment_ends mains plays dt reached blows preEmpted, ← back]
  rfl

theorem exec_endMoment_closes_empty (empty : s.chime.queue = []) {r : EntryReport} (how : Ending.Reports p.ending r) :
    exec (.endMoment dt) s = .next
      (((s.elapse dt).unperformed.reportEntry p.entry r p.skipped p.depth).dropEntryRef p.entry).settleContexts := by
  rw [exec_endMoment_closes mains plays reached blows how, State.dequeue_empty]
  rw [State.dropEntryRef_chime, State.reportEntry_queue]
  exact empty

end

/-- Settles O41: the end of a performance by its ending, the dequeue, the performance an entry forms, the reports of each kind of
source, and the reference dropped. -/
theorem endMomentClosesThePerformance : Obligations.EndMomentClosesThePerformance := by
  unfold Obligations.EndMomentClosesThePerformance
  refine ⟨?ending, ?dequeue, ?formed, ?command, ?action, ?reference⟩
  case ending =>
    intro s dt p mains settled plays e alone ends ended
    have settle {t : State} (calendar : t.calendar = s.calendar) : t.settleContexts = t :=
      State.settleContexts_of_calendar settled calendar
    refine ⟨exec_endMoment_early mains plays dt settled, fun reached blows => ?byEnding, fun reached blows command => ?commanded,
      fun source m report reached blows empty started clock how => ?clock, ?occasion, ?preEmpted⟩
    case byEnding =>
      refine ⟨fun done => exec_endMoment_closes mains plays reached blows (.inl ⟨done, rfl⟩),
        fun stopped => exec_endMoment_closes mains plays reached blows (.inr ⟨stopped, rfl⟩), fun preEmpted => ?_⟩
      have requeues {t : State} (back : alone.requeue p.requeued = t) : ends t :=
        exec_endMoment_requeues mains plays reached blows preEmpted back
      intro back
      refine ⟨fun room => requeues (State.requeue_room room), fun x full lowest => ?_⟩
      intro outranks left
      have outranks_iff : p.requeued.outranks x = true ↔ outranks := Entry.outranks_iff p.requeued x
      refine ⟨fun yes => requeues (State.requeue_displaces (s := alone) full lowest (outranks_iff.2 yes)),
        fun no k resume => requeues ?_⟩
      have carried : p.requeued.carried = (k.skipped, k.depth) := by
        rw [Entry.carried, Performance.requeued, resume]
      rw [State.requeue_dropped (s := alone) full lowest fun yes => no (outranks_iff.1 yes), carried]
      rfl
    case commanded =>
      have last {r : EntryReport} (how : Ending.Reports p.ending r) : (s.elapse dt).unperformed.reportEntry p.entry r p.skipped p.depth
          = ended r := by
        rw [State.reportEntry_command command, if_pos (by rcases how.final with rfl | rfl <;> rfl)]
        rfl
      have kept (r : EntryReport) : ((ended r).dropEntryRef p.entry).calendar = s.calendar := State.dropEntryRef_calendar _ _
      have empties {r : EntryReport} (empty : s.chime.queue = []) (how : Ending.Reports p.ending r) :
          exec (.endMoment dt) s = .next ((ended r).dropEntryRef p.entry) := by
        rw [exec_endMoment_closes_empty mains plays reached blows empty how, last how, settle (kept r)]
      refine ⟨fun empty => ⟨fun done => empties empty (.inl ⟨done, rfl⟩), fun stopped => empties empty (.inr ⟨stopped, rfl⟩)⟩,
        fun x rest r queue fromCommand current how => ?_⟩
      have same := State.dropEntryRef_chime (ended r) p.entry
      rw [exec_endMoment_closes mains plays reached blows how, last how, State.dequeue_command_settled (x := x) (rest := rest)
        (same ▸ rfl) (same ▸ queue) settled (kept r) ?_ fromCommand, State.nowMs_of_clock (State.dropEntryRef_clock _ _)]
      · rfl
      · rw [State.dropEntryRef_time]
        exact Entry.expired_eq_false current
    case clock =>
      rw [exec_endMoment_closes_empty mains plays reached blows empty how, State.reportEntry_started started clock
        (Ending.Reports.final how)]
      exact congrArg Host.Outcome.next (settle (State.dropEntryRef_calendar _ _))
    case occasion =>
      intro h k c a o x outcome reached blows empty unwaited _ source stands one found firing only how
      have occasion {r : EntryReport} (ending : Ending.Reports p.ending r) (told : r.told p.skipped p.depth = outcome) : ∃ t,
          exec (.endMoment dt) s = .next t ∧ t.chime.performance = none ∧ t.context k = none ∧ t.findOccasion c.occasion
            = some { o with outcome := [outcome], context := none, state := if o.due.isSome then .armed else .spent } := by
        have calendar := State.dropEntryRef_calendar (e.unperformed.reportEntry p.entry r p.skipped p.depth) p.entry
        obtain ⟨freed, left⟩ := State.reportEntry_frees (s := e.unperformed) source settled.1 unwaited stands one found firing only
          ending.final p.skipped p.depth calendar
        rw [told] at left
        have waits := (State.reportEntry_held e.unperformed p.entry r p.skipped p.depth).trans (.of_calendar calendar)
        have kept := congrArg (fun t : State => t.chime.performance) (State.settleContexts_released (waits.unwaited unwaited)).frame
        refine ⟨_, exec_endMoment_closes_empty mains plays reached blows empty ending, kept.trans ?_, freed, left⟩
        rw [State.dropEntryRef_chime, State.reportEntry_performance]
        rfl
      rcases how with ⟨done, rfl⟩ | ⟨stopped, rfl⟩
      · exact occasion (.inl ⟨done, rfl⟩) rfl
      · exact occasion (.inr ⟨stopped, rfl⟩) rfl
    case preEmpted =>
      intro x rest reached blows preEmpted queue room outranked command unexpiring
      have small : s.chime.queue.length < 8 := by
        rw [queue, List.length_cons]
        omega
      have ahead : x.outranks p.requeued = true := (x.outranks_iff _).2 (.inl outranked)
      have queue' : insertEntry e.chime.queue p.requeued = x :: insertEntry rest p.requeued :=
        (congrArg (insertEntry · p.requeued) queue).trans (insertEntry_head ahead)
      have current : x.expired s.time.standard = false := Entry.expired_eq_false fun m expiry => by
        rw [unexpiring] at expiry
        cases expiry
      have dequeued := State.dequeue_command_settled (s := e.unperformed.withQueue (insertEntry e.chime.queue p.requeued)) rfl queue'
        settled rfl current command
      exact (exec_endMoment_requeues mains plays reached blows preEmpted (State.requeue_room small)).trans
        (congrArg Host.Outcome.next dequeued)
  case dequeue =>
    refine fun s => ⟨fun idle => ?_, fun x rest none queue => ?_⟩
    · rcases idle with plays | empty
      · obtain ⟨p, plays⟩ := Option.ne_none_iff_exists'.1 plays
        exact State.dequeue_performing plays
      · exact State.dequeue_empty empty
    · intro left begun
      refine ⟨fun m expiry passed => State.dequeue_expired none queue ((x.expired_iff _).2 ⟨m, expiry, passed⟩), fun current => ?_⟩
      have begins := State.dequeue_begins none queue (Entry.expired_eq_false current)
      refine ⟨fun started => begins.trans ?_, fun fresh => begins.trans ?_⟩
      · exact if_pos started
      · exact if_neg (Bool.eq_false_iff.1 fresh)
  case formed =>
    intro x now
    unfold formPerformance
    cases x.resume with
    | none => exact ⟨rfl, rfl, rfl, rfl, rfl, rfl, rfl, rfl, rfl, rfl, rfl,
        fun _ => ⟨fun h content => by rw [content]; rfl, rfl, rfl, rfl, rfl, rfl⟩, nofun⟩
    | some k => exact ⟨rfl, rfl, rfl, rfl, rfl, rfl, rfl, rfl, rfl, rfl, rfl, nofun,
        fun _ same => by cases same; exact ⟨rfl, rfl, rfl, rfl, rfl, rfl⟩⟩
  case command =>
    intro s x r skipped depth command
    rw [State.reportEntry_command command]
    refine ⟨fun notFinal => ?_, fun notQueued notStarted => if_pos ?_⟩
    · rcases notFinal with rfl | rfl <;> rfl
    · cases r <;> first | rfl | contradiction
  case action =>
    intro u x r skipped depth h k place c a o source _ stands action found notGone notNotLive t plain outcome phase
    have told : r.told skipped depth = outcome := by
      cases r <;> first | rfl | contradiction
    have phaseTold : r.phaseTold x.number a.phase = phase := by
      cases r <;> rfl
    have reported : t = u.reportToAction k place x.number r skipped depth := State.reportEntry_occasion source r skipped depth
    rw [reported]
    refine ⟨?_, ?_, fun raised => State.reportToAction_flags stands found x.number raised skipped depth,
      fun calm => u.reportToAction_link k place x.number calm skipped depth, State.reportToAction_chime .., ?_⟩
    · rw [State.findOccasion_reportToAction stands action x.number r skipped depth found, if_pos rfl, told]
    · rw [State.context_reportToAction stands action, if_pos rfl, phaseTold]
    · exact (congrArg State.tunes (u.reportToAction_onlyActions k place x.number r skipped depth) :)
  case reference =>
    intro u x
    refine ⟨fun bell blows interval velocity content => ?_, fun h content gone => ?_, fun h t content _ found => ?_⟩
    · unfold State.dropEntryRef
      rw [content]
      rfl
    · unfold State.dropEntryRef
      rw [content]
      exact State.dropRef_none gone
    · unfold State.dropEntryRef
      rw [content]
      exact ⟨State.dropRef_kept found, State.dropRef_freed found⟩

end Sys2Proof.Machine
end

section
/-! What the operations an action starts leave alone: those of the Floodlight Mixer (R153, R154, R162), and the ask of a motor run
(R171, R172). -/

namespace Sys2Proof.Machine

variable {s t u : State}

/-! ## The mixer -/

/-- What raising and lowering a scene can change: the mixer, record memory and the link. -/
abbrev State.OnlyMixer (s t : State) : Prop := t = { s with mixer := t.mixer, memory := t.memory, link := t.link }

theorem State.OnlyMixer.trans (h : s.OnlyMixer t) (k : t.OnlyMixer u) : s.OnlyMixer u :=
  Eq.trans k (congrArg (fun v : State => { v with mixer := u.mixer, memory := u.memory, link := u.link }) h)

theorem State.OnlyMixer.ite {p : Prop} [Decidable p] (h : s.OnlyMixer t) (k : s.OnlyMixer u) : s.OnlyMixer (if p then t else u) := by
  split
  · exact h
  · exact k

theorem State.leaveStack_onlyMixer (s : State) (h : Handle) : s.OnlyMixer (s.leaveStack h) := .ite rfl rfl

theorem State.addLayer_onlyMixer (s : State) (h : Handle) (x : Scene) : s.OnlyMixer (s.addLayer h x) := rfl

theorem State.raiseScene_onlyMixer (s : State) (h : Handle) : s.OnlyMixer (s.raiseScene h).1 := by
  unfold State.raiseScene
  split
  · rfl
  split
  · rfl
  split
  · split <;> rfl
  split
  · rfl
  split
  · exact (s.leaveStack_onlyMixer _).trans (State.addLayer_onlyMixer _ h _)
  split
  · exact (s.leaveStack_onlyMixer _).trans (State.addLayer_onlyMixer _ h _)
  · rfl

theorem State.lowerScene_onlyMixer (s : State) (h : Handle) : s.OnlyMixer (s.lowerScene h) := by
  unfold State.lowerScene
  split
  · rfl
  · exact .ite rfl rfl

theorem State.removeStanding_onlyMixer (s : State) (h : Handle) : s.OnlyMixer (s.removeStanding h) := .ite rfl rfl

theorem State.lowerAndRemove_onlyMixer (s : State) (h : Handle) : s.OnlyMixer (s.lowerAndRemove h) :=
  (s.lowerScene_onlyMixer h).trans (State.removeStanding_onlyMixer _ h)

theorem State.endStanding_onlyMixer (s : State) (y : StandingEntry) : s.OnlyMixer (s.endStanding y) :=
  (s.removeStanding_onlyMixer _).trans (State.lowerScene_onlyMixer _ _)

theorem State.removeCreatedBy_onlyMixer (s : State) (h : Handle) : s.OnlyMixer (s.removeCreatedBy h) := by
  have each (l : List StandingEntry) (s : State) : s.OnlyMixer (l.foldl (fun s e => s.endStanding e) s) := by
    induction l generalizing s with
    | nil => rfl
    | cons y l ih => exact (s.endStanding_onlyMixer y).trans (ih _)
  exact each _ s

theorem State.makeStanding_onlyMixer (s : State) (h : Handle) (x : Nat) (c : Creator) : s.OnlyMixer (s.makeStanding h x c).1 := by
  unfold State.makeStanding
  dsimp only
  split
  · rfl
  · split <;> rfl

/-! ## The ask of a run -/

/-- What an ask can change: the Feeder Account, and the bells whose asks it admits. -/
abbrev State.OnlyAsked (s t : State) : Prop := t = { s with bells := t.bells, feeder := t.feeder }

theorem admitHeads_onlyAsked (l : List Ask) (s : State) : s.OnlyAsked (admitHeads l s) := by
  induction l generalizing s with
  | nil => rfl
  | cons a rest ih =>
    unfold admitHeads
    split
    · exact (ih (s.admitAsk a) :)
    · rfl

theorem State.ask_onlyAsked (s : State) (b rating : Nat) : s.OnlyAsked (s.ask b rating) := by
  unfold State.ask
  dsimp only
  split
  · exact (admitHeads_onlyAsked _ _ :)
  · rfl

/-- What taking up a swing request can change. -/
abbrev State.OnlySwung (s t : State) : Prop := t =
  { s with bells := t.bells, feeder := t.feeder, calendar := t.calendar, memory := t.memory, link := t.link }

theorem State.acceptSwing_onlySwung (s : State) (b minutes : Nat) (x : MotorSource) : s.OnlySwung (s.acceptSwing b minutes x) := by
  unfold State.acceptSwing
  dsimp only
  split
  · rw [State.OnlySwung, State.ask_onlyAsked]
    rfl
  · rfl
  · split
    · rfl
    · cases x with
      | action k j =>
        unfold State.reportMotorStarted
        dsimp only
        rw [State.OnlySwung, State.setOutcome_frame]
        rfl
      | command => rfl

end Sys2Proof.Machine
end

section
/-! The performance goes on through arrivals, the start of actions and the settling of contexts: only its end moment ends it (R102). -/

namespace Sys2Proof.Machine

variable {s t u : State}

/-- The performance of `s`, where there is one, still plays the same entry in `t`. -/
def State.StillPlays (s t : State) : Prop :=
  ∀ p, s.chime.performance = some p → ∃ q, t.chime.performance = some q ∧ q.entry = p.entry

namespace State.StillPlays

theorem of_performance (same : t.chime.performance = s.chime.performance) : s.StillPlays t := fun p plays =>
  ⟨p, same.trans plays, rfl⟩

theorem of_chime (same : t.chime = s.chime) : s.StillPlays t := of_performance (congrArg ChimeSequencer.performance same)

theorem refl (s : State) : s.StillPlays s := of_chime rfl

theorem trans (h : s.StillPlays t) (k : t.StillPlays u) : s.StillPlays u := fun p plays => by
  obtain ⟨q, plays', same⟩ := h p plays
  obtain ⟨r, plays'', same'⟩ := k q plays'
  exact ⟨r, plays'', same'.trans same⟩

/-- `trans` with the later part first, from which the state in between is read. -/
theorem after (k : t.StillPlays u) (h : s.StillPlays t) : s.StillPlays u := h.trans k

theorem ite {c : Prop} [Decidable c] (h : s.StillPlays t) (k : s.StillPlays u) : s.StillPlays (if c then t else u) := by
  split
  · exact h
  · exact k

theorem foldl {α : Type} {act : State → α → State} (h : ∀ (s : State) (x : α), s.StillPlays (act s x)) (l : List α) (s : State) :
    s.StillPlays (l.foldl act s) := by
  induction l generalizing s with
  | nil => exact refl s
  | cons x l ih => exact (h s x).trans (ih _)

end State.StillPlays

/-! ## The sequencer -/

theorem State.reportEntry_stillPlays (s : State) (e : Entry) (r : EntryReport) (m : Nat) (d : Bool) :
    s.StillPlays (s.reportEntry e r m d) := .of_performance (s.reportEntry_performance e r m d)

theorem State.dropEntryRef_stillPlays (s : State) (e : Entry) : s.StillPlays (s.dropEntryRef e) := .of_chime (s.dropEntryRef_chime e)

theorem State.takeRef_chime (s : State) (h : Handle) : (s.takeRef h).chime = s.chime := by
  unfold State.takeRef
  split
  · rfl
  · exact s.setTune_chime _ _

theorem State.testPreemption_stillPlays (s : State) (e : Entry) : s.StillPlays (s.testPreemption e) := fun p plays => by
  unfold State.testPreemption
  rw [plays]
  dsimp only
  split
  · exact ⟨_, rfl, rfl⟩
  · exact ⟨p, plays, rfl⟩

theorem State.placeArrival_stillPlays (s : State) (e : Entry) : s.StillPlays (s.placeArrival e) := by
  unfold State.placeArrival
  dsimp only
  have reported := (State.reportEntry_stillPlays { s with chime.queue := insertEntry s.chime.queue e } e .queued 0 false)
  have placed : s.StillPlays _ := reported.after (.of_performance rfl)
  split
  next none =>
    intro p plays
    obtain ⟨q, plays', -⟩ := placed p plays
    rw [none] at plays'
    cases plays'
  next => exact placed.trans (State.testPreemption_stillPlays _ e)

theorem State.displaceEntry_stillPlays (s : State) (e : Entry) : s.StillPlays (s.displaceEntry e) :=
  (State.dropEntryRef_stillPlays _ e).after ((State.reportEntry_stillPlays _ e _ _ _).after (.of_performance rfl))

theorem State.settleArrival_stillPlays (s : State) (e : Entry) : s.StillPlays (s.settleArrival e).1 := by
  unfold State.settleArrival
  split
  · exact s.placeArrival_stillPlays e
  split
  · exact s.placeArrival_stillPlays e
  split
  · exact (s.displaceEntry_stillPlays _).trans (State.placeArrival_stillPlays _ e)
  · exact (s.reportEntry_stillPlays e _ _ _).trans (State.dropEntryRef_stillPlays _ e)

theorem State.admitArrival_fst (s : State) (e : Entry) : (s.admitArrival e).1 = (s.settleArrival e).1 := by
  unfold State.admitArrival
  split <;> rename_i eq <;> rw [eq]

theorem State.arrive_stillPlays (s : State) (e : Entry) : s.StillPlays (s.arrive e).1 := by
  have counted : s.StillPlays s.countArrival := .of_performance rfl
  have admitted (u : State) (x : Entry) : u.StillPlays (u.admitArrival x).1 := by
    rw [State.admitArrival_fst]
    exact u.settleArrival_stillPlays x
  unfold State.arrive
  dsimp only
  split
  · exact counted.trans (admitted _ _)
  split
  · exact counted.trans (State.reportEntry_stillPlays _ _ _ _ _)
  · exact (counted.trans (.of_chime (State.takeRef_chime _ _))).trans (admitted _ _)

theorem State.removeEntry_stillPlays (s : State) (e : Entry) : s.StillPlays (s.removeEntry e) :=
  (State.dropEntryRef_stillPlays _ e).after ((State.reportEntry_stillPlays _ e _ _ _).after (.of_performance rfl))

theorem State.silence_stillPlays (s : State) (minutes : Nat) : s.StillPlays (s.silence minutes) :=
  (State.StillPlays.foldl State.removeEntry_stillPlays _ _).after (.of_performance rfl)

/-! ## The start of actions (R132 to R134) -/

theorem State.finishAction_stillPlays (s : State) (k j : Nat) (x : Outcome) : s.StillPlays (s.finishAction k j x) :=
  .of_chime (s.finishAction_chime k j x)

theorem State.startPlay_stillPlays (s : State) (holds : Bool) (k j : Nat) (h : Handle) (e : Entry) :
    s.StillPlays (s.startPlay holds k j h e) :=
  .ite (s.arrive_stillPlays e) <|
    (State.finishAction_stillPlays _ k j _).after (.ite (.of_chime (s.dropRef_chime h)) (.refl s))

theorem State.startToll_stillPlays (s : State) (h : Handle) (k j b interval blows velocity : Nat) :
    s.StillPlays (s.startToll h k j b interval blows velocity) := by
  unfold State.startToll
  split
  · exact s.finishAction_stillPlays k j _
  next channel _ =>
    have active : s.StillPlays (s.setPhase k j (.active (.toll channel))) := .of_chime (s.setPhase_chime k j _)
    exact active.trans (.of_performance ((congrArg ChimeSequencer.performance (State.reportToAction_chime ..)).trans rfl))

theorem State.startSwingAction_stillPlays (s : State) (k j b minutes : Nat) : s.StillPlays (s.startSwingAction k j b minutes) := by
  unfold State.startSwingAction
  split
  · exact s.finishAction_stillPlays k j _
  · have active : s.StillPlays (s.setPhase k j (.active (.bell b))) := .of_chime (s.setPhase_chime k j _)
    exact active.trans (.of_chime (congrArg State.chime (State.acceptSwing_onlySwung _ b minutes _) :))

theorem State.OnlyMixer.stillPlays (h : s.OnlyMixer t) : s.StillPlays t := .of_chime (congrArg State.chime h :)

theorem State.sceneUp_stillPlays (s : State) (h : Handle) (k j : Nat) (scene : Handle) (hold : Nat) :
    s.StillPlays (s.sceneUp h k j scene hold) := by
  unfold State.sceneUp
  split
  · have raised := (s.raiseScene_onlyMixer scene).stillPlays
    split <;> rename_i eq <;> rw [eq] at raised
    · exact raised.trans ((State.makeStanding_onlyMixer ..).stillPlays.trans (State.finishAction_stillPlays _ k j _))
    all_goals exact raised.trans (State.finishAction_stillPlays _ k j _)
  · exact s.finishAction_stillPlays k j _

theorem State.sceneDown_stillPlays (s : State) (k j : Nat) (scene : Handle) : s.StillPlays (s.sceneDown k j scene) :=
  .ite ((s.lowerAndRemove_onlyMixer scene).stillPlays.trans (State.finishAction_stillPlays _ k j _))
    (s.finishAction_stillPlays k j _)

theorem State.startAction_stillPlays (s : State) (c : Context) (o : Occasion) (k j : Nat) (a : ContextAction) (holds : Bool) :
    s.StillPlays (s.startAction c o k j a holds) := by
  unfold State.startAction
  cases a.kind with
  | play h transposition repeats yields => exact s.startPlay_stillPlays _ k j _ _
  | toll b interval blows velocity => exact s.startToll_stillPlays _ k j _ _ _ _
  | swing b minutes => exact s.startSwingAction_stillPlays k j _ _
  | sceneUp scene hold => exact s.sceneUp_stillPlays _ k j _ _
  | sceneDown scene => exact s.sceneDown_stillPlays k j _
  | silence minutes => exact (s.silence_stillPlays _).trans (State.finishAction_stillPlays _ k j _)

theorem State.startIfDue_stillPlays (s : State) (k j : Nat) : s.StillPlays (s.startIfDue k j) := by
  unfold State.startIfDue
  split
  · exact .refl s
  split
  · split
    · exact .ite (s.startAction_stillPlays _ _ k j _ _) (.refl s)
    · exact .refl s
    · exact .refl s
  · exact .refl s

/-! ## Firing, and the settling of contexts (R129, R130, R136) -/

theorem takeActions_chime (due : Nat) (l : List Action) (s : State) : (takeActions due l s).1.chime = s.chime := by
  induction l generalizing s with
  | nil => rfl
  | cons a rest ih =>
    refine (ih _).trans ?_
    split
    · split
      · exact s.takeRef_chime _
      · rfl
    · rfl

theorem State.fire_stillPlays (s : State) (i k : Nat) (o : Occasion) (due : Nat) : s.StillPlays (s.fire i k o due) := by
  unfold State.fire
  refine (State.StillPlays.foldl (fun s j => s.startIfDue_stillPlays k j) _ _).after (.of_chime ?_)
  exact (State.putOccasion_chime ..).trans (takeActions_chime due o.config.actions s)

theorem State.leaveContext_chime (s : State) (h : Handle) : (s.leaveContext h).chime = s.chime := by
  unfold State.leaveContext
  split
  · rfl
  split
  · rfl
  all_goals exact s.putOccasion_chime _ _

theorem State.releaseContext_chime (s : State) (k : Nat) : (s.releaseContext k).chime = s.chime := by
  unfold State.releaseContext
  split
  · rfl
  · exact State.leaveContext_chime _ _

theorem State.offerContext_stillPlays (s : State) (k : Nat) : s.StillPlays (s.offerContext k) := by
  unfold State.offerContext
  split
  · exact .refl s
  refine .ite (.of_chime (s.putOccasion_chime _ _)) ?_
  split
  · exact s.fire_stillPlays _ k _ _
  · exact .refl s

theorem settleLoop_stillPlays (fuel : Nat) (s : State) : s.StillPlays (settleLoop fuel s) := by
  induction fuel generalizing s with
  | zero => exact .refl s
  | succ fuel ih =>
    unfold settleLoop
    split
    · exact (State.StillPlays.of_chime (s.releaseContext_chime _)).trans (ih _)
    split
    · exact (s.offerContext_stillPlays _).trans (ih _)
    · exact .refl s

theorem State.settleContexts_stillPlays (s : State) : s.StillPlays s.settleContexts := settleLoop_stillPlays _ s

end Sys2Proof.Machine
end

section
/-! What becomes of an entry that arrives (R89, R92, R93, R104), by the queue and the performance it meets. -/

namespace Sys2Proof.Machine

variable {s t : State} {x y offered : Entry} {h : Handle} {z : Tune} {p : Performance}

/-! ## The reference an arrival takes (R81, R89) -/

theorem State.tuneSlot_named (found : s.findTune h = some z) : s.tuneSlot h.slot = { gen := h.gen, record := some z } := by
  rw [State.findTune_gen found, ← State.findTune_record found]

/-- R81, R82: a reference to a LIVE tune that is taken and dropped again leaves the library as it was. -/
theorem State.dropRef_takeRef (found : s.findTune h = some z) (live : z.state = .live) : (s.takeRef h).dropRef h = s := by
  have taken : (s.takeRef h).findTune h = some { z with refs := z.refs + 1 } := (State.findTune_takeRef found h).trans (if_pos rfl)
  have kept : z.state ≠ .retiring := by rw [live]; nofun
  rw [State.dropRef_kept taken (.inl kept), State.takeRef_named found, Nat.add_sub_cancel, ← State.tuneSlot_named found,
    State.setTuneSlot, State.setTuneSlot, Vector.setIfInBounds_setIfInBounds]
  exact congrArg (fun v => { s with tunes := { s.tunes with slots := v } }) (setIfInBounds_getD s.tunes.slots h.slot ⟨0, none⟩)

/-! ## Placing (R92, R104) -/

theorem State.testPreemption_plays (plays : s.chime.performance = some p) : s.testPreemption x = { s with
    chime.performance := some (if p.ending = none ∧ p.entry.priority < x.priority ∧ p.entry.yields = true then
      { p with preemptPending := true } else p) } := by
  unfold State.testPreemption
  rw [plays]
  dsimp only
  split
  · rfl
  · rw [← plays]

/-- R92, R104: beside a performance the arrival is queued and tested for pre-emption. -/
theorem State.placeArrival_plays (plays : s.chime.performance = some p) : s.placeArrival x =
    { (State.reportEntry { s with chime.queue := insertEntry s.chime.queue x } x .queued) with
      chime.performance := some (if p.ending = none ∧ p.entry.priority < x.priority ∧ p.entry.yields = true then
        { p with preemptPending := true } else p) } := by
  have plays' : (State.reportEntry { s with chime.queue := insertEntry s.chime.queue x } x .queued).chime.performance = some p :=
    (State.reportEntry_performance ..).trans plays
  unfold State.placeArrival
  dsimp only
  rw [plays']
  exact State.testPreemption_plays plays'

/-- R91, R92: where nothing plays or waits the arrival is dequeued at once. -/
theorem State.placeArrival_idle (none : s.chime.performance = none) (empty : s.chime.queue = []) : s.placeArrival x =
    (State.reportEntry { s with chime.queue := [x] } x .queued).dequeue := by
  unfold State.placeArrival
  dsimp only
  rw [State.reportEntry_performance, empty]
  dsimp only
  rw [none]
  rfl

/-! ## Admission (R92, R93) -/

theorem State.admitArrival_placed (settled : s.settleArrival x = (t, true)) : s.admitArrival x = (t, .placed x.number) := by
  unfold State.admitArrival
  rw [settled]

theorem State.admitArrival_room (room : s.chime.queue.length < 8) : s.admitArrival x = (s.placeArrival x, .placed x.number) :=
  State.admitArrival_placed (if_pos room)

section
variable (full : 8 ≤ s.chime.queue.length) (lowest : loser s.chime.queue = some y)
include full lowest

/-- R93: an arrival that outranks the loser of a full queue takes its place. -/
theorem State.admitArrival_displaces (outranks : x.outranks y = true) :
    s.admitArrival x = ((s.displaceEntry y).placeArrival x, .placed x.number) := by
  refine State.admitArrival_placed ((if_neg (Nat.not_lt.2 full)).trans ?_)
  rw [lowest]
  exact if_pos outranks

/-- R93: any other is refused. -/
theorem State.admitArrival_refused (outranked : ¬x.outranks y = true) :
    s.admitArrival x = ((s.reportEntry x .refusedFull).dropEntryRef x, .refused .refusedFull) := by
  have settled : s.settleArrival x = ((s.reportEntry x .refusedFull).dropEntryRef x, false) := by
    refine (if_neg (Nat.not_lt.2 full)).trans ?_
    rw [lowest]
    exact if_neg outranked
  unfold State.admitArrival
  rw [settled]

end

/-! ## Arrival (R89) -/

section
variable (taken : (s.numberArrival offered).taken = some h)
include taken

theorem State.arrive_refused {r : EntryReport} (refusal : s.countArrival.takeRefusal h = some r) :
    s.arrive offered = (s.countArrival.reportEntry (s.numberArrival offered) r, .refused r) := by
  unfold State.arrive
  dsimp only
  rw [taken]
  dsimp only
  rw [refusal]

theorem State.arrive_takes (found : s.findTune h = some z) (live : z.state = .live) :
    s.arrive offered = (s.countArrival.takeRef h).admitArrival (s.numberArrival offered) := by
  have granted : s.countArrival.takeRefusal h = none := (State.takeRefusal_named (s := s.countArrival) found).trans (if_pos live)
  unfold State.arrive
  dsimp only
  rw [taken]
  dsimp only
  rw [granted]

end

/-- R89: an occasion's entry brings its reference with it. -/
theorem State.arrive_withReference (taken : (s.numberArrival offered).taken = none) :
    s.arrive offered = s.countArrival.admitArrival (s.numberArrival offered) := by
  unfold State.arrive
  dsimp only
  rw [taken]

/-- R93: the entry displaced leaves the queue before the arrival is placed. -/
theorem State.displaceEntry_placeArrival_command (plays : s.chime.performance = some p) (command : x.source = .command) :
    (s.displaceEntry y).placeArrival x = { s.displaceEntry y with
      chime.queue := insertEntry (s.chime.queue.filter fun z => z.number != y.number) x
      chime.performance := some (if p.ending = none ∧ p.entry.priority < x.priority ∧ p.entry.yields = true then
        { p with preemptPending := true } else p) } := by
  have plays' : (s.displaceEntry y).chime.performance = some p := by
    rw [State.displaceEntry, State.dropEntryRef_chime, State.reportEntry_performance]
    exact plays
  rw [State.placeArrival_plays plays', State.reportEntry_command command, State.displaceEntry_queue]
  rfl

end Sys2Proof.Machine
end

section
/-! PLAY: an entry of the host's offered to the Chime Sequencer (R89 to R93, R104). -/

namespace Sys2Proof.Machine

variable {s t : State} {n : Nat} {h : Handle} {transposition : Int} {repeats priority : Nat} {yields : Bool} {p : Performance}

/-! ## The answer -/

theorem State.isPlaying_iff (s : State) (n : Nat) : s.isPlaying n = true ↔ ∃ p, s.chime.performance = some p ∧ p.entry.number = n := by
  simp [State.isPlaying, Option.any_eq_true]

/-- The performance of another entry goes on through the settling of contexts. -/
theorem State.isPlaying_settled (plays : s.chime.performance = some p) (other : p.entry.number ≠ n) :
    s.settleContexts.isPlaying n = false := Bool.eq_false_iff.2 fun playing => by
  obtain ⟨q, plays', same⟩ := s.settleContexts_stillPlays p plays
  obtain ⟨r, plays'', number⟩ := (State.isPlaying_iff _ n).1 playing
  rw [plays'] at plays''
  cases plays''
  exact other (same ▸ number)

theorem playFields_iff (h : Handle) (transposition : Int) (repeats priority : Nat) :
    (handleInRange h Config.tunes ∧ playOk transposition repeats priority) ↔
      h.slot < 64 ∧ 1 ≤ h.gen ∧ h.gen ≤ 255 ∧ -16 ≤ transposition ∧ transposition ≤ 16 ∧ repeats ≤ 99 ∧ priority ≤ 7 := by
  simp only [handleInRange, playOk, Config.tunes, Bool.and_eq_true, decide_eq_true_eq]
  tauto

/-- The entry PLAY offers. -/
abbrev playOffer (h : Handle) (transposition : Int) (repeats priority : Nat) (yields : Bool) : Entry :=
  offer .command (.tune h) transposition repeats priority yields none 0

section
variable (fields : handleInRange h Config.tunes ∧ playOk transposition repeats priority)
include fields

theorem State.workPlay_refused {r : EntryReport}
    (refused : s.arrive (playOffer h transposition repeats priority yields) = (t, .refused r)) :
    s.workPlay h transposition repeats priority yields = t.settleContexts.answer (reply (arrivalStatus r) h.slot h.gen) := by
  unfold State.workPlay
  rw [if_pos fields, refused]

theorem State.workPlay_placed (placed : s.arrive (playOffer h transposition repeats priority yields) = (t, .placed n)) :
    s.workPlay h transposition repeats priority yields
      = t.settleContexts.answer (reply .done h.slot h.gen (u16 n ++ u8 (if t.settleContexts.isPlaying n then 0 else 1))) := by
  unfold State.workPlay
  rw [if_pos fields, placed]

end

/-- R91, R92, R95: with nothing playing or waiting the entry of a COMMAND is the performance at once. -/
theorem State.placeArrival_command_idle {x : Entry} (none : s.chime.performance = none) (empty : s.chime.queue = [])
    (command : x.source = .command) (unexpiring : x.expiry = .none) :
    s.placeArrival x = { s with chime.performance := some (formPerformance x s.nowMs) } := by
  have current : x.expired s.time.standard = false := Entry.expired_eq_false fun m expiry => by
    rw [unexpiring] at expiry
    cases expiry
  rw [State.placeArrival_idle none empty, State.reportEntry_command command]
  refine (State.dequeue_command (s := { s with chime.queue := [x] }) none rfl current command).trans ?_
  exact congrArg (fun q => { s with chime.queue := q, chime.performance := some (formPerformance x s.nowMs) }) empty.symm

theorem State.placeArrival_command_plays {x : Entry} (plays : s.chime.performance = some p) (command : x.source = .command) :
    s.placeArrival x = { s with
      chime.queue := insertEntry s.chime.queue x
      chime.performance := some (if p.ending = none ∧ p.entry.priority < x.priority ∧ p.entry.yields = true then
        { p with preemptPending := true } else p) } := by
  rw [State.placeArrival_plays plays, State.reportEntry_command command]
  rfl

/-- R81, R93: the reference of an arrival that a full queue refuses is dropped again. -/
theorem State.refuseArrival_command {x : Entry} {z : Tune} (command : x.source = .command) (content : x.content = .tune h)
    (found : s.findTune h = some z) (live : z.state = .live) : ((s.takeRef h).reportEntry x .refusedFull).dropEntryRef x =
      { s with chime.lastOutcome := some { what := .entry x.number, report := .refusedFull, skipped := 0, depth := false } } := by
  let u : State :=
    { s with chime.lastOutcome := some { what := .entry x.number, report := .refusedFull, skipped := 0, depth := false } }
  have told : (s.takeRef h).reportEntry x .refusedFull = u.takeRef h := by
    rw [State.reportEntry_command command, State.takeRef_named found, State.takeRef_named (s := u) found]
    rfl
  rw [told, State.dropEntryRef, content]
  exact State.dropRef_takeRef (s := u) found live

/-- Settles O39: the fields, the tune, and then the queue and the performance the entry meets. -/
theorem playOffersAnEntry : Obligations.PlayOffersAnEntry := by
  unfold Obligations.PlayOffersAnEntry
  intro s dt h transposition repeats priority yields ready settled e w run n counted entry playing failed refs fields
  have runs {t : State} (worked : w.workPlay h transposition repeats priority yields = t) : run = .next t :=
    exec_ready ready (.play h transposition repeats priority yields) worked
  have settle {t : State} (calendar : t.calendar = s.calendar) : t.settleContexts = t :=
    State.settleContexts_of_calendar settled calendar
  have valid (ok : fields) : handleInRange h Config.tunes ∧ playOk transposition repeats priority :=
    (playFields_iff h transposition repeats priority).2 ok
  have refusedAtOnce {r : EntryReport} (ok : fields) (refusal : s.takeRefusal h = some r) (final : r.isFinal = true) :
      run = .next ((failed r).answer (reply (arrivalStatus r) h.slot h.gen)) := by
    have arrives := State.arrive_refused (s := w) (offered := playOffer h transposition repeats priority yields) rfl refusal
    rw [State.reportEntry_command rfl, if_pos final] at arrives
    refine (runs (State.workPlay_refused (valid ok) arrives)).trans ?_
    exact congrArg (fun u : State => Host.Outcome.next (u.answer (reply (arrivalStatus r) h.slot h.gen))) (settle rfl)
  refine ⟨fun invalid => ?_, fun ok gone => refusedAtOnce ok (State.takeRefusal_none gone) rfl, fun t ok found =>
    ⟨fun notLive => refusedAtOnce ok ((State.takeRefusal_named found).trans (if_neg notLive)) rfl, ?_⟩⟩
  · exact runs (if_neg fun ok => invalid ((playFields_iff h transposition repeats priority).1 ok))
  have arrives (live : t.state = .live) : w.arrive (playOffer h transposition repeats priority yields) = (refs t).admitArrival entry :=
    (State.arrive_takes (s := w) rfl found live).trans
      (congrArg (fun u : State => u.admitArrival entry) (State.takeRef_named (s := counted) found))
  have answered {u : State} (live : t.state = .live) (placed : (refs t).admitArrival entry = (u, .placed n)) :
      run = .next (u.settleContexts.answer (reply .done h.slot h.gen
        (u16 n ++ u8 (if u.settleContexts.isPlaying n then 0 else 1)))) :=
    runs (State.workPlay_placed (valid ok) ((arrives live).trans placed))
  have answeredAtOnce {u : State} {b : Bool} (live : t.state = .live) (placed : (refs t).admitArrival entry = (u, .placed n))
      (calendar : u.calendar = s.calendar) (plays : u.isPlaying n = b) :
      run = .next (u.answer (reply .done h.slot h.gen (u16 n ++ u8 (if b then 0 else 1)))) := by
    have done := answered live placed
    rwa [settle calendar, plays] at done
  refine ⟨fun live none empty => ?idle, fun p live plays room other => ?queued, fun p x live plays full lowest => ⟨?displaces, ?refused⟩⟩
  case idle =>
    have room : (refs t).chime.queue.length < 8 := by
      rw [show (refs t).chime.queue = [] from empty]
      exact Nat.zero_lt_succ 7
    have placed : (refs t).admitArrival entry = ({ refs t with chime.performance := some playing }, .placed n) :=
      (State.admitArrival_room room).trans (congrArg (·, Arrival.placed n) (State.placeArrival_command_idle none empty rfl rfl))
    exact answeredAtOnce live placed rfl ((State.isPlaying_iff _ n).2 ⟨playing, rfl, rfl⟩)
  case queued =>
    have placed := (State.admitArrival_room (x := entry) (s := refs t) room).trans
      (congrArg (·, Arrival.placed n) (State.placeArrival_command_plays (s := refs t) plays rfl))
    refine answeredAtOnce (b := false) live placed rfl ?_
    refine Bool.eq_false_iff.2 fun playing => ?_
    obtain ⟨q, plays', number⟩ := (State.isPlaying_iff _ n).1 playing
    cases plays'
    split at number <;> exact other number
  case displaces =>
    intro higher other left dropped placed
    have outranks : entry.outranks x = true := (Entry.outranks_iff entry x).2 (.inl higher)
    have displaced := (State.admitArrival_displaces (s := refs t) full lowest outranks).trans
      (congrArg (·, Arrival.placed n) (State.displaceEntry_placeArrival_command (s := refs t) plays rfl))
    have done : run = .next (placed.settleContexts.answer (reply .done h.slot h.gen (u16 n ++ u8 1))) := by
      have done := answered live displaced
      rwa [State.isPlaying_settled rfl (by split <;> exact other)] at done
    refine ⟨done, fun command => ⟨_, done, rfl, ?_⟩⟩
    have told : dropped = State.dropEntryRef { refs t with
        chime.queue := left
        chime.lastOutcome := some { what := .entry x.number, report := .refusedFull, skipped := 0, depth := false } } x :=
      congrArg (State.dropEntryRef · x) ((State.reportEntry_command command .refusedFull 0 false).trans (if_pos rfl))
    have calendar : placed.calendar = s.calendar := (congrArg State.calendar told).trans (State.dropEntryRef_calendar _ x)
    have outcome : dropped.chime.lastOutcome
        = some { what := .entry x.number, report := .refusedFull, skipped := 0, depth := false } := by
      rw [told, State.dropEntryRef_chime]
    rw [settle calendar]
    exact ⟨rfl, outcome⟩
  case refused =>
    intro lower earlier
    have outranked : ¬entry.outranks x = true := fun outranks =>
      ((Entry.outranks_iff entry x).1 outranks).elim (fun higher => Nat.not_lt.2 lower higher) fun equal =>
        Nat.not_lt.2 earlier (Nat.lt_of_succ_lt equal.2)
    have refused := (arrives live).trans (State.admitArrival_refused (s := refs t) full lowest outranked)
    have back : ((refs t).reportEntry entry .refusedFull).dropEntryRef entry = failed .refusedFull := by
      rw [show refs t = counted.takeRef h from (State.takeRef_named (s := counted) found).symm]
      exact State.refuseArrival_command (s := counted) rfl rfl found live
    rw [back] at refused
    refine (runs (State.workPlay_refused (valid ok) refused)).trans ?_
    exact congrArg (fun u : State => Host.Outcome.next (u.answer (reply .full h.slot h.gen))) (settle rfl)

end Sys2Proof.Machine
end

section
/-! Repeated drops of references to a tune (R82), and the lowering of scenes by an occasion that ends (R139, R154). -/

namespace Sys2Proof.Machine

variable {s t u : State} {g h : Handle} {x : Tune} {n : Nat}

/-! ## References dropped one after the other -/

/-- R82: what is left of a tune once `n` of its references have been dropped. -/
def Tune.afterDrops (x : Tune) (n : Nat) : Option Tune :=
  if 0 < n ∧ x.state = .retiring ∧ x.refs ≤ n then none else some { x with refs := x.refs - n }

theorem Tune.afterDrops_zero (x : Tune) : x.afterDrops 0 = some x := if_neg fun h => Nat.lt_irrefl 0 h.1

theorem State.findTune_dropRef_other (other : g ≠ h) : (s.dropRef h).findTune g = s.findTune g := by
  cases found : s.findTune h with
  | none => rw [State.dropRef_none found]
  | some y => exact (State.findTune_dropRef found g).trans (if_neg other)

/-- R82: one more reference dropped, of this tune or of another. -/
theorem State.findTune_dropRef_again (found : s.findTune g = x.afterDrops n) (h : Handle) :
    (s.dropRef h).findTune g = x.afterDrops (n + if h = g then 1 else 0) := by
  by_cases same : h = g
  · rw [if_pos same]
    subst same
    by_cases freed : 0 < n ∧ x.state = .retiring ∧ x.refs ≤ n
    · have gone : s.findTune h = none := found.trans (if_pos freed)
      rw [State.dropRef_none gone, gone]
      exact (if_pos ⟨Nat.succ_pos n, freed.2.1, Nat.le_succ_of_le freed.2.2⟩).symm
    · have kept : s.findTune h = some { x with refs := x.refs - n } := found.trans (if_neg freed)
      rw [State.findTune_dropRef kept, if_pos rfl, Tune.afterDrops]
      have last : (x.state = .retiring ∧ x.refs - n ≤ 1) ↔ (0 < n + 1 ∧ x.state = .retiring ∧ x.refs ≤ n + 1) := by
        rw [Nat.sub_le_iff_le_add, Nat.add_comm 1 n]
        exact (and_iff_right (Nat.succ_pos n)).symm
      exact if_congr last rfl (by rw [Nat.sub_sub])
  · rw [if_neg same, State.findTune_dropRef_other (Ne.symm same), found, Nat.add_zero]

/-! ## Scenes lowered (R154) -/

/-- The layers of the scenes that `p` names are fading out, and the other layers are as they were. -/
structure Lowered (p : Handle → Prop) (s t : State) : Prop where
  scenes : t.mixer.layers.map (·.scene) = s.mixer.layers.map (·.scene)
  target : ∀ l ∈ t.mixer.layers, p l.scene → l.target = 0
  kept : ∀ l ∈ s.mixer.layers, ¬p l.scene → l ∈ t.mixer.layers
  others : ∀ l ∈ t.mixer.layers, ¬p l.scene → l ∈ s.mixer.layers

namespace Lowered

variable {p q : Handle → Prop}

theorem of_layers (same : t.mixer.layers = s.mixer.layers) : Lowered (fun _ => False) s t :=
  ⟨by rw [same], fun _ _ no => no.elim, fun l mem _ => same ▸ mem, fun l mem _ => same ▸ mem⟩

theorem trans (a : Lowered p s t) (b : Lowered q t u) : Lowered (fun h => p h ∨ q h) s u where
  scenes := b.scenes.trans a.scenes
  target l mem lowered := by
    by_cases now : q l.scene
    · exact b.target l mem now
    · exact a.target l (b.others l mem now) (lowered.resolve_right now)
  kept l mem no := b.kept l (a.kept l mem fun yes => no (.inl yes)) fun yes => no (.inr yes)
  others l mem no := a.others l (b.others l mem fun yes => no (.inr yes)) fun yes => no (.inl yes)

theorem congr (a : Lowered p s t) (same : ∀ h, p h ↔ q h) : Lowered q s t := by
  rwa [show q = p from funext fun h => propext (same h).symm]

end Lowered

/-- In a stack that holds no scene twice, a lower leaves its scene's layer fading out. -/
theorem State.lowerScene_lowered (unique : (s.mixer.layers.map (·.scene)).Nodup) (h : Handle) :
    Lowered (fun g => g = h) s (s.lowerScene h) := by
  have same_layer : ∀ a ∈ s.mixer.layers, ∀ b ∈ s.mixer.layers, a.scene = b.scene → a = b := fun a ha b hb =>
    List.inj_on_of_nodup_map unique ha hb
  unfold State.lowerScene
  cases first : s.mixer.layers.find? (fun l => l.scene = h) with
  | none =>
    have none_of (l : Layer) (mem : l ∈ s.mixer.layers) : l.scene ≠ h := by
      simpa using List.find?_eq_none.1 first l mem
    exact ⟨rfl, fun l mem same => absurd same (none_of l mem), fun _ mem _ => mem, fun _ mem _ => mem⟩
  | some y =>
    have mem := List.mem_of_find?_eq_some first
    have scene : y.scene = h := by simpa using List.find?_some first
    dsimp only
    split
    next faded =>
      refine ⟨rfl, fun l mem' same => ?_, fun _ mem _ => mem, fun _ mem _ => mem⟩
      rw [same_layer l mem' y mem (same.trans scene.symm), faded]
    next =>
      unfold State.turnFade
      dsimp only
      refine ⟨?_, fun l mem' same => ?_, fun l mem' other => ?_, fun l mem' other => ?_⟩
      · rw [List.map_map]
        refine List.map_congr_left fun l _ => ?_
        dsimp only [Function.comp]
        split <;> rfl
      · obtain ⟨z, -, rfl⟩ := List.mem_map.1 mem'
        split at same
        next => rw [if_pos ‹_›]
        next other => exact absurd same other
      · exact List.mem_map.2 ⟨l, mem', if_neg other⟩
      · obtain ⟨z, mem'', rfl⟩ := List.mem_map.1 mem'
        split at other
        next scene' => exact absurd scene' other
        next => rwa [if_neg ‹_›]

/-! ## Standing entries removed (R139, R162) -/

theorem State.removeStanding_standing (s : State) (h : Handle) :
    (s.removeStanding h).mixer.standing = s.mixer.standing.filter fun e => e.scene != h := by
  unfold State.removeStanding
  split
  · rfl
  next no => exact (List.filter_eq_self.2 fun e mem => by
      simp only [State.hasStanding, List.any_eq_true, beq_iff_eq, not_exists, not_and] at no
      simpa using no e mem).symm

theorem State.removeStanding_layers (s : State) (h : Handle) : (s.removeStanding h).mixer.layers = s.mixer.layers := by
  unfold State.removeStanding
  split <;> rfl

theorem State.lowerScene_standing (s : State) (h : Handle) : (s.lowerScene h).mixer.standing = s.mixer.standing := by
  unfold State.lowerScene
  split
  · rfl
  · dsimp only
    split <;> rfl

/-- R139: the standing entries of a list are removed and their scenes lowered. -/
theorem endStandings_lowered (l : List StandingEntry) (s : State) (unique : (s.mixer.layers.map (·.scene)).Nodup) :
    Lowered (fun g => ∃ y ∈ l, g = y.scene) s (l.foldl (fun s e => s.endStanding e) s) ∧
      (l.foldl (fun s e => s.endStanding e) s).mixer.standing
        = s.mixer.standing.filter fun e => !l.any fun y => e.scene == y.scene := by
  induction l generalizing s with
  | nil =>
    refine ⟨(Lowered.of_layers rfl).congr fun g => ⟨False.elim, nofun⟩, ?_⟩
    exact (List.filter_eq_self.2 fun _ _ => rfl).symm
  | cons y l ih =>
    have lowered : Lowered (fun g => g = y.scene) s (s.endStanding y) := by
      have removed := Lowered.of_layers (s.removeStanding_layers y.scene)
      exact (removed.trans (State.lowerScene_lowered (s.removeStanding_layers _ ▸ unique) y.scene)).congr fun g => by simp
    obtain ⟨rest, standing⟩ := ih (s.endStanding y) (lowered.scenes ▸ unique)
    refine ⟨(lowered.trans rest).congr fun g => by simp, ?_⟩
    rw [List.foldl_cons, standing, State.endStanding, State.lowerScene_standing, State.removeStanding_standing, List.filter_filter]
    refine List.filter_congr fun e _ => ?_
    rw [List.any_cons, Bool.not_or, Bool.and_comm]
    rfl

/-- R139: the standing entries an occasion created, and no others, are removed and their scenes lowered. -/
theorem State.removeCreatedBy_lowered (sound : s.ListsSound) (h : Handle) :
    Lowered (fun g => ∃ y ∈ s.mixer.standing, y.creator = .occasion h ∧ g = y.scene) s (s.removeCreatedBy h) ∧
      (s.removeCreatedBy h).mixer.standing = s.mixer.standing.filter fun y => y.creator != .occasion h := by
  obtain ⟨lowered, standing⟩ := endStandings_lowered (s.mixer.standing.filter fun e => e.creator == .occasion h) s sound.layerScenes
  refine ⟨lowered.congr fun g => ?_, standing.trans (List.filter_congr fun e mem => ?_)⟩
  · simp only [List.mem_filter, beq_iff_eq, and_assoc]
  · have same_entry (y : StandingEntry) (mem' : y ∈ s.mixer.standing) (same : e.scene = y.scene) : e = y :=
      List.inj_on_of_nodup_map sound.standingScenes mem mem' same
    have iff : ((s.mixer.standing.filter fun e => e.creator == .occasion h).any fun y => e.scene == y.scene) = true ↔
        e.creator = .occasion h := by
      simp only [List.any_eq_true, List.mem_filter, beq_iff_eq]
      exact ⟨fun ⟨y, ⟨mem', creator⟩, same⟩ => same_entry y mem' same ▸ creator, fun creator => ⟨e, ⟨mem, creator⟩, rfl⟩⟩
    by_cases creator : e.creator = .occasion h
    · rw [iff.2 creator, creator, bne_self_eq_false]
      rfl
    · rw [Bool.eq_false_iff.2 (mt iff.1 creator), bne_iff_ne.2 creator]
      rfl

end Sys2Proof.Machine
end

section
/-! An occasion that holds a context becomes RETIRING: what waits to start is cancelled and its references dropped (R138), the work
under way is ended (R139), and the context and the slot are freed once nothing is ACTIVE (R136). -/

namespace Sys2Proof.Machine

variable {s t u : State} {g h : Handle} {o z : Occasion} {i j n : Nat} {k c : Context} {a : ContextAction} {x : Tune}

theorem State.occasionSlot_named (found : s.findOccasion h = some o) : s.occasionSlot h.slot = { gen := h.gen, record := some o } := by
  obtain ⟨-, gen, record⟩ := State.findOccasion_named found
  rw [gen, ← record]

theorem State.finishAction_tunes (s : State) (k j : Nat) (x : Outcome) : (s.finishAction k j x).tunes = s.tunes :=
  (congrArg State.tunes (s.finishAction_onlyActions k j x) :)

/-! ## A context whose occasion retires -/

namespace ActionReported

/-- R135: one action of the context ends. -/
theorem finishAction (r : ActionReported i c z t) (action : c.actions[j]? = some a) (x : Outcome) :
    ActionReported i { c with actions := c.actions.set j { a with phase := .done } } { z with outcome := z.outcome.set j x }
      (t.finishAction i j x) := by
  have context (m : Nat) := State.context_finishAction r.context action x m
  refine ⟨(t.finishAction_held i j x).unwaited r.unwaited, fun m other => ?_, (context i).trans (if_pos rfl),
    (State.findOccasion_finishAction r.context r.occasion j x _).trans (if_pos rfl)⟩
  rw [context, if_neg (Ne.symm other)]
  exact r.others m other

/-- R136: with its last action DONE the context of a RETIRING occasion is freed, and so is the occasion. -/
theorem settle_retired (r : ActionReported i c z t) (all : ∀ a ∈ c.actions, a.phase = .done) (retiring : z.state = .retiring) :
    t.settleContexts.occasionSlot c.occasion.slot = { gen := c.occasion.gen, record := none } ∧ t.settleContexts.context i = none := by
  have released : t.releaseContext i = (t.setContext i none).freeOccasion c.occasion.slot := by
    rw [State.releaseContext_eq r.context]
    exact State.leaveContext_retiring (s := t.setContext i none) r.occasion retiring
  have context (m : Nat) : (t.releaseContext i).context m = if i = m then none else t.context m := by
    rw [released]
    exact (t.context_setContext i m none).trans (if_congr (and_iff_left (State.context_lt r.context)) rfl rfl)
  have freed : (t.releaseContext i).Settled := by
    refine ⟨State.doneContext_none_iff.2 fun m => ?_,
      .inr (State.firstWaiting_of_waits (t.releaseContext_released i).waits r.unwaited)⟩
    rw [context]
    split
    next => rfl
    next other => exact r.others m (Ne.symm other)
  have done : t.doneContext = some i :=
    State.doneContext_single (by rw [r.context]; exact c.isDone_iff.2 all) r.others
  rw [State.settleContexts_single done freed]
  refine ⟨?_, (context i).trans (if_pos rfl)⟩
  have named : t.occasionSlot c.occasion.slot = { gen := c.occasion.gen, record := some z } := State.occasionSlot_named r.occasion
  rw [released]
  refine (State.occasionSlot_setOccasionSlot_same (s := t.setContext i none) _ _ (State.findOccasion_named r.occasion).1).trans ?_
  exact congrArg (fun y : Slot Occasion => { y with record := none }) named

end ActionReported

/-- R138: the occasion as it becomes RETIRING. -/
abbrev Occasion.retired (o : Occasion) : Occasion := { o with state := .retiring, due := none, waiting := false }

theorem State.putRetired_reported (undone : s.doneContext = none) (unwaited : s.firstWaiting = none) (stands : s.context i = some k)
    (own : k.occasion = h) (found : s.findOccasion h = some o) : ActionReported i k o.retired (s.putOccasion h.slot o.retired) where
  unwaited := (s.putOccasion_held h.slot o.retired nofun).unwaited unwaited
  others m _ := by
    rw [State.putOccasion_context]
    exact State.doneContext_none_iff.1 undone m
  context := (s.putOccasion_context h.slot _ i).trans stands
  occasion := by rw [own, State.findOccasion_putOccasion found, if_pos rfl]

/-! ## What waits to start is cancelled (R138) -/

/-- Whether a WAITING action holds a reference to the tune of a handle. -/
def ContextAction.holdsRef (g : Handle) (a : ContextAction) : Bool :=
  a.phase == .waiting true && match a.kind with
    | .play f _ _ _ => f == g
    | _ => false

theorem State.cancelWaiting_over (stands : s.context i = some c)
    (ended : ∀ a, c.actions[j]? = some a → ∀ holds, a.phase ≠ .waiting holds) : s.cancelWaiting i j = s := by
  unfold State.cancelWaiting
  rw [stands]
  dsimp only
  split
  · rfl
  next a action =>
    split
    next holds waiting => exact absurd waiting (ended a action holds)
    · rfl
    · rfl

/-- R82, R138: the reference a WAITING action may hold is dropped. -/
def State.dropHeld (s : State) (a : ContextAction) (holds : Bool) : State :=
  match a.kind with
  | .play tune _ _ _ => if holds then s.dropRef tune else s
  | _ => s

/-- R138: a WAITING action is cancelled, and the reference it holds is dropped as R82 drops it. -/
theorem State.cancelWaiting_cancels {holds : Bool} (stands : s.context i = some c) (action : c.actions[j]? = some a)
    (waiting : a.phase = .waiting holds) : ∃ u : State, s.cancelWaiting i j = u.finishAction i j (Outcome.plain .cancelled) ∧
      u.calendar = s.calendar ∧ ∀ g x n, s.findTune g = Tune.afterDrops x n →
        u.findTune g = x.afterDrops (n + if a.holdsRef g then 1 else 0) := by
  have cancel : s.cancelWaiting i j = (s.dropHeld a holds).finishAction i j (Outcome.plain .cancelled) := by
    unfold State.cancelWaiting
    rw [stands]
    dsimp only
    rw [action]
    dsimp only
    rw [waiting]
    rfl
  refine ⟨_, cancel, ?_, fun g x n found => ?_⟩
  · unfold State.dropHeld
    cases a.kind with
    | play f transposition repeats yields =>
      dsimp only
      split
      · exact s.dropRef_calendar f
      · rfl
    | _ => rfl
  · unfold ContextAction.holdsRef State.dropHeld
    rw [waiting]
    cases a.kind with
    | play f transposition repeats yields =>
      cases holds with
      | true =>
        refine (State.findTune_dropRef_again found f).trans ?_
        simp
      | false => exact found
    | _ => simpa using found

/-- R138: the actions of the first places, all of which wait, are cancelled one after the other. -/
theorem State.cancelWaitings (r : ActionReported i k z s) (all : ∀ a ∈ k.actions, ∃ holds, a.phase = .waiting holds) (n : Nat) :
    let t := eachIndex n (fun j s => s.cancelWaiting i j) s
    ∃ c y, ActionReported i c y t ∧ c.occasion = k.occasion ∧ y.state = z.state ∧
      (∀ j a, c.actions[j]? = some a → j < n → a.phase = .done) ∧ (∀ j, n ≤ j → c.actions[j]? = k.actions[j]?) ∧
      ∀ g x, s.findTune g = some x → t.findTune g = x.afterDrops ((k.actions.take n).countP (·.holdsRef g)) := by
  induction n with
  | zero => exact ⟨k, z, r, rfl, rfl, nofun, fun _ _ => rfl, fun g x found => found.trans x.afterDrops_zero.symm⟩
  | succ n ih =>
    obtain ⟨c, y, reported, own, state, ended, left, tunes⟩ := ih
    rw [eachIndex_succ]
    cases action : k.actions[n]? with
    | none =>
      have none_left := (left n (Nat.le_refl n)).trans action
      rw [State.cancelWaiting_over reported.context fun a some => by rw [none_left] at some; cases some]
      refine ⟨c, y, reported, own, state, fun j a some lt => ?_, fun j le => left j (Nat.le_of_succ_le le), fun g x found => ?_⟩
      · rcases Nat.lt_succ_iff_lt_or_eq.1 lt with lt | rfl
        · exact ended j a some lt
        · rw [none_left] at some
          cases some
      · rw [List.take_of_length_le (Nat.le_succ_of_le (List.getElem?_eq_none_iff.1 action)),
          ← List.take_of_length_le (List.getElem?_eq_none_iff.1 action)]
        exact tunes g x found
    | some a =>
      have action' := (left n (Nat.le_refl n)).trans action
      obtain ⟨holds, waiting⟩ := all a (List.mem_of_getElem? action)
      obtain ⟨u, cancelled, calendar, drops⟩ := State.cancelWaiting_cancels reported.context action' waiting
      rw [cancelled]
      refine ⟨_, _, (reported.of_calendar calendar).finishAction action' _, own, state, fun j b some lt => ?_, fun j le => ?_,
        fun g x found => ?_⟩
      · dsimp only at some
        rw [List.getElem?_set] at some
        split at some
        next => split at some <;> cases some; rfl
        next other => exact ended j b some (lt_of_le_of_ne (Nat.le_of_lt_succ lt) (Ne.symm other))
      · exact (List.getElem?_set_ne (Nat.ne_of_lt le)).trans (left j (Nat.le_of_succ_le le))
      · rw [List.take_add_one, action, List.countP_append, State.findTune_of_tunes (u.finishAction_tunes i n _),
          drops g x _ (tunes g x found)]
        simp [List.countP_cons]

end Sys2Proof.Machine
end

section
/-! RETIRE of an occasion (R138, R139): the request and its answer. -/

namespace Sys2Proof.Machine

variable {s t u : State} {g h : Handle} {o z : Occasion} {i j n m : Nat} {k c : Context} {a : ContextAction} {x : Tune}

/-! ## An act at each place of a context -/

theorem eachIndex_fixed {act : Nat → State → State} (fixed : ∀ j, act j s = s) (n : Nat) : eachIndex n act s = s := by
  induction n with
  | zero => rfl
  | succ n ih => rw [eachIndex_succ, ih, fixed]

theorem eachIndex_first {act : Nat → State → State} (fixed : ∀ j, 0 < j → act j (act 0 s) = act 0 s) (n : Nat) :
    eachIndex (n + 1) act s = act 0 s := by
  induction n with
  | zero => rfl
  | succ n ih => rw [eachIndex_succ, ih, fixed (n + 1) (Nat.succ_pos n)]

/-- R138: what waits to start in a context is cancelled. -/
def State.cancelWaits (s : State) (i : Nat) : State := eachIndex 4 (fun place s => s.cancelWaiting i place) s

/-- R139: the work under way in a context is ended. -/
def State.endWorks (s : State) (i : Nat) : State := eachIndex 4 (fun place s => s.endActive i place) s

/-- R138: with every action waiting all of them are cancelled. -/
theorem State.cancelWaitings_all (r : ActionReported i k z s) (all : ∀ a ∈ k.actions, ∃ holds, a.phase = .waiting holds)
    (short : k.actions.length ≤ 4) : let t := s.cancelWaits i
    ∃ c y, ActionReported i c y t ∧ c.occasion = k.occasion ∧ y.state = z.state ∧ (∀ a ∈ c.actions, a.phase = .done) ∧
      ∀ g x, s.findTune g = some x → t.findTune g = x.afterDrops (k.actions.countP (·.holdsRef g)) := by
  obtain ⟨c, y, reported, own, state, ended, left, tunes⟩ := State.cancelWaitings r all 4
  refine ⟨c, y, reported, own, state, fun a mem => ?_, by rwa [List.take_of_length_le short] at tunes⟩
  obtain ⟨j, action⟩ := List.mem_iff_getElem?.1 mem
  refine ended j a action (Nat.lt_of_not_le fun le => ?_)
  rw [left j le, List.getElem?_eq_none_iff.2 (short.trans le)] at action
  cases action

theorem State.cancelWaitings_none (stands : s.context i = some c) (none : ∀ a ∈ c.actions, ∀ holds, a.phase ≠ .waiting holds) :
    s.cancelWaits i = s :=
  eachIndex_fixed (fun _ => State.cancelWaiting_over stands fun a action => none a (List.mem_of_getElem? action)) 4

theorem State.endActive_over (stands : s.context i = some c) (idle : ∀ a, c.actions[j]? = some a → ∀ b, a.phase ≠ .active b) :
    s.endActive i j = s := by
  unfold State.endActive
  rw [stands]
  dsimp only
  split
  · rfl
  next a action =>
    split
    case h_4 => rfl
    case h_5 => rfl
    all_goals exact absurd ‹a.phase = _› (idle a action _)

/-- R139: the end of the work a block holds for an action. -/
def State.endWork (s : State) : Holder → State
  | .entry n => (s.stopEntry n).1
  | .toll channel => s.stopToll channel
  | .bell bell => s.endRun bell .stopped

theorem State.endActive_active {b : Holder} (stands : s.context i = some c) (action : c.actions[j]? = some a)
    (active : a.phase = .active b) : s.endActive i j = s.endWork b := by
  unfold State.endActive
  rw [stands]
  dsimp only
  rw [action]
  dsimp only
  rw [active]
  cases b <;> rfl

/-- R139: in a context of one action no other place has work to end. -/
theorem State.endActives_first (stands : (s.endActive i 0).context i = some c) (one : c.actions.length = 1) :
    s.endWorks i = s.endActive i 0 :=
  eachIndex_first (fun j positive => State.endActive_over stands fun a action => by
    rw [List.getElem?_eq_none_iff.2 (by omega)] at action
    cases action) 3

/-! ## The answer -/

/-- What settling the contexts and answering can change where no occasion waits. -/
theorem State.answerRetired_frame (unwaited : s.firstWaiting = none) (n : Nat) (h : Handle) : s.answerRetired n h =
    { s with calendar := s.settleContexts.calendar, memory := (s.answerRetired n h).memory, link := (s.answerRetired n h).link } := by
  have answered (u : State) (r : Response) : u.answerAfterWrites n r =
      { u with memory := (u.answerAfterWrites n r).memory, link := (u.answerAfterWrites n r).link } := by
    unfold State.answerAfterWrites
    split <;> rfl
  unfold State.answerRetired
  dsimp only
  rw [answered, (State.settleContexts_released unwaited).frame]

section
variable (unwaited : s.firstWaiting = none) (n : Nat) (h : Handle)
include unwaited

theorem State.answerRetired_tunes : (s.answerRetired n h).tunes = s.tunes := by rw [State.answerRetired_frame unwaited]

theorem State.answerRetired_chime : (s.answerRetired n h).chime = s.chime := by rw [State.answerRetired_frame unwaited]

theorem State.answerRetired_bells : (s.answerRetired n h).bells = s.bells := by rw [State.answerRetired_frame unwaited]

theorem State.answerRetired_mixer : (s.answerRetired n h).mixer = s.mixer := by rw [State.answerRetired_frame unwaited]

theorem State.answerRetired_calendar : (s.answerRetired n h).calendar = s.settleContexts.calendar := by
  rw [State.answerRetired_frame unwaited]

end

theorem State.removeCreatedBy_tunes (s : State) (h : Handle) : (s.removeCreatedBy h).tunes = s.tunes := by
  rw [s.removeCreatedBy_onlyMixer h]

theorem State.removeCreatedBy_chime (s : State) (h : Handle) : (s.removeCreatedBy h).chime = s.chime := by
  rw [s.removeCreatedBy_onlyMixer h]

theorem State.removeCreatedBy_bells (s : State) (h : Handle) : (s.removeCreatedBy h).bells = s.bells := by
  rw [s.removeCreatedBy_onlyMixer h]

theorem State.removeCreatedBy_calendar (s : State) (h : Handle) : (s.removeCreatedBy h).calendar = s.calendar := by
  rw [s.removeCreatedBy_onlyMixer h]

theorem State.occasionSlot_of_calendar (same : t.calendar = s.calendar) (i : Nat) : t.occasionSlot i = s.occasionSlot i := by
  simp only [State.occasionSlot, same]

namespace ActionReported

/-- R136, R138: a RETIRING occasion whose actions are all DONE is gone with its context when its RETIRE is answered. -/
theorem answered_gone (r : ActionReported i c z t) (all : ∀ a ∈ c.actions, a.phase = .done) (retiring : z.state = .retiring)
    (own : c.occasion = h) (n : Nat) : (t.answerRetired n h).occasionSlot h.slot = { gen := h.gen, record := none } ∧
      (t.answerRetired n h).context i = none := by
  have calendar := State.answerRetired_calendar r.unwaited n h
  rw [State.occasionSlot_of_calendar calendar, State.context_of_calendar calendar, ← own]
  exact r.settle_retired all retiring

/-- R138: while an action of it goes on the occasion stays. -/
theorem answered_left (r : ActionReported i c z t) (left : ∃ a ∈ c.actions, a.phase ≠ .done) (own : c.occasion = h) (n : Nat) :
    (t.answerRetired n h).occasionSlot h.slot = { gen := h.gen, record := some z } ∧ (t.answerRetired n h).context i = some c := by
  have calendar : (t.answerRetired n h).calendar = t.calendar := by
    rw [State.answerRetired_calendar r.unwaited, r.settle_left left]
  rw [State.occasionSlot_of_calendar calendar, State.context_of_calendar calendar]
  exact ⟨State.occasionSlot_named (own ▸ r.occasion), r.context⟩

theorem removeCreatedBy (r : ActionReported i c z t) (h : Handle) : ActionReported i c z (t.removeCreatedBy h) :=
  r.of_calendar (t.removeCreatedBy_calendar h)

end ActionReported

/-! ## The requests -/

section
variable (range : handleInRange h Config.occasions = true) (found : s.findOccasion h = some o)
include range found

theorem State.workRetireGentle_eq : s.workRetireGentle h =
    if o.state = .retiring then s.wrongState h.slot h.gen
    else match o.context with
      | none => (s.freeOccasion h.slot).answerRetired s.memory.writes.length h
      | some i => (s.beginRetiring h.slot i o).answerRetired s.memory.writes.length h := State.withOccasion_found range found _

theorem State.workRetireAbrupt_eq : s.workRetireAbrupt h = match o.context with
    | none => ((s.removeCreatedBy h).freeOccasion h.slot).answerRetired s.memory.writes.length h
    | some i =>
      (((s.beginRetiring h.slot i o).endWorks i).removeCreatedBy h).answerRetired
        s.memory.writes.length h := State.withOccasion_found range found _

end

/-! ## An occasion without a context -/

theorem State.freeOccasion_unwaited (unwaited : s.firstWaiting = none) (i : Nat) : (s.freeOccasion i).firstWaiting = none :=
  State.firstWaiting_of_waits (fun _ => s.freeOccasion_waitsAt i) unwaited

theorem State.freeOccasion_settled (undone : s.doneContext = none) (unwaited : s.firstWaiting = none) (i : Nat) :
    (s.freeOccasion i).Settled :=
  ⟨undone, .inr (s.freeOccasion_unwaited unwaited i)⟩

theorem State.freeOccasion_named (found : s.findOccasion h = some o) : s.freeOccasion h.slot =
    (s.setOccasionSlot h.slot { gen := h.gen, record := none }).store (.occasion h.slot) :=
  congrArg (fun y : Slot Occasion => (s.setOccasionSlot h.slot { y with record := none }).store (.occasion h.slot))
    (State.occasionSlot_named found)

/-- R138: the slot is freed, its generation kept. -/
theorem State.freeOccasion_slot (found : s.findOccasion h = some o) :
    (s.freeOccasion h.slot).occasionSlot h.slot = { gen := h.gen, record := none } := by
  rw [State.freeOccasion_named found]
  exact State.occasionSlot_setOccasionSlot_same s h.slot _ (State.findOccasion_named found).1

section
variable (undone : s.doneContext = none) (unwaited : s.firstWaiting = none) (found : s.findOccasion h = some o)
include undone unwaited found

theorem State.freeOccasion_answered (noWrite : s.memory.writes = []) : (s.freeOccasion h.slot).answerRetired s.memory.writes.length h =
    { s.setOccasionSlot h.slot { gen := h.gen, record := none } with
      memory.writes := [{ effect := .stored (.occasion h.slot), response := some (reply .done h.slot h.gen (u8 0)) }] } := by
  have gone : (s.freeOccasion h.slot).findOccasion h = none := by
    rw [State.findOccasion, State.freeOccasion_slot found]
    exact if_pos rfl
  unfold State.answerRetired
  rw [State.settleContexts_settled (State.freeOccasion_settled undone unwaited h.slot)]
  dsimp only
  rw [gone, State.freeOccasion_named found, 
    State.answerAfterWrites_store s (s.setOccasionSlot h.slot { gen := h.gen, record := none }) rfl, noWrite]
  rfl

/-- R139: an ABRUPT retire of an occasion without a context: its standing entries are taken away, and its slot is freed. -/
theorem State.retireAbrupt_lowered (sound : s.ListsSound) (n : Nat) :
    let t := ((s.removeCreatedBy h).freeOccasion h.slot).answerRetired n h
    t.occasionSlot h.slot = { gen := h.gen, record := none } ∧
      t.mixer.standing = s.mixer.standing.filter (fun y => y.creator != .occasion h) ∧
      Lowered (fun g => ∃ y ∈ s.mixer.standing, y.creator = .occasion h ∧ g = y.scene) s t := by
  have calendar := s.removeCreatedBy_calendar h
  have contexts : (s.removeCreatedBy h).doneContext = none :=
    State.doneContext_none_iff.2 fun m => by rw [State.context_of_calendar calendar]; exact State.doneContext_none_iff.1 undone m
  have unwaited' := (Held.of_calendar calendar).unwaited unwaited
  have settled := State.freeOccasion_settled contexts unwaited' h.slot
  have freed := State.freeOccasion_unwaited unwaited' h.slot
  have kept := State.answerRetired_calendar freed n h
  rw [State.settleContexts_settled settled] at kept
  obtain ⟨lowered, standing⟩ := s.removeCreatedBy_lowered sound h
  intro t
  have mixer : t.mixer = (s.removeCreatedBy h).mixer := State.answerRetired_mixer freed n h
  refine ⟨?_, mixer ▸ standing, ?_⟩
  · rw [State.occasionSlot_of_calendar kept]
    exact State.freeOccasion_slot ((State.findOccasion_of_calendar calendar h).trans found)
  · exact (lowered.trans (Lowered.of_layers (congrArg Mixer.layers mixer))).congr fun g => or_iff_left id

end

theorem State.removeCreatedBy_none (none : ∀ y ∈ s.mixer.standing, y.creator ≠ .occasion h) : s.removeCreatedBy h = s := by
  have empty : (s.mixer.standing.filter fun e => e.creator == .occasion h) = [] :=
    List.filter_eq_nil_iff.2 fun y mem => by simpa using none y mem
  rw [State.removeCreatedBy, empty, List.foldl_nil]

/-! ## The work of the one action of a context is ended (R139) -/

section
variable {p : State} (one : k.actions = [a]) (retiring : z.state = .retiring) (own : k.occasion = h)
include one retiring own

/-- R139: where the end of its work is reported to the action, context and occasion are gone when the RETIRE is answered. -/
theorem State.endActives_gone (x : Outcome) (reported : ActionReported i { k with actions := k.actions.set 0 { a with phase := .done } }
      { z with outcome := z.outcome.set 0 x } (p.endActive i 0)) (n : Nat) :
    let t := ((p.endWorks i).removeCreatedBy h).answerRetired n h
    t.occasionSlot h.slot = { gen := h.gen, record := none } ∧ t.context i = none ∧
      t.chime = (p.endActive i 0).chime ∧ t.bells = (p.endActive i 0).bells := by
  rw [State.endActives_first reported.context (by rw [one]; rfl)]
  have cleared := reported.removeCreatedBy h
  have all : ∀ b ∈ k.actions.set 0 { a with phase := .done }, b.phase = .done := fun b mem => by
    rw [one, List.set_cons_zero, List.mem_singleton] at mem
    rw [mem]
  obtain ⟨slot, context⟩ := cleared.answered_gone all retiring own n
  exact ⟨slot, context, (State.answerRetired_chime cleared.unwaited n h).trans (State.removeCreatedBy_chime _ h),
    (State.answerRetired_bells cleared.unwaited n h).trans (State.removeCreatedBy_bells _ h)⟩

end

/-! ## Actions that all wait (R138) -/

section
variable {p : State} (r : ActionReported i k z p) (all : ∀ a ∈ k.actions, ∃ holds, a.phase = .waiting holds)
  (short : k.actions.length ≤ 4) (retiring : z.state = .retiring) (own : k.occasion = h)
include r all short retiring own

theorem State.cancelWaitings_gone (n : Nat) : let t := (p.cancelWaits i).answerRetired n h
    (t.occasionSlot h.slot = { gen := h.gen, record := none } ∧ t.context i = none) ∧
      ∀ g x, p.findTune g = some x → t.findTune g = x.afterDrops (k.actions.countP (·.holdsRef g)) := by
  obtain ⟨c, y, reported, own', state, ended, tunes⟩ := State.cancelWaitings_all r all short
  have same := State.answerRetired_tunes reported.unwaited n h
  exact ⟨reported.answered_gone ended (state.trans retiring) (own'.trans own) n, fun g x found =>
    (State.findTune_of_tunes same g).trans (tunes g x found)⟩

theorem State.cancelWaitings_endActives_gone (n : Nat) :
    let t := (((p.cancelWaits i).endWorks i).removeCreatedBy h).answerRetired n h
    (t.occasionSlot h.slot = { gen := h.gen, record := none } ∧ t.context i = none) ∧
      ∀ g x, p.findTune g = some x → t.findTune g = x.afterDrops (k.actions.countP (·.holdsRef g)) := by
  obtain ⟨c, y, reported, own', state, ended, tunes⟩ := State.cancelWaitings_all r all short
  have idle (j : Nat) : (p.cancelWaits i).endActive i j = p.cancelWaits i :=
    State.endActive_over reported.context fun a action b active => by
      rw [ended a (List.mem_of_getElem? action)] at active
      cases active
  rw [show (p.cancelWaits i).endWorks i = p.cancelWaits i from eachIndex_fixed idle 4]
  have cleared := reported.removeCreatedBy h
  have same := (State.answerRetired_tunes cleared.unwaited n h).trans (State.removeCreatedBy_tunes _ h)
  exact ⟨cleared.answered_gone ended (state.trans retiring) (own'.trans own) n, fun g x found =>
    (State.findTune_of_tunes same g).trans (tunes g x found)⟩

end

theorem State.putOccasion_bells (s : State) (i : Nat) (o : Occasion) : (s.putOccasion i o).bells = s.bells := by
  rw [s.putOccasion_frame]

/-! ## The first of the actions waits, or one action is at work -/

/-- R138: where only the first action waits, it alone is cancelled. -/
theorem State.cancelWaits_first {p : State} {holds : Bool} (r : ActionReported i k z p) (action : k.actions[0]? = some a)
    (waiting : a.phase = .waiting holds)
    (others : ∀ j b, 0 < j → k.actions[j]? = some b → ∀ holds, b.phase ≠ .waiting holds) :
    ActionReported i { k with actions := k.actions.set 0 { a with phase := .done } }
      { z with outcome := z.outcome.set 0 (Outcome.plain .cancelled) } (p.cancelWaits i) := by
  obtain ⟨u, cancelled, calendar, -⟩ := State.cancelWaiting_cancels r.context action waiting
  have reported := (r.of_calendar calendar).finishAction action (Outcome.plain .cancelled)
  rw [← cancelled] at reported
  have only : p.cancelWaits i = p.cancelWaiting i 0 :=
    eachIndex_first (fun j positive => State.cancelWaiting_over reported.context fun b action' =>
      others j b positive (by rwa [List.getElem?_set_ne (Nat.ne_of_lt positive)] at action')) 3
  rwa [only]

/-- R109: a stopped toll of an action is IDLE, its report CANCELLED. -/
theorem State.stopToll_action {channel : Nat} {run : TollRun} (tolls : s.toll channel = some run) (source : run.source = .action g i j) :
    s.stopToll channel = ((s.setToll channel none).setLastToll channel { run with scheduled := none }).finishAction i j
      (Outcome.plain .cancelled) := by
  unfold State.stopToll
  rw [tolls]
  dsimp only
  unfold State.endToll State.reportToll
  rw [source]
  rfl

theorem ActionReported.undone (r : ActionReported i c z t) (left : ∃ a ∈ c.actions, a.phase ≠ .done) : t.doneContext = none := by
  obtain ⟨a, mem, unfinished⟩ := left
  refine State.doneContext_none_iff.2 fun m => ?_
  by_cases same : m = i
  · rw [same, r.context]
    exact Bool.eq_false_iff.2 fun done => unfinished (c.isDone_iff.1 done a mem)
  · exact r.others m same

section
variable {p : State} (r : ActionReported i k z p) (action : k.actions[0]? = some a)
include r action

/-- R109, R139: a toll is stopped at once. -/
theorem State.endWork_toll {channel : Nat} {run : TollRun} (bound : channel < 2) (tolls : p.toll channel = some run)
    (source : run.source = .action g i 0) :
    ActionReported i { k with actions := k.actions.set 0 { a with phase := .done } }
      { z with outcome := z.outcome.set 0 (Outcome.plain .cancelled) } (p.endWork (.toll channel)) ∧
    (p.endWork (.toll channel)).toll channel = none := by
  rw [State.endWork, State.stopToll_action tolls source]
  have idle : ActionReported i k z ((p.setToll channel none).setLastToll channel { run with scheduled := none }) := r.of_calendar rfl
  refine ⟨idle.finishAction action _, ?_⟩
  rw [State.toll, State.finishAction_chime]
  exact State.toll_setToll_same p channel none bound

variable (left : a.phase ≠ .done)
include left

/-- R54, R139: a motor run is ended at once. -/
theorem State.endWork_bell {b : Nat} (bound : b < 40)
    (motor : (∃ length since isAdmitted, (p.bell b).motor = .pending length since isAdmitted [.action i 0]) ∨
      ∃ energised endAt satisfied, (p.bell b).motor = .running energised endAt satisfied [.action i 0]) :
    ActionReported i { k with actions := k.actions.set 0 { a with phase := .done } }
      { z with outcome := z.outcome.set 0 (motorOutcome .stopped) } (p.endWork (.bell b)) ∧
    ((p.endWork (.bell b)).bell b).motor = .off := by
  rw [State.endWork, State.endRun_asked (MotorRun.asked_iff.1 motor) .stopped]
  exact ⟨State.runEnded_reported (.inl rfl) (r.undone ⟨a, List.mem_of_getElem? action, left⟩) r.unwaited r.context action r.occasion b
    .stopped, congrArg Bell.motor (State.runEnded_bell bound p _ .stopped)⟩

/-- R106, R139: a queued entry is removed. -/
theorem State.endWork_entry {x : Entry} {before after : List Entry} (queue : p.chime.queue = before ++ x :: after)
    (number : x.number = n) (others : ∀ y ∈ before ++ after, y.number ≠ n) (source : x.source = .occasion g i 0) :
    ActionReported i { k with actions := k.actions.set 0 { a with phase := .done } }
      { z with outcome := z.outcome.set 0 (Outcome.plain .cancelled) } (p.endWork (.entry n)) ∧
    (p.endWork (.entry n)).chime.queue = before ++ after := by
  rw [State.endWork, State.stopEntry_queued queue number others]
  have reported := State.reportEntry_reported (s := { p with chime.queue := before ++ after }) source
    (r.undone ⟨a, List.mem_of_getElem? action, left⟩) r.unwaited r.context action r.occasion .stopped x.carried.1 x.carried.2
  refine ⟨reported.of_calendar (State.dropEntryRef_calendar _ x), ?_⟩
  rw [State.dropEntryRef_chime, State.reportEntry_queue]

/-- R106, R139: a performance waits for its next step boundary, and its action with it. -/
theorem State.endWorks_performance {q : Performance} (one : k.actions = [a]) (own : k.occasion = h) (active : a.phase = .active (.entry n))
    (unqueued : ∀ y ∈ p.chime.queue, y.number ≠ n) (plays : p.chime.performance = some q) (number : q.entry.number = n) (m : Nat) :
    let t := ((p.endWorks i).removeCreatedBy h).answerRetired m h
    t.chime.performance = some q.stop ∧ t.context i = some k ∧ t.occasionSlot h.slot = { gen := h.gen, record := some z } := by
  have first : p.endActive i 0 = { p with chime.performance := some q.stop } := by
    rw [State.endActive_active r.context action active, State.endWork, State.stopEntry_performance unqueued plays number]
  have stopped : ActionReported i k z (p.endActive i 0) := first ▸ r.of_calendar rfl
  rw [State.endActives_first stopped.context (by rw [one]; rfl)]
  have cleared := stopped.removeCreatedBy h
  obtain ⟨slot, context⟩ := cleared.answered_left ⟨a, List.mem_of_getElem? action, left⟩ own m
  refine ⟨?_, context, slot⟩
  rw [State.answerRetired_chime cleared.unwaited, State.removeCreatedBy_chime, first]

end

/-- Settles O47: RETIRE by the context the occasion holds and what stands in it. -/
theorem retireFreesTheOccasion : Obligations.RetireFreesTheOccasion := by
  unfold Obligations.RetireFreesTheOccasion
  intro s dt h o ready undone unwaited slot low high found e freed created gone retiring
  have range : handleInRange h Config.occasions = true := handleInRange_of slot low high
  let v := e.working (.retireGentle h)
  let w := e.working (.retireAbrupt h)
  have gently {t : State} (worked : v.workRetireGentle h = t) : exec (.retireGentle dt h) s = .next t :=
    exec_ready ready (.retireGentle h) worked
  have abruptly {t : State} (worked : w.workRetireAbrupt h = t) : exec (.retireAbrupt dt h) s = .next t :=
    exec_ready ready (.retireAbrupt h) worked
  have gentle := State.workRetireGentle_eq (s := v) range found
  have abrupt := State.workRetireAbrupt_eq (s := w) range found
  have noWrite : s.memory.writes = [] := ready.noWrite
  refine ⟨fun already => gently (gentle.trans (if_pos already)), fun free => ?free, ?waiting, ?left, ?one⟩
  case free =>
    rw [free] at gentle abrupt
    refine ⟨fun live => gently ((gentle.trans (if_neg live)).trans ?_), fun none => abruptly (abrupt.trans ?_), fun sound => ?_⟩
    · exact State.freeOccasion_answered (s := v) undone unwaited found noWrite
    · dsimp only
      rw [State.removeCreatedBy_none (s := w) none]
      exact State.freeOccasion_answered (s := w) undone unwaited found noWrite
    · obtain ⟨slot', standing, lowered⟩ := State.retireAbrupt_lowered (s := w) undone unwaited found
        ⟨sound.queue, sound.layers, sound.layerScenes, sound.standing, sound.standingScenes⟩ w.memory.writes.length
      exact ⟨_, abruptly abrupt, slot', standing,
        fun y mem creator l mem' scene => lowered.target l mem' ⟨y, mem, creator, scene⟩, lowered.scenes,
        fun l mem other => lowered.kept l mem fun ⟨y, mem', creator, scene⟩ => other y mem' creator scene⟩
  case waiting =>
    intro i k _ holds stands own short all dropped
    rw [holds] at gentle abrupt
    have put {u : State} (same : u = v ∨ u = w) : ActionReported i k o.retired (u.putOccasion h.slot o.retired) := by
      rcases same with rfl | rfl <;> exact State.putRetired_reported undone unwaited stands own found
    have kept (u : State) (g : Handle) (x : Tune) (found : u.findTune g = some x) :
        (u.putOccasion h.slot o.retired).findTune g = some x :=
      (State.findTune_of_tunes (congrArg State.tunes (u.putOccasion_frame _ _) :) g).trans found
    refine ⟨fun live => ?_, ?_⟩
    · obtain ⟨gone', drops⟩ := State.cancelWaitings_gone (put (.inl rfl)) all short rfl own v.memory.writes.length
      exact ⟨_, gently (gentle.trans (if_neg live)), gone', fun g x found => drops g x (kept v g x found)⟩
    · obtain ⟨gone', drops⟩ := State.cancelWaitings_endActives_gone (put (.inr rfl)) all short rfl own w.memory.writes.length
      exact ⟨_, abruptly abrupt, gone', fun g x found => drops g x (kept w g x found)⟩
  case left =>
    intro i k a b c x y _ holds stands own actions waiting active outcome live
    rw [holds] at gentle
    have put : ActionReported i k o.retired (v.putOccasion h.slot o.retired) :=
      State.putRetired_reported undone unwaited stands own found
    have reported := State.cancelWaits_first put (by rw [actions]; rfl) waiting fun j d positive action held => by
      rw [actions] at action
      match j, positive, action with
      | 1, _, rfl => rw [active]; nofun
    rw [actions, outcome] at reported
    obtain ⟨slot', context⟩ := reported.answered_left ⟨b, by simp, by rw [active]; nofun⟩ own v.memory.writes.length
    exact ⟨_, gently (gentle.trans (if_neg live)), context, _, slot', rfl⟩
  case one =>
    intro i k a _ holds stands own one
    rw [holds] at gentle abrupt
    have action : k.actions[0]? = some a := by rw [one]; rfl
    have put (u : State) (same : u = v ∨ u = w) : ActionReported i k o.retired (u.putOccasion h.slot o.retired) := by
      rcases same with rfl | rfl <;> exact State.putRetired_reported undone unwaited stands own found
    have cancelled {c : Holder} (active : a.phase = .active c) (u : State) (same : u = v ∨ u = w) :
        u.beginRetiring h.slot i o = u.putOccasion h.slot o.retired :=
      State.cancelWaitings_none (put u same).context fun b mem holds waiting => by
        rw [one, List.mem_singleton] at mem
        rw [mem, active] at waiting
        cases waiting
    let p := w.putOccasion h.slot o.retired
    have stood : ActionReported i k o.retired p := put w (.inr rfl)
    have chime : p.chime = s.chime := State.putOccasion_chime w _ _
    have unfinished {c : Holder} (active : a.phase = .active c) : a.phase ≠ .done := by rw [active]; nofun
    have ends {c : Holder} (active : a.phase = .active c) : p.endActive i 0 = p.endWork c :=
      State.endActive_active stood.context action active
    have endsGone {c : Holder} {x : Outcome} (active : a.phase = .active c)
        (reported : ActionReported i { k with actions := k.actions.set 0 { a with phase := .done } }
          { o.retired with outcome := o.outcome.set 0 x } (p.endWork c)) :
        ∃ t, exec (.retireAbrupt dt h) s = .next t ∧ gone t i ∧ t.chime = (p.endWork c).chime ∧ t.bells = (p.endWork c).bells := by
      rw [← ends active] at reported ⊢
      obtain ⟨slot', context, chime', bells⟩ := State.endActives_gone one rfl own x reported w.memory.writes.length
      refine ⟨_, abruptly (abrupt.trans ?_), ⟨slot', context⟩, chime', bells⟩
      dsimp only
      rw [cancelled active w (.inr rfl)]
    refine ⟨fun c active live => ?_, fun c run bound active tolls source => ?_, fun b bound active motor => ?_,
      fun n x before after active queue number others source => ?_, fun n q active plays number playing unqueued => ?_⟩
    · obtain ⟨slot', context⟩ := (put v (.inl rfl)).answered_left ⟨a, by simp [one], by rw [active]; nofun⟩ own
        v.memory.writes.length
      have worked := gently (gentle.trans (if_neg live))
      dsimp only at worked
      rw [cancelled active v (.inl rfl)] at worked
      refine ⟨_, worked, context, ?_, ?_, slot'⟩
      · exact (State.answerRetired_chime (put v (.inl rfl)).unwaited _ h).trans (State.putOccasion_chime v _ _)
      · exact (State.answerRetired_bells (put v (.inl rfl)).unwaited _ h).trans (State.putOccasion_bells v _ _)
    · have tolls' : p.toll c = some run := by rw [State.toll, chime]; exact tolls
      obtain ⟨reported, idle⟩ := State.endWork_toll stood action bound tolls' source
      obtain ⟨t, worked, gone', chime', -⟩ := endsGone active reported
      exact ⟨t, worked, gone', by rw [State.toll, chime']; exact idle⟩
    · have bell : p.bell b = s.bell b := by rw [State.bell, State.putOccasion_bells]; rfl
      obtain ⟨reported, off⟩ := State.endWork_bell stood action (unfinished active) bound (by rwa [bell])
      obtain ⟨t, worked, gone', -, bells⟩ := endsGone active reported
      exact ⟨t, worked, gone', by rw [State.bell, bells]; exact off⟩
    · obtain ⟨reported, left⟩ := State.endWork_entry stood action (unfinished active) (by rw [chime, queue]) number others source
      obtain ⟨t, worked, gone', chime', -⟩ := endsGone active reported
      exact ⟨t, worked, gone', by rw [chime']; exact left⟩
    · have told : q.stop = { q with stopPending := true } := by rw [Performance.stop, playing]
      obtain ⟨stopped, context, slot'⟩ := State.endWorks_performance stood action (unfinished active) one own active
        (by rwa [chime]) (by rwa [chime]) number w.memory.writes.length
      rw [told] at stopped
      refine ⟨_, abruptly (abrupt.trans ?_), stopped, context, slot'⟩
      dsimp only
      rw [cancelled active w (.inr rfl)]

end Sys2Proof.Machine
end

section
/-! The due list (R127, R128): its order is strict, a selection of it holds exactly the occasions that pass the test, in that order,
and a due worked out afresh lies later than now. -/

namespace Sys2Proof.Machine

variable {s t : State} {o x : Occasion} {d y : Due} {i j n : Nat} {a b c : Nat × Occasion} {test : Occasion → Bool}

/-! ## The order (R128) -/

theorem Occasion.dueAheadOf_asymm (ahead : o.dueAheadOf i d x j y) : ¬x.dueAheadOf j y o i d := by
  unfold Occasion.dueAheadOf at *
  omega

theorem dueBefore_iff (due : o.due = some d) (due' : x.due = some y) :
    dueBefore (i, o) (j, x) = true ↔ o.dueAheadOf i d x j y := by
  unfold dueBefore Occasion.dueAheadOf
  rw [due, due']
  simp only [Bool.or_eq_true, Bool.and_eq_true, decide_eq_true_eq, beq_iff_eq, eq_comm (a := o.config.priority)]

theorem dueBefore_trans (ha : a.2.due.isSome) (hb : b.2.due.isSome) (hc : c.2.due.isSome) (ab : dueBefore a b = true)
    (bc : dueBefore b c = true) : dueBefore a c = true := by
  obtain ⟨d, ha⟩ := Option.isSome_iff_exists.1 ha
  obtain ⟨e, hb⟩ := Option.isSome_iff_exists.1 hb
  obtain ⟨f, hc⟩ := Option.isSome_iff_exists.1 hc
  have ab := (dueBefore_iff ha hb).1 ab
  have bc := (dueBefore_iff hb hc).1 bc
  refine (dueBefore_iff ha hc).2 ?_
  unfold Occasion.dueAheadOf at *
  omega

theorem dueBefore_total (ha : a.2.due.isSome) (hb : b.2.due.isSome) (other : a.1 ≠ b.1) (no : ¬dueBefore a b = true) :
    dueBefore b a = true := by
  obtain ⟨d, ha⟩ := Option.isSome_iff_exists.1 ha
  obtain ⟨e, hb⟩ := Option.isSome_iff_exists.1 hb
  have no := (dueBefore_iff ha hb).not.1 no
  refine (dueBefore_iff hb ha).2 ?_
  unfold Occasion.dueAheadOf at *
  omega

/-! ## Placing in order -/

theorem mem_insertDue_iff {l : List (Nat × Occasion)} : b ∈ insertDue a l ↔ b = a ∨ b ∈ l := by
  induction l with
  | nil => exact List.mem_singleton.trans (or_iff_left List.not_mem_nil).symm
  | cons y rest ih =>
    unfold insertDue
    split
    · exact List.mem_cons
    · rw [List.mem_cons, ih, List.mem_cons]
      tauto

theorem insertDue_sorted {l : List (Nat × Occasion)} (sorted : l.Pairwise fun a b => dueBefore a b = true) (due : a.2.due.isSome)
    (dues : ∀ b ∈ l, b.2.due.isSome) (others : ∀ b ∈ l, a.1 ≠ b.1) : (insertDue a l).Pairwise fun a b => dueBefore a b = true := by
  induction l with
  | nil => exact List.pairwise_singleton _ _
  | cons y rest ih =>
    have ⟨first, sorted⟩ := List.pairwise_cons.1 sorted
    have dueY := dues y List.mem_cons_self
    unfold insertDue
    split
    next before =>
      refine List.pairwise_cons.2 ⟨fun z mem => ?_, List.pairwise_cons.2 ⟨first, sorted⟩⟩
      rcases List.mem_cons.1 mem with rfl | mem
      · exact before
      · exact dueBefore_trans due dueY (dues z (List.mem_cons_of_mem _ mem)) before (first z mem)
    next no =>
      refine List.pairwise_cons.2 ⟨fun z mem => ?_, ih sorted (fun b mem => dues b (List.mem_cons_of_mem _ mem))
        fun b mem => others b (List.mem_cons_of_mem _ mem)⟩
      rcases mem_insertDue_iff.1 mem with rfl | mem
      · exact dueBefore_total due dueY (others y List.mem_cons_self) no
      · exact first z mem

/-! ## A selection of the due list -/

/-- The occasions of the first slots that pass a test, in due-list order. -/
def State.occasionsBelow (s : State) (test : Occasion → Bool) (n : Nat) : List (Nat × Occasion) :=
  (List.range n).foldl
    (fun l i =>
      match (s.occasionSlot i).record with
      | some o => if test o then insertDue (i, o) l else l
      | none => l) []

theorem State.occasionsBelow_spec (dues : ∀ o, test o = true → o.due.isSome) (n : Nat) :
    (∀ a, a ∈ s.occasionsBelow test n ↔ a.1 < n ∧ (s.occasionSlot a.1).record = some a.2 ∧ test a.2 = true) ∧
      (s.occasionsBelow test n).Pairwise fun a b => dueBefore a b = true := by
  induction n with
  | zero => exact ⟨fun a => ⟨nofun, fun h => absurd h.1 (Nat.not_lt_zero _)⟩, List.Pairwise.nil⟩
  | succ n ih =>
    obtain ⟨mem_iff, sorted⟩ := ih
    have step : s.occasionsBelow test (n + 1) = match (s.occasionSlot n).record with
        | some o => if test o then insertDue (n, o) (s.occasionsBelow test n) else s.occasionsBelow test n
        | none => s.occasionsBelow test n := by
      rw [State.occasionsBelow, List.range_succ, List.foldl_append]
      rfl
    have below {a : Nat × Occasion} (passes : (s.occasionSlot n).record = some a.2 → ¬test a.2 = true) :
        a ∈ s.occasionsBelow test n ↔ a.1 < n + 1 ∧ (s.occasionSlot a.1).record = some a.2 ∧ test a.2 = true := by
      rw [mem_iff, Nat.lt_succ_iff_lt_or_eq]
      refine ⟨fun h => ⟨.inl h.1, h.2⟩, fun ⟨lt, record, pass⟩ => ⟨lt.resolve_right fun same => ?_, record, pass⟩⟩
      exact passes (same ▸ record) pass
    rw [step]
    cases record : (s.occasionSlot n).record with
    | none => exact ⟨fun a => below fun r => (nomatch record.symm.trans r), sorted⟩
    | some o =>
      dsimp only
      split
      next pass =>
        refine ⟨fun a => ?_, insertDue_sorted sorted (dues o pass) (fun b mem => dues b.2 ((mem_iff b).1 mem).2.2) fun b mem same =>
          Nat.lt_irrefl n (lt_of_eq_of_lt same ((mem_iff b).1 mem).1)⟩
        rw [mem_insertDue_iff, mem_iff, Nat.lt_succ_iff_lt_or_eq]
        constructor
        · rintro (rfl | ⟨lt, record', pass'⟩)
          · exact ⟨.inr rfl, record, pass⟩
          · exact ⟨.inl lt, record', pass'⟩
        · rintro ⟨lt | same, record', pass'⟩
          · exact .inr ⟨lt, record', pass'⟩
          · rw [same, record] at record'
            cases record'
            exact .inl (Prod.ext same rfl)
      next fails =>
        exact ⟨fun a => below fun r pass => by
          rw [record] at r
          cases r
          exact fails pass, sorted⟩

theorem State.mem_occasionsWhere_iff (dues : ∀ o, test o = true → o.due.isSome) :
    a ∈ s.occasionsWhere test ↔ a.1 < 256 ∧ (s.occasionSlot a.1).record = some a.2 ∧ test a.2 = true :=
  (State.occasionsBelow_spec dues 256).1 a

theorem State.occasionsWhere_sorted (dues : ∀ o, test o = true → o.due.isSome) :
    (s.occasionsWhere test).Pairwise fun a b => dueBefore a b = true := (State.occasionsBelow_spec dues 256).2

/-- R128: the occasion that stands ahead of every other that passes the test is the first. -/
theorem State.occasionsWhere_first (dues : ∀ o, test o = true → o.due.isSome) (lt : i < 256)
    (record : (s.occasionSlot i).record = some o) (pass : test o = true) (due : o.due = some d)
    (first : ∀ j x y, j < 256 → j ≠ i → (s.occasionSlot j).record = some x → test x = true → x.due = some y →
      o.dueAheadOf i d x j y) : ∃ rest, s.occasionsWhere test = (i, o) :: rest := by
  have mem : (i, o) ∈ s.occasionsWhere test := (State.mem_occasionsWhere_iff dues).2 ⟨lt, record, pass⟩
  have sorted := State.occasionsWhere_sorted (s := s) dues
  cases list : s.occasionsWhere test with
  | nil =>
    rw [list] at mem
    cases mem
  | cons a rest =>
    rw [list] at mem sorted
    rcases List.mem_cons.1 mem with rfl | later
    · exact ⟨rest, rfl⟩
    · have head := (List.pairwise_cons.1 sorted).1 _ later
      obtain ⟨lt', record', pass'⟩ := (State.mem_occasionsWhere_iff (s := s) (a := a) dues).1 (list ▸ List.mem_cons_self)
      obtain ⟨y, due'⟩ := Option.isSome_iff_exists.1 (dues a.2 pass')
      have ahead : a.2.dueAheadOf a.1 y o i d := (dueBefore_iff due' due).1 head
      by_cases same : a.1 = i
      · rw [same, record] at record'
        cases record'
        exact ⟨rest, congrArg (· :: rest) (Prod.ext same rfl)⟩
      · exact absurd ahead (Occasion.dueAheadOf_asymm (first a.1 a.2 y lt' same record' pass' due'))

theorem State.occasionsWhere_none (fails : ∀ j x, j < 256 → (s.occasionSlot j).record = some x → ¬test x = true) :
    s.occasionsWhere test = [] :=
  List.eq_nil_iff_forall_not_mem.2 fun a mem => by
    obtain ⟨lt, record, pass⟩ := State.mem_occasionsWhere mem
    exact fails a.1 a.2 lt record pass

theorem Occasion.isReached_iff {now : Nat} : o.isReached now = true ↔ ∃ d, o.due = some d ∧ d.instant ≤ now := by
  simp [Occasion.isReached, Option.any_eq_true]

theorem Occasion.gracePassed_iff {now : Nat} :
    o.gracePassed now = true ↔ ∃ d, o.due = some d ∧ d.instant + o.config.grace * 60 < now := by
  simp [Occasion.gracePassed, Option.any_eq_true]

/-- R128, R129: the slots reached are the one list of the occasions due in due-list order. -/
theorem State.reachedSlots_eq {l : List Nat} (order : s.DueOrder l) : s.reachedSlots = l := by
  have dues (o : Occasion) (reached : o.isReached s.time.standard = true) : o.due.isSome := by
    obtain ⟨d, due, -⟩ := Occasion.isReached_iff.1 reached
    rw [due]
    rfl
  have mem_iff (i : Nat) : i ∈ s.reachedSlots ↔ i ∈ l := by
    rw [order.slots, State.reachedSlots, List.mem_map]
    constructor
    · rintro ⟨a, mem, rfl⟩
      obtain ⟨lt, record, reached⟩ := (State.mem_occasionsWhere_iff dues).1 mem
      obtain ⟨d, due, le⟩ := Occasion.isReached_iff.1 reached
      exact ⟨lt, a.2, d, record, due, le⟩
    · rintro ⟨lt, o, d, record, due, le⟩
      exact ⟨(i, o), (State.mem_occasionsWhere_iff dues).2 ⟨lt, record, Occasion.isReached_iff.2 ⟨d, due, le⟩⟩, rfl⟩
  let ahead (i j : Nat) : Prop := ∀ o d x y, (s.occasionSlot i).record = some o → o.due = some d →
    (s.occasionSlot j).record = some x → x.due = some y → o.dueAheadOf i d x j y
  have sorted : s.reachedSlots.Pairwise ahead := by
    refine List.pairwise_map.2 ((State.occasionsWhere_sorted dues).imp_of_mem fun {a b} memA memB before => ?_)
    obtain ⟨-, recordA, -⟩ := (State.mem_occasionsWhere_iff dues).1 memA
    obtain ⟨-, recordB, -⟩ := (State.mem_occasionsWhere_iff dues).1 memB
    intro o d x y record due record' due'
    rw [recordA] at record
    rw [recordB] at record'
    cases record
    cases record'
    exact (dueBefore_iff due due').1 before
  have strict (i j : Nat) (memI : i ∈ l) (memJ : j ∈ l) (hij : ahead i j) (hji : ahead j i) : False := by
    obtain ⟨-, o, d, record, due, -⟩ := (order.slots i).1 memI
    obtain ⟨-, x, y, record', due', -⟩ := (order.slots j).1 memJ
    exact Occasion.dueAheadOf_asymm (hij o d x y record due record' due') (hji x y o d record' due' record due)
  have nodup : s.reachedSlots.Nodup := sorted.imp_of_mem fun {i j} memI _ hij same => by
    subst same
    exact strict i i ((mem_iff i).1 memI) ((mem_iff i).1 memI) hij hij
  exact List.Perm.eq_of_pairwise (fun i j memI memJ hij hji => (strict i j ((mem_iff i).1 memI) memJ hij hji).elim)
    sorted order.order ((List.perm_ext_iff_of_nodup nodup order.nodup).2 mem_iff)

end Sys2Proof.Machine
end

section
/-! What the reaching of a due does (R129 to R131): the next due worked out afresh, the references its actions take, and the state an
occasion that has fired leaves. -/

namespace Sys2Proof.Machine

variable {s t u : State} {o : Occasion} {d : Due} {i j k n : Nat} {g h : Handle} {x : Tune}

/-! ## The next due (R127) -/

theorem State.dueAfter_later {c : OccasionConfig} {bound day : Nat} (due : s.dueAfter c bound day = some d) : bound < d.instant := by
  unfold State.dueAfter at due
  dsimp only at due
  split at due
  · split at due
    next later =>
      cases due
      exact Int.lt_toNat.2 later
    · cases due
  · cases due

theorem earlier_or (a b : Option Due) : earlier a b = a ∨ earlier a b = b := by
  unfold earlier
  split
  · exact .inr rfl
  · exact .inl rfl
  · split
    · exact .inr rfl
    · exact .inl rfl

theorem State.searchDue_later {c : OccasionConfig} {bound fuel day : Nat} (due : s.searchDue c bound fuel day = some d) :
    bound < d.instant := by
  induction fuel generalizing day with
  | zero => cases due
  | succ fuel ih =>
    unfold State.searchDue at due
    split at due
    next x found =>
      split at due
      · exact State.dueAfter_later (found.trans due)
      · rcases earlier_or (some x) (s.dueAfter c bound (day + 1)) with e | e
        · exact State.dueAfter_later (found.trans (e.symm.trans due))
        · exact State.dueAfter_later (e.symm.trans due)
    · exact ih due

/-- R127: a due worked out afresh lies later than now. -/
theorem State.computeDue_later {c : OccasionConfig} {last : Option Nat} (due : s.computeDue c last = some d) :
    s.time.standard < d.instant := lt_of_le_of_lt (Nat.le_max_left _ _) (State.searchDue_later due)

theorem State.nextDue_later {c : OccasionConfig} {last : Option Nat} (due : s.nextDue c last = some d) : s.time.standard < d.instant := by
  unfold State.nextDue at due
  split at due
  · exact State.computeDue_later due
  · cases due

section
variable (time : t.time = s.time) (table : t.calendar.duskTable = s.calendar.duskTable)
  (confirmed : t.calendar.confirmed = s.calendar.confirmed)
include time table confirmed

theorem State.dueAfter_congr (c : OccasionConfig) (bound day : Nat) : t.dueAfter c bound day = s.dueAfter c bound day := by
  have dusk : t.duskOf day = s.duskOf day := by
    unfold State.duskOf State.tableDuskOf
    rw [table, confirmed]
  have instant (a : Anchor) : t.dueInstant a day = s.dueInstant a day := by
    unfold State.dueInstant
    rw [time, dusk]
  unfold State.dueAfter
  dsimp only
  rw [instant]

theorem State.searchDue_congr (c : OccasionConfig) (bound fuel day : Nat) :
    t.searchDue c bound fuel day = s.searchDue c bound fuel day := by
  induction fuel generalizing day with
  | zero => rfl
  | succ fuel ih =>
    unfold State.searchDue
    rw [State.dueAfter_congr time table confirmed, State.dueAfter_congr time table confirmed, ih]

/-- R127: the next due is worked out from the time and the dusk of each date alone. -/
theorem State.nextDue_congr (c : OccasionConfig) (last : Option Nat) : t.nextDue c last = s.nextDue c last := by
  unfold State.nextDue State.computeDue
  dsimp only
  rw [time, State.searchDue_congr time table confirmed]

end

/-! ## A record that is put in the place of another -/

theorem State.putOccasion_new {y : Occasion} (record : (s.occasionSlot i).record = some o) (new : y ≠ o) : s.putOccasion i y =
    (s.setOccasionSlot i { gen := (s.occasionSlot i).gen, record := some y }).store (.occasion i) :=
  if_neg fun same => new (Option.some.inj (record.symm.trans same)).symm

theorem State.putOccasion_kept (record : (s.occasionSlot i).record = some o) : s.putOccasion i o = s := if_pos record

/-- R129: an occasion whose due has come is MISSED with a due that is another, so its record is written. -/
theorem State.missOccasion_eq (record : (s.occasionSlot i).record = some o) (due : o.due = some d) (come : d.instant ≤ s.time.standard) :
    s.missOccasion i o = ((s.setOccasionSlot i { gen := (s.occasionSlot i).gen
                                                 record := some (s.withNextDue { o with missed := min 255 (o.missed + 1) }) }).store
      (.occasion i)).raise .occasionMissed := by
  have new : s.withNextDue { o with missed := min 255 (o.missed + 1) } ≠ o := fun same => by
    have next : s.nextDue o.config o.lastFired = some d := (congrArg Occasion.due same).trans due
    exact Nat.not_lt.2 come (State.nextDue_later next)
  exact congrArg (State.raise · .occasionMissed) (State.putOccasion_new record new)

/-! ## The references of the actions of an occasion that fires (R130) -/

theorem State.takeRef_onlySlots (s : State) (h : Handle) : s.takeRef h = { s with tunes.slots := (s.takeRef h).tunes.slots } := by
  cases found : s.findTune h with
  | none =>
    unfold State.takeRef
    rw [found]
  | some x => rw [State.takeRef_named found]; rfl

/-- What the tune an action plays gives it: whether it is LIVE. -/
def State.playsLive (s : State) (a : Action) : Bool :=
  match a.kind with
  | .play h _ _ _ => (s.findTune h).any fun x => x.state == .live
  | _ => false

/-- Whether an action plays the tune of a handle. -/
def playsTune (g : Handle) (a : Action) : Bool :=
  match a.kind with
  | .play h _ _ _ => h == g
  | _ => false

theorem State.takeForAction_eq (s : State) (due : Nat) (a : Action) : s.takeForAction due a =
    (match a.kind with
      | .play h _ _ _ => if (s.findTune h).any (fun x => x.state == .live) then s.takeRef h else s
      | _ => s,
    { kind := a.kind, start := due + a.offset, phase := .waiting (s.playsLive a) }) := by
  unfold State.takeForAction State.playsLive
  cases a.kind with
  | play h transposition repeats yields =>
    dsimp only
    cases found : s.findTune h with
    | none => rw [State.takeRefusal_none found]; rfl
    | some x =>
      rw [State.takeRefusal_named found]
      by_cases live : x.state = .live
      · simp [live]
      · simp [live]
  | _ => rfl

/-- R81, R130: one PLAY action of a LIVE tune raises its count by 1, and nothing else changes. -/
theorem State.takeForAction_spec (s : State) (due : Nat) (a : Action) : let t := (s.takeForAction due a).1
    t = { s with tunes.slots := t.tunes.slots } ∧ (∀ j, (s.tuneSlot j).record = none → t.tuneSlot j = s.tuneSlot j) ∧
    ∀ g, t.findTune g = (s.findTune g).map fun x =>
      { x with refs := x.refs + if x.state = .live ∧ playsTune g a = true then 1 else 0 } := by
  rw [State.takeForAction_eq]
  have unchanged (kept : ∀ g x, s.findTune g = some x → ¬(x.state = .live ∧ playsTune g a = true)) :
      s = { s with tunes.slots := s.tunes.slots } ∧ (∀ j, (s.tuneSlot j).record = none → s.tuneSlot j = s.tuneSlot j) ∧
      ∀ g, s.findTune g = (s.findTune g).map fun x =>
        { x with refs := x.refs + if x.state = .live ∧ playsTune g a = true then 1 else 0 } :=
    ⟨rfl, fun _ _ => rfl, fun g => by
      cases found : s.findTune g with
      | none => rfl
      | some x => rw [Option.map_some, if_neg (kept g x found)]; rfl⟩
  unfold playsTune at *
  cases kind : a.kind with
  | play h transposition repeats yields =>
    rw [kind] at unchanged
    dsimp only at unchanged ⊢
    by_cases live : (s.findTune h).any (fun x => x.state == .live) = true
    · rw [if_pos live]
      obtain ⟨x, found, isLive⟩ := (Option.any_eq_true _ _).1 live
      refine ⟨s.takeRef_onlySlots h, fun j free => ?_, fun g => ?_⟩
      · rw [State.takeRef_named found, State.tuneSlot_setTuneSlot]
        refine if_neg fun same => ?_
        rw [← same.1, State.findTune_record found] at free
        cases free
      · rw [State.findTune_takeRef found]
        by_cases same : g = h
        · rw [if_pos same, same, found]
          simp [beq_iff_eq.1 isLive]
        · rw [if_neg same]
          cases s.findTune g with
          | none => rfl
          | some y => simp [Ne.symm same]
    · rw [if_neg live]
      refine unchanged fun g x found both => live ?_
      rw [beq_iff_eq.1 both.2, found]
      simpa using both.1
  | _ =>
    rw [kind] at unchanged
    exact unchanged fun _ _ _ both => Bool.false_ne_true both.2

/-- R130: the action list is copied with its start instants, and each PLAY action of a LIVE tune takes a reference. -/
theorem takeActions_spec (due : Nat) (l : List Action) (s : State) : let t := (takeActions due l s).1
    t = { s with tunes.slots := t.tunes.slots } ∧ (∀ j, (s.tuneSlot j).record = none → t.tuneSlot j = s.tuneSlot j) ∧
    (∀ g, t.findTune g = (s.findTune g).map fun x =>
      { x with refs := x.refs + if x.state = .live then l.countP (playsTune g) else 0 }) ∧
    (takeActions due l s).2 = l.map fun a => { kind := a.kind, start := due + a.offset, phase := .waiting (s.playsLive a) } := by
  induction l generalizing s with
  | nil =>
    refine ⟨rfl, fun _ _ => rfl, fun g => ?_, rfl⟩
    have same : (fun x : Tune => { x with refs := x.refs + if x.state = .live then ([] : List Action).countP (playsTune g) else 0 })
        = id := by
      funext x
      rw [List.countP_nil, ite_self]
      rfl
    rw [same, Option.map_id]
    rfl
  | cons a rest ih =>
    obtain ⟨frame, free, named⟩ := s.takeForAction_spec due a
    obtain ⟨frame', free', named', actions⟩ := ih (s.takeForAction due a).1
    have live (b : Action) : (s.takeForAction due a).1.playsLive b = s.playsLive b := by
      unfold State.playsLive
      cases b.kind with
      | play h transposition repeats yields =>
        dsimp only
        rw [named]
        cases s.findTune h <;> rfl
      | _ => rfl
    refine ⟨frame'.trans (congrArg (fun v : State => { v with tunes.slots := (takeActions due rest (s.takeForAction due a).1).1.tunes.slots })
      frame), fun j record => ?_, fun g => ?_, ?_⟩
    · exact (free' j (by rw [free j record]; exact record)).trans (free j record)
    · refine (named' g).trans ?_
      rw [named, Option.map_map]
      congr 1
      funext x
      by_cases isLive : x.state = .live
      · simp [isLive, List.countP_cons, Nat.add_comm, Nat.add_left_comm]
      · simp [isLive]
    · exact congrArg₂ (· :: ·) (congrArg Prod.snd (s.takeForAction_eq due a))
        (actions.trans (List.map_congr_left fun b _ => by rw [live]))

/-! ## Firing (R130) -/

theorem State.withNextDue_notArmed (s : State) (other : o.state ≠ .armed) :
    s.withNextDue o = { o with due := s.nextDue o.config o.lastFired, waiting := false } := by
  unfold State.withNextDue
  dsimp only
  rw [if_neg fun yes => other yes.1]

/-- The state an occasion that fires leaves before its first action starts. -/
def State.fired (s : State) (i k : Nat) (o : Occasion) (due : Nat) : State :=
  let taken := takeActions due o.config.actions s
  let held := taken.1.setContext k (some { occasion := { slot := i, gen := (s.occasionSlot i).gen }, due := due, actions := taken.2 })
  held.putOccasion i (held.withNextDue
    { o with lastFired := some due, outcome := o.config.actions.map fun _ => Outcome.plain .pending, state := .firing, context := some k })

theorem State.fire_eq (s : State) (i k : Nat) (o : Occasion) (due : Nat) : s.fire i k o due = (s.fired i k o due).startDueActions k := rfl

/-- What putting a context and a record changes in a state whose tune slots alone have changed. -/
theorem State.placed_frame (frame : t = { s with tunes.slots := t.tunes.slots }) (k i : Nat) (c : Option Context) (y : Slot Occasion) :
    let u := ((t.setContext k c).setOccasionSlot i y).store (.occasion i)
    u = { s with
      calendar.slots := u.calendar.slots, calendar.contexts := u.calendar.contexts, tunes.slots := u.tunes.slots
      memory.writes := s.memory.writes ++ [{ effect := .stored (.occasion i), response := none }] } := by
  rw [frame]
  rfl

/-- R130: an occasion that is ARMED, or waits, fires into a free context. -/
theorem State.fired_into (lt : i < 256) (bound : k < 8) (record : (s.occasionSlot i).record = some o) 
    (stale : o.state = .armed ∨ o.waiting = true) : s.FiredInto (s.fired i k o d.instant) i k o d := by
  obtain ⟨frame, free, named, actions⟩ := takeActions_spec d.instant o.config.actions s
  let taken := takeActions d.instant o.config.actions s
  let held := taken.1.setContext k
    (some { occasion := { slot := i, gen := (s.occasionSlot i).gen }, due := d.instant, actions := taken.2 })
  let next := held.withNextDue { o with
    lastFired := some d.instant, outcome := o.config.actions.map fun _ => Outcome.plain .pending, state := .firing, context := some k }
  have calendar : taken.1.calendar = s.calendar := takeActions_calendar _ _ _
  have slots (j : Nat) : held.occasionSlot j = s.occasionSlot j := State.occasionSlot_of_calendar (t := taken.1) calendar j
  have due : held.nextDue o.config (some d.instant) = s.nextDue o.config (some d.instant) :=
    State.nextDue_congr (t := held) (s := s) (congrArg State.time frame :) (congrArg Calendar.duskTable calendar :)
      (congrArg Calendar.confirmed calendar :) _ _
  have next_eq : next = { o with
      lastFired := some d.instant, due := s.nextDue o.config (some d.instant), waiting := false, state := .firing, context := some k
      outcome := o.config.actions.map fun _ => Outcome.plain .pending } := by
    rw [← due]
    exact State.withNextDue_notArmed held nofun
  have new : next ≠ o := fun same => by
    rcases stale with armed | waiting
    · have firing := congrArg Occasion.state next_eq
      rw [same, armed] at firing
      cases firing
    · have idle := congrArg Occasion.waiting next_eq
      rw [same, waiting] at idle
      cases idle
  have put : s.fired i k o d.instant = (held.setOccasionSlot i { gen := (s.occasionSlot i).gen, record := some next }).store (.occasion i) := by
    rw [← slots i]
    exact State.putOccasion_new ((congrArg Slot.record (slots i)).trans record) new
  have bound' : k < Config.contexts := bound
  rw [put]
  refine ⟨?_, ?_, fun j other => ?_, ?_, fun j other => ?_, fun j empty => free j empty, fun h x found => ?_⟩
  · exact State.placed_frame frame k i _ _
  · refine (State.occasionSlot_setOccasionSlot_same held i _ lt).trans ?_
    rw [next_eq]
    rfl
  · exact (State.occasionSlot_setOccasionSlot_other held i j _ (Ne.symm other)).trans (slots j)
  · refine (State.context_setContext_same taken.1 k _ bound').trans ?_
    rw [actions]
    rfl
  · exact (State.context_setContext_other taken.1 k j _ (Ne.symm other)).trans (State.context_of_calendar calendar j)
  · refine (named h).trans ?_
    rw [found]
    rfl

end Sys2Proof.Machine
end

section
/-! Dues reached, waiting and MISSED (R128, R129), and contexts freed and taken at the end of a command (R136). -/

namespace Sys2Proof.Machine

variable {s t u : State} {o x : Occasion} {d : Due} {i j k n : Nat} {c : Context} {rest : List (Nat × Occasion)}

/-! ## Free contexts (R129) -/

theorem State.freeContext_some (bound : k < 8) (free : s.context k = none) (lowest : ∀ j, j < k → s.context j ≠ none) :
    s.freeContext = some k := by
  refine List.find?_range_eq_some.2 ⟨by rw [free]; rfl, List.mem_range.2 bound, fun j lt => ?_⟩
  simpa [Option.isSome_iff_ne_none] using lowest j lt

theorem State.freeContext_none (held : ∀ k, k < 8 → s.context k ≠ none) : s.freeContext = none :=
  List.find?_eq_none.2 fun k mem => by simpa using held k (List.mem_range.1 mem)

theorem State.doneContext_some (bound : k < 8) (stands : s.context k = some c) (done : ∀ a ∈ c.actions, a.phase = .done)
    (lowest : ∀ j x, j < k → s.context j = some x → ∃ a ∈ x.actions, a.phase ≠ .done) : s.doneContext = some k := by
  refine List.find?_range_eq_some.2 ⟨by rw [stands]; exact c.isDone_iff.2 done, List.mem_range.2 bound, fun j lt => ?_⟩
  cases held : s.context j with
  | none => rfl
  | some x =>
    obtain ⟨a, mem, undone⟩ := lowest j x lt held
    rw [Bool.not_eq_true']
    exact Bool.eq_false_iff.2 fun done => undone (x.isDone_iff.1 done a mem)

/-! ## What reaching a due does (R129) -/

theorem Occasion.gracePassed_due (due : o.due = some d) (now : Nat) :
    o.gracePassed now = true ↔ d.instant + o.config.grace * 60 < now := by
  rw [Occasion.gracePassed_iff, due]
  exact ⟨fun ⟨_, same, late⟩ => by cases same; exact late, fun late => ⟨d, rfl, late⟩⟩

section
variable (record : (s.occasionSlot i).record = some o) (due : o.due = some d)
include record due

theorem State.reach_misses (missed : o.state = .firing ∨ (o.state = .armed ∧ o.gracePassed s.time.standard = true)) :
    s.reach i = s.missOccasion i o := by
  unfold State.reach
  rw [record]
  dsimp only
  rw [due]
  dsimp only
  rcases missed with firing | ⟨armed, late⟩
  · rw [if_pos firing]
  · rw [if_neg (by rw [armed]; nofun), if_pos armed, if_pos late]

section
variable (armed : o.state = .armed) (early : ¬o.gracePassed s.time.standard = true)
include armed early

theorem State.reach_armed_free (free : s.freeContext = some k) : s.reach i = s.fire i k o d.instant := by
  unfold State.reach
  rw [record]
  dsimp only
  rw [due]
  dsimp only
  rw [if_neg (by rw [armed]; nofun), if_pos armed, if_neg early, free]

theorem State.reach_armed_held (held : s.freeContext = none) : s.reach i = s.setWaiting i o := by
  unfold State.reach
  rw [record]
  dsimp only
  rw [due]
  dsimp only
  rw [if_neg (by rw [armed]; nofun), if_pos armed, if_neg early, held]

end

theorem State.reach_other (unarmed : o.state ≠ .armed) (unfired : o.state ≠ .firing) : s.reach i = s := by
  unfold State.reach
  rw [record]
  dsimp only
  rw [due]
  dsimp only
  rw [if_neg unfired, if_neg unarmed]

end

theorem State.startIfDue_early (early : ∀ c a holds, s.context k = some c → c.actions[j]? = some a → a.phase = .waiting holds →
    s.time.standard < a.start) : s.startIfDue k j = s := by
  unfold State.startIfDue
  split
  · rfl
  next c stands =>
    split
    next a o action found =>
      split
      next holds waiting => exact if_neg (Nat.not_le.2 (early c a holds stands action waiting))
      · rfl
      · rfl
    · rfl

theorem State.startDueActions_early (early : ∀ c, s.context k = some c → ∀ a ∈ c.actions, ∀ holds, a.phase = .waiting holds →
    s.time.standard < a.start) : s.startDueActions k = s :=
  eachIndex_fixed (fun _ => State.startIfDue_early fun c a holds stands action =>
    early c stands a (List.mem_of_getElem? action) holds) 4

/-! ## Settled states -/

/-- An occasion that is MISSED frees no context and leaves none waiting anew. -/
theorem State.missOccasion_settled (i : Nat) (o : Occasion) (settled : s.Settled) : (s.missOccasion i o).Settled := by
  have context (m : Nat) : (s.missOccasion i o).context m = s.context m := State.putOccasion_context s i _ m
  refine ⟨State.doneContext_none_iff.2 fun m => by rw [context]; exact State.doneContext_none_iff.1 settled.1 m,
    settled.2.imp (fun held => ?_) fun unwaited => ?_⟩
  · unfold State.freeContext at held ⊢
    simpa only [context] using held
  · exact (Held.after (t := s.putOccasion i (s.withNextDue { o with missed := min 255 (o.missed + 1) })) (.of_calendar rfl)
      (s.putOccasion_held i _ nofun)).unwaited unwaited

/-- R129: once the last occasion that waits is MISSED none waits. -/
theorem State.missOccasion_last (o : Occasion) (lt : i < 256) (undone : s.doneContext = none)
    (others : ∀ j x, j < 256 → j ≠ i → (s.occasionSlot j).record = some x → x.waiting = false) : (s.missOccasion i o).Settled := by
  let next := s.withNextDue { o with missed := min 255 (o.missed + 1) }
  have context (m : Nat) : (s.missOccasion i o).context m = s.context m := State.putOccasion_context s i next m
  refine ⟨State.doneContext_none_iff.2 fun m => by rw [context]; exact State.doneContext_none_iff.1 undone m,
    .inr (State.firstWaiting_none_iff.2 fun j => Bool.eq_false_iff.2 fun waits => ?_)⟩
  have waits : (s.putOccasion i next).waitsAt j = true := waits
  by_cases same : j = i
  · rw [same, State.putOccasion_waitsAt s lt] at waits
    cases waits
  · have waited := (s.putOccasion_held i next nofun).waits j waits
    obtain ⟨x, record, waiting⟩ := (Option.any_eq_true _ _).1 waited
    have bound : j < 256 := Nat.lt_of_not_le fun outside => by
      have blank : s.occasionSlot j = ⟨0, none⟩ := getD_of_ge_vector _ outside _
      rw [blank] at record
      cases record
    rw [others j x bound same record] at waiting
    cases waiting

namespace State.FiredInto

variable (fired : s.FiredInto u i k o d)
include fired

theorem waits (waiting : u.waitsAt j = true) : s.waitsAt j = true := by
  by_cases same : j = i
  · rw [same, State.waitsAt, fired.slot] at waiting
    cases waiting
  · rwa [State.waitsAt, fired.slots j same] at waiting

theorem time : u.time = s.time := (congrArg State.time fired.rest :)

theorem early (later : ∀ a ∈ o.config.actions, s.time.standard < d.instant + a.offset) : u.startDueActions k = u :=
  State.startDueActions_early fun c stands b mem holds _ => by
    rw [fired.context] at stands
    cases stands
    obtain ⟨a, mem', rfl⟩ := List.mem_map.1 mem
    rw [fired.time]
    exact later a mem'

/-- R136: a context whose actions wait to start is not to be freed. -/
theorem settled (undone : s.doneContext = none) (some_action : o.config.actions ≠ [])
    (rest : (∀ j, j < 8 → j ≠ k → s.context j ≠ none) ∨ s.firstWaiting = none) : u.Settled := by
  refine ⟨State.doneContext_none_iff.2 fun m => ?_, rest.imp (fun held => ?_) fun unwaited => ?_⟩
  · by_cases same : m = k
    · rw [same, fired.context]
      refine Bool.eq_false_iff.2 fun done => ?_
      obtain ⟨a, mem⟩ := List.exists_mem_of_ne_nil _ some_action
      cases (Context.isDone_iff _).1 done _ (List.mem_map_of_mem mem)
    · rw [fired.contexts m same]
      exact State.doneContext_none_iff.1 undone m
  · refine State.freeContext_none fun m lt => ?_
    by_cases same : m = k
    · rw [same, fired.context]
      nofun
    · rw [fired.contexts m same]
      exact held m lt same
  · exact State.firstWaiting_of_waits (fun j => fired.waits) unwaited

end State.FiredInto

/-! ## The settling of contexts (R129, R136) -/

theorem State.settleContexts_releases (done : s.doneContext = some k) : s.settleContexts = (s.releaseContext k).settleContexts := by
  rw [← settleLoop_settles (s.releaseContext k), State.settleContexts, show (1024 : Nat) = 1023 + 1 from rfl, settleLoop, done]

theorem State.settleContexts_offers (undone : s.doneContext = none) (free : s.freeContext = some k)
    (waits : s.firstWaiting = some (i, o)) : s.settleContexts = (s.offerContext k).settleContexts := by
  rw [← settleLoop_settles (s.offerContext k), State.settleContexts, show (1024 : Nat) = 1023 + 1 from rfl, settleLoop, undone]
  dsimp only
  rw [free, waits]

theorem State.offerContext_eq (waits : s.firstWaiting = some (i, o)) (due : o.due = some d) (k : Nat) : s.offerContext k =
    if o.gracePassed s.time.standard then s.missOccasion i o else s.fire i k o d.instant := by
  unfold State.offerContext
  rw [waits]
  dsimp only
  rw [due]

/-- R129: the occasion that stands ahead of every other that waits. -/
theorem State.firstWaiting_some (lt : i < 256) (record : (s.occasionSlot i).record = some o) (due : o.due = some d)
    (waiting : o.waiting = true) (first : ∀ j x y, j < 256 → j ≠ i → (s.occasionSlot j).record = some x → x.waiting = true →
      x.due = some y → o.dueAheadOf i d x j y) : s.firstWaiting = some (i, o) := by
  obtain ⟨rest, list⟩ := State.occasionsWhere_first (s := s) (test := fun o => o.waiting && o.due.isSome)
    (fun o pass => (Bool.and_eq_true_iff.1 pass).2) lt record (by rw [waiting, due]; rfl) due
    fun j x y lt other record pass => first j x y lt other record (Bool.and_eq_true_iff.1 pass).1
  rw [State.firstWaiting, list]
  rfl

/-- R136: what the occasion of a freed context becomes. -/
theorem State.releaseContext_spec (stands : s.context k = some c) : let freed := s.setContext k none
    (s.findOccasion c.occasion = none → s.releaseContext k = freed) ∧
    ∀ o, s.findOccasion c.occasion = some o →
      let put (r : Option Occasion) : State :=
        (freed.setOccasionSlot c.occasion.slot { gen := c.occasion.gen, record := r }).store (.occasion c.occasion.slot)
      (o.state = .retiring → s.releaseContext k = put none) ∧
      (o.state ≠ .retiring → o.left ≠ o → s.releaseContext k = put (some o.left)) ∧
      (o.state ≠ .retiring → o.left = o → s.releaseContext k = freed) := by
  intro freed
  rw [State.releaseContext_eq stands]
  refine ⟨fun none => State.leaveContext_none (s := freed) none, fun o found => ⟨fun retiring => ?_, fun live new => ?_,
    fun live same => ?_⟩⟩
  · rw [State.leaveContext_retiring (s := freed) found retiring]
    exact State.freeOccasion_named (s := freed) found
  · rw [State.leaveContext_eq (s := freed) found live,
      State.putOccasion_new (s := freed) (State.findOccasion_named (s := freed) found).2.2 new, ← (State.findOccasion_named (s := freed) found).2.1]
  · rw [State.leaveContext_eq (s := freed) found live, same]
    exact State.putOccasion_kept (State.findOccasion_named (s := freed) found).2.2

/-! ## DUE_REACHED and GRACE_EXPIRY (R129) -/

theorem exec_dueReached (mains : s.time.power = .mains) (dt : Nat) : exec (.dueReached dt) s
    = .next (s.elapse dt).reachFirst.settleContexts := happen_mains dt mains

theorem exec_graceExpiry (mains : s.time.power = .mains) (dt : Nat) : exec (.graceExpiry dt) s
    = .next (s.elapse dt).expireGrace.settleContexts := happen_mains dt mains

theorem State.reachFirst_of (lt : i < 256) (record : (s.occasionSlot i).record = some o) (due : o.due = some d)
    (come : d.instant ≤ s.time.standard) (idle : o.waiting = false)
    (first : ∀ j x, j < 256 → j ≠ i → (s.occasionSlot j).record = some x → x.waiting = true ∨
      ∀ y, x.due = some y → s.time.standard < y.instant ∨ o.dueAheadOf i d x j y) : s.reachFirst = s.reach i := by
  obtain ⟨rest, list⟩ := State.occasionsWhere_first (s := s) (test := fun o => o.isReached s.time.standard && !o.waiting)
    (fun o pass => by
      obtain ⟨d, due, -⟩ := Occasion.isReached_iff.1 (Bool.and_eq_true_iff.1 pass).1
      rw [due]
      rfl) lt record (by rw [idle, Occasion.isReached_iff.2 ⟨d, due, come⟩]; rfl) due fun j x y lt other record pass due' => by
        obtain ⟨reached, idle'⟩ := Bool.and_eq_true_iff.1 pass
        obtain ⟨z, same, come'⟩ := Occasion.isReached_iff.1 reached
        rw [due'] at same
        cases same
        rcases first j x lt other record with waits | ahead
        · rw [waits] at idle'
          cases idle'
        · exact (ahead y due').resolve_left (Nat.not_lt.2 come')
  unfold State.reachFirst
  rw [list]

theorem State.reachFirst_none (none : ∀ j x, j < 256 → (s.occasionSlot j).record = some x →
    x.waiting = true ∨ ∀ y, x.due = some y → s.time.standard < y.instant) : s.reachFirst = s := by
  unfold State.reachFirst
  rw [State.occasionsWhere_none fun j x lt record pass => ?_]
  obtain ⟨reached, idle⟩ := Bool.and_eq_true_iff.1 pass
  obtain ⟨z, due, come⟩ := Occasion.isReached_iff.1 reached
  rcases none j x lt record with waits | later
  · rw [waits] at idle
    cases idle
  · exact Nat.not_lt.2 come (later z due)

theorem State.expireGrace_of (lt : i < 256) (record : (s.occasionSlot i).record = some o) (due : o.due = some d)
    (waiting : o.waiting = true) (late : o.gracePassed s.time.standard = true)
    (first : ∀ j x y, j < 256 → j ≠ i → (s.occasionSlot j).record = some x → x.waiting = true → x.due = some y →
      y.instant + x.config.grace * 60 < s.time.standard → o.dueAheadOf i d x j y) : s.expireGrace = s.missOccasion i o := by
  obtain ⟨rest, list⟩ := State.occasionsWhere_first (s := s) (test := fun o => o.waiting && o.gracePassed s.time.standard)
    (fun o pass => by
      obtain ⟨d, due, -⟩ := Occasion.gracePassed_iff.1 (Bool.and_eq_true_iff.1 pass).2
      rw [due]
      rfl) lt record (by rw [waiting, late]; rfl) due fun j x y lt other record pass due' =>
        first j x y lt other record (Bool.and_eq_true_iff.1 pass).1 due'
          ((Occasion.gracePassed_due due' _).1 (Bool.and_eq_true_iff.1 pass).2)
  unfold State.expireGrace
  rw [list]

theorem State.expireGrace_none (none : ∀ j x y, j < 256 → (s.occasionSlot j).record = some x → x.waiting = true → x.due = some y →
    s.time.standard ≤ y.instant + x.config.grace * 60) : s.expireGrace = s := by
  unfold State.expireGrace
  rw [State.occasionsWhere_none fun j x lt record pass => ?_]
  obtain ⟨waiting, late⟩ := Bool.and_eq_true_iff.1 pass
  obtain ⟨y, due, passed⟩ := Occasion.gracePassed_iff.1 late
  exact Nat.not_lt.2 (none j x y lt record waiting due) passed

end Sys2Proof.Machine
end

section
/-! R128 to R131: what becomes of a due that is reached. -/

namespace Sys2Proof.Machine

variable {s : State} {o : Occasion} {d : Due} {i k : Nat}

/-- R130: an ARMED occasion within its grace fires into the lowest free context. -/
theorem State.reach_fires (lt : i < 256) (record : (s.occasionSlot i).record = some o) (due : o.due = some d) (armed : o.state = .armed)
    (early : ¬o.gracePassed s.time.standard = true) (bound : k < 8) (free : s.context k = none)
    (lowest : ∀ j, j < k → s.context j ≠ none) :
    s.FiredInto (s.fired i k o d.instant) i k o d ∧ s.reach i = (s.fired i k o d.instant).startDueActions k := by
  refine ⟨State.fired_into lt bound record (.inl armed), ?_⟩
  rw [State.reach_armed_free record due armed early (State.freeContext_some bound free lowest)]
  exact s.fire_eq i k o d.instant

/-- Settles O48: the reaching of one due, the resume after a reset, the settling of contexts, and the two events. -/
theorem duesFireWaitOrAreMissed : Obligations.DuesFireWaitOrAreMissed := by
  unfold Obligations.DuesFireWaitOrAreMissed
  intro late missed lowestFree
  have late_iff {s : State} {o : Occasion} {d : Due} (due : o.due = some d) : o.gracePassed s.time.standard = true ↔ late s o d :=
    Occasion.gracePassed_due due _
  have late_come {s : State} {o : Occasion} {d : Due} (passed : late s o d) : d.instant ≤ s.time.standard :=
    (Nat.le_add_right _ _).trans (Nat.le_of_lt passed)
  have misses {s : State} {i : Nat} {o : Occasion} {d : Due} (record : (s.occasionSlot i).record = some o) (due : o.due = some d)
      (come : d.instant ≤ s.time.standard) : s.missOccasion i o = missed s i o := State.missOccasion_eq record due come
  refine ⟨fun s i o d lt record due => ⟨fun come how => ?_, fun armed early held => ?_, fun k armed early free => ?_,
    State.reach_other record due⟩, fun s kept l order => ?_, fun s => ⟨State.settleContexts_settled, fun k c bound stands done lowest => ?_,
    fun i k o d undone free lt record due waiting first => ⟨fun passed => ?_, fun early => ?_⟩⟩, fun s dt i o d mains lt record due => ?_⟩
  · rw [State.reach_misses record due (how.imp_right fun h => ⟨h.1, (late_iff due).2 h.2⟩)]
    exact misses record due come
  · exact State.reach_armed_held record due armed (mt (late_iff due).1 early) (State.freeContext_none held)
  · exact ⟨_, State.reach_fires lt record due armed (mt (late_iff due).1 early) free.1 free.2.1 free.2.2⟩
  · unfold State.resume State.reachHeld
    rw [State.reachedSlots_eq order]
  · obtain ⟨gone, stays⟩ := State.releaseContext_spec stands
    refine ⟨State.settleContexts_releases (State.doneContext_some bound stands done lowest), gone, fun o found => ?_⟩
    intro put left
    have left_eq : left = o.left := by
      unfold left Occasion.left
      cases o.due <;> rfl
    rw [left_eq]
    exact stays o found
  · have waits := State.firstWaiting_some lt record due waiting first
    have served : s.settleContexts = (missed s i o).settleContexts := by
      rw [State.settleContexts_offers undone (State.freeContext_some free.1 free.2.1 free.2.2) waits,
        State.offerContext_eq waits due, if_pos ((late_iff due).2 passed), misses record due (late_come passed)]
    refine ⟨served, fun others => served.trans ?_⟩
    rw [← misses record due (late_come passed)]
    exact State.settleContexts_settled (State.missOccasion_last o lt undone others)
  · have waits := State.firstWaiting_some lt record due waiting first
    have fired := State.fired_into (d := d) lt free.1 record (.inr waiting)
    have served : s.settleContexts = ((s.fired i k o d.instant).startDueActions k).settleContexts := by
      rw [State.settleContexts_offers undone (State.freeContext_some free.1 free.2.1 free.2.2) waits,
        State.offerContext_eq waits due, if_neg (mt (late_iff due).1 early), State.fire_eq]
    refine ⟨_, fired, served, fun held actions later => served.trans ?_⟩
    rw [fired.early later, State.settleContexts_settled (fired.settled undone actions (.inl held))]
  · intro e
    have missedSettled (settled : s.Settled) (come : d.instant ≤ s.time.standard) : (missed e i o).settleContexts = missed e i o := by
      rw [← misses (s := e) record due come]
      exact State.settleContexts_settled (State.missOccasion_settled (s := e) i o settled)
    refine ⟨fun come idle first => ?_, fun settled => ⟨fun waiting passed first => ?_, fun none => ?_, fun none => ?_⟩⟩
    · have reached : exec (.dueReached dt) s = .next (e.reach i).settleContexts := by
        rw [exec_dueReached mains, State.reachFirst_of (s := e) lt record due come idle first]
      refine ⟨reached, fun settled => ⟨fun how => ?_, fun armed early held => ?_⟩, fun k armed early free => ?_⟩
      · rw [reached, State.reach_misses (s := e) record due (how.imp_right fun h => ⟨h.1, (late_iff due).2 h.2⟩),
          misses (s := e) record due come, missedSettled settled come]
      · rw [reached, State.reach_armed_held (s := e) record due armed (mt (late_iff due).1 early) (State.freeContext_none (s := e) held)]
        exact congrArg Host.Outcome.next (State.settleContexts_settled ⟨settled.1, .inl (State.freeContext_none held)⟩)
      · obtain ⟨fired, starts⟩ := State.reach_fires (s := e) lt record due armed (mt (late_iff due).1 early) free.1 free.2.1 free.2.2
        refine ⟨_, fired, by rw [reached, starts], fun settled actions later => ?_⟩
        have unwaited : s.firstWaiting = none := settled.2.resolve_left fun none => by
          rw [State.freeContext_some free.1 free.2.1 free.2.2] at none
          cases none
        rw [reached, starts, fired.early later, State.settleContexts_settled (fired.settled settled.1 actions (.inr unwaited))]
    · rw [exec_graceExpiry mains, State.expireGrace_of (s := e) lt record due waiting ((late_iff due).2 passed) first,
        misses (s := e) record due (late_come passed), missedSettled settled (late_come passed)]
    · rw [exec_graceExpiry mains, State.expireGrace_none (s := e) none]
      exact congrArg Host.Outcome.next (State.settleContexts_of_calendar settled rfl)
    · rw [exec_dueReached mains, State.reachFirst_none (s := e) none]
      exact congrArg Host.Outcome.next (State.settleContexts_of_calendar settled rfl)

end Sys2Proof.Machine
end

section
/-! An action of a context that starts (R132): what its start makes of its place and of its outcome entry, and what the end of the
command then makes of its context and its occasion (R136). -/

namespace Sys2Proof.Machine

/-- An action in its place in a context that stands, with the context's occasion. -/
structure Acting (s : State) (k j : Nat) (c : Context) (a : ContextAction) (o : Occasion) : Prop where
  stands : s.context k = some c
  action : c.actions[j]? = some a
  occasion : s.findOccasion c.occasion = some o

/-- `u` follows `s` with the action's phase and its occasion's outcome as given, the other actions, contexts and occasions as they
were, and no occasion waiting anew. -/
structure ActionPut (s : State) (k j : Nat) (c : Context) (a : ContextAction) (o : Occasion) (phase : ActionPhase)
    (outcome : List Outcome) (u : State) : Prop where
  context : u.context k = some { c with actions := c.actions.set j { a with phase := phase } }
  contexts : ∀ i, i ≠ k → u.context i = s.context i
  occasion : u.findOccasion c.occasion = some { o with outcome := outcome }
  slots : ∀ i, i ≠ c.occasion.slot → u.occasionSlot i = s.occasionSlot i
  held : Held s u

variable {s t u v : State} {k j n : Nat} {c : Context} {a : ContextAction} {o : Occasion} {phase : ActionPhase} {outcome : List Outcome}

/-- R136: the last action of a context frees it, and its occasion, not RETIRING, leaves it. -/
theorem ActionReported.settle_live {t : State} (r : ActionReported k c o t) (all : ∀ x ∈ c.actions, x.phase = .done)
    (live : o.state ≠ .retiring) : t.settleContexts.context k = none ∧ t.settleContexts.findOccasion c.occasion = some o.left := by
  have done : t.doneContext = some k :=
    State.doneContext_single (by rw [r.context]; exact c.isDone_iff.2 all) r.others
  have released : t.releaseContext k = (t.setContext k none).putOccasion c.occasion.slot o.left := by
    rw [State.releaseContext_eq r.context]
    exact State.leaveContext_eq (s := t.setContext k none) r.occasion live
  have context (m : Nat) : (t.releaseContext k).context m = if k = m then none else t.context m := by
    rw [released, State.putOccasion_context, State.context_setContext]
    exact if_congr (and_iff_left (State.context_lt r.context)) rfl rfl
  have undone : (t.releaseContext k).doneContext = none := State.doneContext_none_iff.2 fun m => by
    rw [context]
    split
    next => rfl
    next other => exact r.others m (Ne.symm other)
  have unwaited := State.firstWaiting_of_waits (t.releaseContext_released k).waits r.unwaited
  rw [State.settleContexts_single done ⟨undone, .inr unwaited⟩]
  refine ⟨(context k).trans (if_pos rfl), ?_⟩
  rw [released]
  exact (State.findOccasion_putOccasion (s := t.setContext k none) r.occasion _ _).trans (if_pos rfl)

/-! ## The operations of a start -/

theorem State.occasionSlot_setPhase (s : State) (k j : Nat) (p : ActionPhase) (i : Nat) :
    (s.setPhase k j p).occasionSlot i = s.occasionSlot i := by
  unfold State.setPhase
  split
  · rfl
  · split <;> rfl

theorem State.occasionSlot_setOutcome (stands : s.context k = some c) (j : Nat) (x : Outcome) {i : Nat} (other : i ≠ c.occasion.slot) :
    (s.setOutcome k j x).occasionSlot i = s.occasionSlot i := by
  unfold State.setOutcome
  rw [stands]
  dsimp only
  split
  · rfl
  · rw [State.raiseIf_frame]
    exact State.putOccasion_other s _ (Ne.symm other)

theorem Acting.start (h : Acting s k j c a o) : ActionPut s k j c a o a.phase o.outcome s where
  context := by
    obtain ⟨lt, rfl⟩ := List.getElem?_eq_some_iff.1 h.action
    rw [h.stands]
    exact congrArg (fun l => some { c with actions := l }) (List.set_getElem_self lt).symm
  contexts _ _ := rfl
  occasion := h.occasion
  slots _ _ := rfl
  held := .refl s

theorem Acting.of_calendar (h : Acting s k j c a o) (same : u.calendar = s.calendar) : Acting u k j c a o where
  stands := (State.context_of_calendar same k).trans h.stands
  action := h.action
  occasion := (State.findOccasion_of_calendar same _).trans h.occasion

namespace ActionPut

section
variable (h : ActionPut s k j c a o phase outcome u)
include h

theorem of_calendar (same : v.calendar = u.calendar) : ActionPut s k j c a o phase outcome v where
  context := (State.context_of_calendar same k).trans h.context
  contexts i other := (State.context_of_calendar same i).trans (h.contexts i other)
  occasion := (State.findOccasion_of_calendar same _).trans h.occasion
  slots i other := (State.occasionSlot_of_calendar same i).trans (h.slots i other)
  held := h.held.trans (.of_calendar same)

theorem setOutcome (x : Outcome) : ActionPut s k j c a o phase (outcome.set j x) (u.setOutcome k j x) where
  context := (State.setOutcome_context u k j x k).trans h.context
  contexts i other := (State.setOutcome_context u k j x i).trans (h.contexts i other)
  occasion := (State.findOccasion_setOutcome h.context h.occasion j x _).trans (if_pos rfl)
  slots i other := (State.occasionSlot_setOutcome h.context j x other).trans (h.slots i other)
  held := h.held.trans (u.setOutcome_held k j x)

theorem setPhase (action : c.actions[j]? = some a) (p : ActionPhase) : ActionPut s k j c a o p outcome (u.setPhase k j p) := by
  have placed : (c.actions.set j { a with phase := phase })[j]? = some { a with phase := phase } :=
    List.getElem?_set_self (List.getElem?_eq_some_iff.1 action).1
  have context (i : Nat) := State.context_setPhase h.context placed p i
  refine ⟨(context k).trans ((if_pos rfl).trans ?_), fun i other => ?_, ?_, fun i other => ?_, h.held.trans (u.setPhase_held k j p)⟩
  · rw [List.set_set]
  · exact (context i).trans ((if_neg (Ne.symm other)).trans (h.contexts i other))
  · exact (State.findOccasion_setPhase u k j p _).trans h.occasion
  · exact (State.occasionSlot_setPhase u k j p i).trans (h.slots i other)

theorem finishAction (action : c.actions[j]? = some a) (x : Outcome) :
    ActionPut s k j c a o .done (outcome.set j x) (u.finishAction k j x) := (h.setOutcome x).setPhase action .done

/-- R135: what a report makes of the action. -/
theorem reportToAction (action : c.actions[j]? = some a) (n : Nat) (r : EntryReport) (m : Nat) (d : Bool) :
    ActionPut s k j c a o (r.phaseTold n phase) (outcome.set j (r.told m d)) (u.reportToAction k j n r m d) := by
  cases r with
  | queued => exact (h.setPhase action _).setOutcome _
  | started => exact h.setOutcome _
  | _ => exact h.finishAction action _

/-! ## The end of the command (R136) -/

variable (undone : s.doneContext = none) (unwaited : s.firstWaiting = none)
include undone unwaited

theorem reported : ActionReported k { c with actions := c.actions.set j { a with phase := phase } } { o with outcome := outcome } u where
  unwaited := h.held.unwaited unwaited
  others i other := by
    rw [h.contexts i other]
    exact State.doneContext_none_iff.1 undone i
  context := h.context
  occasion := h.occasion

/-- The context is kept while an action of it, this one or another, is not DONE. -/
theorem settle_left (action : c.actions[j]? = some a)
    (left : phase ≠ .done ∨ ∃ i b, i ≠ j ∧ c.actions[i]? = some b ∧ b.phase ≠ .done) : u.settleContexts = u := by
  refine (h.reported undone unwaited).settle_left ?_
  rcases left with active | ⟨i, b, other, found, active⟩
  · exact ⟨_, List.mem_of_getElem? (List.getElem?_set_self (List.getElem?_eq_some_iff.1 action).1), active⟩
  · exact ⟨b, List.mem_of_getElem? ((List.getElem?_set_ne (Ne.symm other)).trans found), active⟩

/-- R136: with every action DONE the context is freed, and the occasion leaves it. -/
theorem settle_freed (ended : phase = .done) (all : ∀ i b, i ≠ j → c.actions[i]? = some b → b.phase = .done)
    (live : o.state ≠ .retiring) : u.settleContexts = { u with calendar := u.settleContexts.calendar, memory := u.settleContexts.memory } ∧
      u.settleContexts.context k = none ∧ u.settleContexts.findOccasion c.occasion = some { o with outcome := outcome }.left := by
  have reported := h.reported undone unwaited
  refine ⟨(State.settleContexts_released reported.unwaited).frame, reported.settle_live (fun b mem => ?_) live⟩
  obtain ⟨i, found⟩ := List.mem_iff_getElem?.1 mem
  dsimp only at found
  rw [List.getElem?_set] at found
  split at found
  next => split at found <;> cases found; exact ended
  next other => exact all i b (Ne.symm other) found

end

end ActionPut

end Sys2Proof.Machine
end

section
/-! Which action an ACTION_START starts (R132), and the start of a TOLL and of a SWING action (R133). -/

namespace Sys2Proof.Machine

variable {s u : State} {k j n : Nat} {c : Context} {a : ContextAction} {o : Occasion} {holds : Bool}

/-! ## The first action that is due (R132) -/

theorem State.startIfDue_due (h : Acting s k j c a o) (waiting : a.phase = .waiting holds) (come : a.start ≤ s.time.standard) :
    s.startIfDue k j = s.startAction c o k j a holds := by
  unfold State.startIfDue
  rw [h.stands]
  dsimp only
  rw [h.action, h.occasion]
  dsimp only
  rw [waiting]
  exact if_pos come

/-- Whether the action at a place waits with its start instant come. -/
def Context.isDueAt (c : Context) (now i : Nat) : Bool :=
  match c.actions[i]? with
  | some a => (match a.phase with | .waiting _ => a.start ≤ now | .active _ => false | .done => false)
  | none => false

theorem Context.isDueAt_iff {now i : Nat} : c.isDueAt now i = true ↔
    ∃ a holds, c.actions[i]? = some a ∧ a.phase = .waiting holds ∧ a.start ≤ now := by
  unfold Context.isDueAt
  cases action : c.actions[i]? with
  | none => exact iff_of_false nofun nofun
  | some a =>
    dsimp only
    cases phase : a.phase with
    | waiting holds =>
      refine decide_eq_true_iff.trans ⟨fun come => ⟨a, holds, rfl, phase, come⟩, fun ⟨b, _, same, _, come⟩ => ?_⟩
      cases same
      exact come
    | active b => exact iff_of_false nofun fun ⟨b, _, same, waiting, _⟩ => by cases same; rw [phase] at waiting; cases waiting
    | done => exact iff_of_false nofun fun ⟨b, _, same, waiting, _⟩ => by cases same; rw [phase] at waiting; cases waiting

theorem Context.duePlaces_eq (c : Context) (now : Nat) : c.duePlaces now = (List.range c.actions.length).filter (c.isDueAt now) := rfl

theorem Context.duePlaces_none {now : Nat}
    (early : ∀ a ∈ c.actions, ∀ holds, a.phase = .waiting holds → now < a.start) : c.duePlaces now = [] := by
  rw [Context.duePlaces_eq]
  refine List.filter_eq_nil_iff.2 fun i _ due => ?_
  obtain ⟨a, holds, action, waiting, come⟩ := Context.isDueAt_iff.1 due
  exact Nat.not_lt.2 come (early a (List.mem_of_getElem? action) holds waiting)

theorem Context.duePlaces_first {now : Nat} (action : c.actions[j]? = some a) (waiting : a.phase = .waiting holds)
    (come : a.start ≤ now)
    (early : ∀ i b, i < j → c.actions[i]? = some b → ∀ holds, b.phase = .waiting holds → now < b.start) :
    (c.duePlaces now).head? = some j := by
  rw [Context.duePlaces_eq, List.head?_filter]
  refine List.find?_range_eq_some.2 ⟨Context.isDueAt_iff.2 ⟨a, holds, action, waiting, come⟩,
    List.mem_range.2 (List.getElem?_eq_some_iff.1 action).1, fun i lt => ?_⟩
  rw [Bool.not_eq_true']
  refine Bool.eq_false_iff.2 fun due => ?_
  obtain ⟨b, holds, action, waiting, come⟩ := Context.isDueAt_iff.1 due
  exact Nat.not_lt.2 come (early i b lt action holds waiting)

theorem State.startFirstDue_none
    (early : ∀ c, s.context k = some c → ∀ a ∈ c.actions, ∀ holds, a.phase = .waiting holds → s.time.standard < a.start) :
    s.startFirstDue k = s := by
  unfold State.startFirstDue
  split
  · rfl
  next c stands => rw [Context.duePlaces_none (early c stands)]

theorem State.startFirstDue_place (stands : s.context k = some c) (first : (c.duePlaces s.time.standard).head? = some j) :
    s.startFirstDue k = s.startIfDue k j := by
  obtain ⟨rest, places⟩ := List.head?_eq_some_iff.1 first
  unfold State.startFirstDue
  rw [stands]
  dsimp only
  rw [places]

theorem exec_actionStart (mains : s.time.power = .mains) (bound : k < 8) (dt : Nat) : exec (.actionStart dt k) s
    = .next ((s.elapse dt).startFirstDue k).settleContexts := happenAt_mains dt bound mains

/-! ## TOLL (R107, R133) -/

section
variable {bell interval blows velocity : Nat}

theorem State.startToll_refused {r : Reason} {h : Handle} (refused : s.tollChannel bell = .error r) :
    s.startToll h k j bell interval blows velocity = s.finishAction k j (Outcome.plain .refused r) := by
  unfold State.startToll
  rw [refused]

theorem State.tollChannel_claimed (claimed : ∃ i v, i < 2 ∧ s.toll i = some v ∧ v.bell = bell) :
    s.tollChannel bell = .error .bellClaimed := if_pos ((s.claimed_iff bell).2 claimed)

section
variable (free : ∀ i v, i < 2 → s.toll i = some v → v.bell ≠ bell)
include free

theorem State.unclaimed_of_free : ¬s.claimed bell = true := fun claimed => by
  obtain ⟨i, v, lt, tolls, same⟩ := (s.claimed_iff bell).1 claimed
  exact free i v lt tolls same

theorem State.tollChannel_idle (bound : n < 2) (idle : s.toll n = none) (lower : n = 1 → s.toll 0 ≠ none) :
    s.tollChannel bell = .ok n := by
  have first : s.idleChannel = some n := by
    refine List.find?_range_eq_some.2 ⟨by rw [idle]; rfl, List.mem_range.2 bound, fun i lt => ?_⟩
    have zero : i = 0 := by omega
    have one : n = 1 := by omega
    rw [zero, Bool.not_eq_true', Option.isNone_eq_false_iff, Option.isSome_iff_ne_none]
    exact lower one
  unfold State.tollChannel
  rw [if_neg (State.unclaimed_of_free free), first]

theorem State.tollChannel_busy {v w : TollRun} (first : s.toll 0 = some v) (second : s.toll 1 = some w) :
    s.tollChannel bell = .error .noChannel := by
  have busy : s.idleChannel = none := List.find?_eq_none.2 fun i mem => by
    have lt : i < 2 := List.mem_range.1 mem
    interval_cases i
    · rw [first]; nofun
    · rw [second]; nofun
  unfold State.tollChannel
  rw [if_neg (State.unclaimed_of_free free), busy]

end

/-- R107, R133: the toll takes its channel and the action is ACTIVE. -/
theorem State.startToll_takes (h : Acting s k j c a o) (bound : n < 2) (takes : s.tollChannel bell = .ok n) :
    let u := s.startToll c.occasion k j bell interval blows velocity
    u.toll n = some { run := s.chime.tollsTaken + 1, bell := bell, interval := interval, blowsLeft := blows, velocity := velocity
                      source := .action c.occasion k j, start := s.nowMs, nextBlow := 1, scheduled := none, skipped := 0 } ∧
      ActionPut s k j c a o (.active (.toll n)) (o.outcome.set j (Outcome.plain .started)) u := by
  let v := s.setPhase k j (.active (.toll n))
  let x := newToll (s.chime.tollsTaken + 1) s.nowMs bell interval blows velocity (.action c.occasion k j)
  have clock : v.clock = s.clock := (congrArg State.clock (s.setPhase_frame k j _) :)
  have started : s.startToll c.occasion k j bell interval blows velocity
      = (v.setToll n (some x)).countToll.setOutcome k j (Outcome.plain .started) := by
    unfold State.startToll
    rw [takes]
    dsimp only
    unfold State.acceptToll
    rw [State.setPhase_chime, State.nowMs_of_clock clock]
    rfl
  dsimp only
  rw [started]
  have put : ActionPut s k j c a o (.active (.toll n)) o.outcome (v.setToll n (some x)).countToll :=
    (h.start.setPhase h.action _).of_calendar rfl
  refine ⟨?_, put.setOutcome _⟩
  rw [State.toll, State.setOutcome_chime]
  exact State.toll_setToll_same (s := v) n (some x) bound

end

/-! ## SWING (R51, R52, R133) -/

section
variable {b minutes : Nat}

theorem State.startSwingAction_refused {r : Reason} (refused : s.swingRefusal b = some r) :
    s.startSwingAction k j b minutes = s.finishAction k j (Outcome.plain .refused r) := by
  unfold State.startSwingAction
  rw [refused]

theorem State.startSwingAction_accepted (accepted : s.swingRefusal b = none) :
    s.startSwingAction k j b minutes = (s.setPhase k j (.active (.bell b))).acceptSwing b minutes (.action k j) := by
  unfold State.startSwingAction
  rw [accepted]

theorem State.bell_setPhase (s : State) (k j : Nat) (p : ActionPhase) (b : Nat) : (s.setPhase k j p).bell b = s.bell b :=
  (congrArg (fun t : State => t.bell b) (s.setPhase_frame k j p) :)

theorem State.nowMs_setPhase (s : State) (k j : Nat) (p : ActionPhase) : (s.setPhase k j p).nowMs = s.nowMs :=
  (congrArg State.nowMs (s.setPhase_frame k j p) :)

/-- An ask leaves a PENDING run PENDING. -/
theorem State.ask_pending {rating length since : Nat} {isAdmitted : Bool} {sources : List MotorSource}
    (pending : (s.bell b).motor = .pending length since isAdmitted sources) :
    ∃ admitted, ((s.ask b rating).bell b).motor = .pending length since admitted sources := by
  have admits : ∀ t : State, t.bell b = s.bell b → ∃ admitted, (t.tryAsks.bell b).motor = .pending length since admitted sources :=
    fun t same => by
      rcases (State.tryAsks_admits t).kept b with kept | ⟨_, _, _, waits, admitted⟩
      · exact ⟨isAdmitted, by rw [kept, same, pending]⟩
      · rw [same, pending] at waits
        cases waits
        exact ⟨true, admitted⟩
  unfold State.ask
  dsimp only
  split
  · exact admits { s with feeder.asks := _ } rfl
  · exact ⟨isAdmitted, pending⟩

theorem addSource_new {sources : List MotorSource} {x : MotorSource} (new : x ∉ sources) :
    addSource sources x = sources ++ [x] := if_neg new

section
variable (h : Acting s k j c a o) (accepted : s.swingRefusal b = none)
include h accepted

/-- R52: a run begins. -/
theorem State.startSwingAction_off (bound : b < 40) (off : (s.bell b).motor = .off) : let u := s.startSwingAction k j b minutes
    (∃ admitted, (u.bell b).motor = .pending (min 30 minutes) s.nowMs admitted [.action k j]) ∧
      ActionPut s k j c a o (.active (.bell b)) o.outcome u := by
  let v := s.setPhase k j (.active (.bell b))
  have off' : (v.bell b).motor = .off := by rw [State.bell_setPhase, off]
  intro u
  have begun : u = (v.setBell b { v.bell b with motor := .pending (min 30 minutes) v.nowMs false [.action k j] }).ask b
      (v.bell b).config.motorRating := (State.startSwingAction_accepted accepted).trans (State.acceptSwing_off off' _)
  have calendar : u.calendar = v.calendar := by
    rw [begun]
    exact (congrArg State.calendar (State.ask_onlyAsked (v.setBell b _) b _) :)
  refine ⟨?_, (h.start.setPhase h.action _).of_calendar calendar⟩
  rw [begun, State.nowMs_setPhase]
  exact State.ask_pending (congrArg Bell.motor (State.bell_setBell_same (s := v) b _ bound))

variable {sources : List MotorSource} (bound : b < 40) (new : MotorSource.action k j ∉ sources)
include bound new

/-- R52: a PENDING run is extended. -/
theorem State.startSwingAction_pending {length since : Nat} {isAdmitted : Bool}
    (pending : (s.bell b).motor = .pending length since isAdmitted sources) : let u := s.startSwingAction k j b minutes
    u.bell b = { s.bell b with motor := .pending (max length (min 30 minutes)) since isAdmitted (sources ++ [.action k j]) } ∧
      ActionPut s k j c a o (.active (.bell b)) o.outcome u := by
  let v := s.setPhase k j (.active (.bell b))
  have pending' : (v.bell b).motor = .pending length since isAdmitted sources := by rw [State.bell_setPhase, pending]
  have extended := (State.startSwingAction_accepted (minutes := minutes) accepted).trans (State.acceptSwing_pending pending' (.action k j))
  rw [addSource_new new, State.bell_setPhase] at extended
  intro u
  rw [show u = _ from extended]
  exact ⟨State.bell_setBell_same (s := v) b _ bound, (h.start.setPhase h.action _).of_calendar rfl⟩

/-- R52, R53: a RUNNING run is extended, and the action has STARTED. -/
theorem State.startSwingAction_running {energised endAt : Nat} {satisfied : Bool}
    (running : (s.bell b).motor = .running energised endAt satisfied sources) : let u := s.startSwingAction k j b minutes
    u.bell b = { s.bell b with
        motor := .running energised (max endAt (s.nowMs + min 30 minutes * 60000)) satisfied (sources ++ [.action k j]) } ∧
      ActionPut s k j c a o (.active (.bell b)) (o.outcome.set j (Outcome.plain .started)) u := by
  let v := s.setPhase k j (.active (.bell b))
  let x : Bell := { s.bell b with
    motor := .running energised (max endAt (s.nowMs + min 30 minutes * 60000)) satisfied (sources ++ [.action k j]) }
  have running' : (v.bell b).motor = .running energised endAt satisfied sources := by rw [State.bell_setPhase, running]
  have extended : s.startSwingAction k j b minutes = (v.setBell b x).setOutcome k j (Outcome.plain .started) := by
    rw [State.startSwingAction_accepted accepted]
    unfold State.acceptSwing
    dsimp only
    rw [running']
    dsimp only
    rw [if_neg new, addSource_new new, State.bell_setPhase, State.nowMs_setPhase]
    rfl
  intro u
  rw [show u = _ from extended]
  have put : ActionPut s k j c a o (.active (.bell b)) o.outcome (v.setBell b x) := (h.start.setPhase h.action _).of_calendar rfl
  refine ⟨?_, put.setOutcome _⟩
  rw [State.bell, State.setOutcome_frame]
  exact State.bell_setBell_same (s := v) b x bound

end

end

end Sys2Proof.Machine
end

section
/-! SCENE UP and SCENE DOWN actions (R134, R152 to R154, R162). -/

namespace Sys2Proof.Machine

variable {s t : State} {k j hold : Nat} {h g : Handle} {x : Scene} {e : StandingEntry}

theorem State.finishAction_mixer (s : State) (k j : Nat) (x : Outcome) : (s.finishAction k j x).mixer = s.mixer :=
  (congrArg State.mixer (s.finishAction_onlyActions k j x) :)

/-! ## A scene that is gone or RETIRING -/

theorem State.sceneLive_of (found : s.findScene h = some x) (live : x.state = .live) : s.sceneLive h = true := by
  rw [State.sceneLive, found, Option.any_some, live]
  rfl

section
variable (dead : ∀ x, s.findScene h = some x → x.state ≠ .live)
include dead

theorem State.sceneLive_not : ¬s.sceneLive h = true := fun live => by
  obtain ⟨x, found, same⟩ := (Option.any_eq_true _ _).1 live
  exact dead x found (beq_iff_eq.1 same)

theorem State.sceneUp_dead (g : Handle) : s.sceneUp g k j h hold = s.finishAction k j (Outcome.plain .refused .noRecord) :=
  if_neg (State.sceneLive_not dead)

theorem State.sceneDown_dead : s.sceneDown k j h = s.finishAction k j (Outcome.plain .refused .noRecord) :=
  if_neg (State.sceneLive_not dead)

end

/-! ## A LIVE scene raised (R152, R153, R162) -/

theorem State.makeStanding_empty (none : s.mixer.standing = []) (n : Nat) (c : Creator) : s.makeStanding h n c =
    (State.store { s with mixer.standing := [{ scene := h, endAt := n, creator := c }] } .standingList, true) := by
  have unlisted : ¬s.hasStanding h = true := by rw [State.hasStanding, none]; nofun
  have room : s.mixer.standing.length < Config.standingCapacity := by rw [none]; exact Nat.zero_lt_succ 7
  unfold State.makeStanding
  dsimp only
  rw [if_neg unlisted, if_pos room, none]
  rfl

theorem State.makeStanding_full (full : 8 ≤ s.mixer.standing.length) (unlisted : ∀ y ∈ s.mixer.standing, y.scene ≠ h) (n : Nat)
    (c : Creator) : s.makeStanding h n c = (s, false) := by
  have unlisted' : ¬s.hasStanding h = true := fun listed => by
    obtain ⟨y, mem, same⟩ := List.any_eq_true.1 listed
    exact unlisted y mem (beq_iff_eq.1 same)
  unfold State.makeStanding
  dsimp only
  rw [if_neg unlisted']
  exact if_neg (Nat.not_lt.2 full)

theorem State.makeStanding_layers (s : State) (h : Handle) (n : Nat) (c : Creator) :
    (s.makeStanding h n c).1.mixer.layers = s.mixer.layers := by
  unfold State.makeStanding
  dsimp only
  split
  · rfl
  · split <;> rfl

/-- R152: the scene fades in alone. -/
theorem State.addLayer_empty (empty : s.mixer.layers = []) : ∃ l, (s.addLayer h x).mixer.layers = [l] ∧ l.scene = h ∧
    l.target = 256 ∧ l.f = 0 ∧ l.length = 16 * x.config.fadeIn := by
  refine ⟨{ scene := h, sequence := s.mixer.raiseSequence + 1, f := 0, f0 := 0, target := Config.fullFactor, k0 := s.nextComputed,
            length := 16 * x.config.fadeIn }, ?_, rfl, rfl, rfl, rfl⟩
  unfold State.addLayer State.insertLayer
  dsimp only
  rw [empty]
  rfl

section
variable (found : s.findScene h = some x) (live : x.state = .live)
include found live

theorem State.sceneUp_stands (raised : s.raiseScene h = (t, .raised)) : s.sceneUp g k j h hold =
    (t.makeStanding h (s.time.standard + hold * 60) (.occasion g)).1.finishAction k j (Outcome.plain .done
      (if (t.makeStanding h (s.time.standard + hold * 60) (.occasion g)).2 then .none else .notStanding)) := by
  unfold State.sceneUp
  rw [if_pos (State.sceneLive_of found live), raised]

theorem State.sceneUp_noWay (full : s.raiseScene h = (t, .full)) :
    s.sceneUp g k j h hold = t.finishAction k j (Outcome.plain .refused .full) := by
  unfold State.sceneUp
  rw [if_pos (State.sceneLive_of found live), full]

theorem State.raiseScene_empty (empty : s.mixer.layers = []) : s.raiseScene h = (s.addLayer h x, .raised) := by
  have room : s.mixer.layers.length < Config.layerCapacity := by rw [empty]; exact Nat.zero_lt_succ 7
  have unstacked : s.mixer.layers.find? (fun l => l.scene = h) = none := by rw [empty]; rfl
  unfold State.raiseScene
  rw [found]
  dsimp only
  rw [if_neg (not_not_intro live), unstacked]
  dsimp only
  rw [if_pos room]

/-- R153: a full stack in which no layer fades out or has a lower priority gives no way. -/
theorem State.raiseScene_full (full : 8 ≤ s.mixer.layers.length)
    (firm : ∀ l ∈ s.mixer.layers, l.scene ≠ h ∧ l.target ≠ 0 ∧ x.config.priority ≤ s.layerPriority l) :
    s.raiseScene h = (s.raise .sceneRefused, .full) := by
  have unstacked : s.mixer.layers.find? (fun l => l.scene = h) = none :=
    List.find?_eq_none.2 fun l mem same => (firm l mem).1 (of_decide_eq_true same)
  have unfading : s.mixer.layers.filter (fun l => l.target == 0) = [] :=
    List.filter_eq_nil_iff.2 fun l mem fading => (firm l mem).2.1 (beq_iff_eq.1 fading)
  have unreclaimed : reclaimable s.mixer.layers = none := by rw [reclaimable, unfading]; rfl
  have lowest (rest : List Layer) (p : Nat) (least : x.config.priority ≤ p) (firm : ∀ l ∈ rest, x.config.priority ≤ s.layerPriority l) :
      x.config.priority ≤ rest.foldl (fun p y => min p (s.layerPriority y)) p := by
    induction rest generalizing p with
    | nil => exact least
    | cons l rest ih =>
      exact ih _ (le_min least (firm l (List.mem_cons_self ..))) fun y mem => firm y (List.mem_cons_of_mem _ mem)
  have undisplaced : s.displaceable x.config.priority = none := by
    unfold State.displaceable
    split
    · rfl
    next l rest layers =>
      refine if_neg (Nat.not_lt.2 (lowest rest _ (firm l ?_).2.2 fun y mem => (firm y ?_).2.2))
      · rw [layers]; exact List.mem_cons_self ..
      · rw [layers]; exact List.mem_cons_of_mem _ mem
  unfold State.raiseScene
  rw [found]
  dsimp only
  rw [if_neg (not_not_intro live), unstacked]
  dsimp only
  rw [if_neg (Nat.not_lt.2 (show Config.layerCapacity ≤ _ from full)), unreclaimed]
  dsimp only
  rw [undisplaced]

/-- R134, R162: the first scene of the stack stands until the end of its hold. -/
theorem State.sceneUp_first (empty : s.mixer.layers = []) (none : s.mixer.standing = []) : s.sceneUp g k j h hold =
    (State.store { s.addLayer h x with
      mixer.standing := [{ scene := h, endAt := s.time.standard + hold * 60, creator := .occasion g }] } .standingList).finishAction k j
        (Outcome.plain .done) := by
  rw [State.sceneUp_stands found live (State.raiseScene_empty found live empty), State.makeStanding_empty (s := s.addLayer h x) none]
  rfl

/-- R134: it does not where the standing list has no place. -/
theorem State.sceneUp_unlisted (empty : s.mixer.layers = []) (full : 8 ≤ s.mixer.standing.length)
    (unlisted : ∀ y ∈ s.mixer.standing, y.scene ≠ h) :
    s.sceneUp g k j h hold = (s.addLayer h x).finishAction k j (Outcome.plain .done .notStanding) := by
  rw [State.sceneUp_stands found live (State.raiseScene_empty found live empty),
    State.makeStanding_full (s := s.addLayer h x) full unlisted]
  rfl

/-- R152: with no layer in the stack the scene fades in alone. -/
theorem State.sceneUp_layers (empty : s.mixer.layers = []) : ∃ l, (s.sceneUp g k j h hold).mixer.layers = [l] ∧ l.scene = h ∧
    l.target = 256 ∧ l.f = 0 ∧ l.length = 16 * x.config.fadeIn := by
  rw [State.sceneUp_stands found live (State.raiseScene_empty found live empty), State.finishAction_mixer, State.makeStanding_layers]
  exact State.addLayer_empty empty

/-- R153: SCENE UP refused by the stack raises SCENE REFUSED. -/
theorem State.sceneUp_refused_flags (full : s.raiseScene h = (s.raise .sceneRefused, .full)) :
    (s.sceneUp g k j h hold).link.flags.getLsbD 7 = true ∧ (s.sceneUp g k j h hold).link.fresh.getLsbD 7 = true := by
  rw [State.sceneUp_noWay found live full]
  have raised := State.finishAction_raised (s.raise .sceneRefused) k j (Outcome.plain .refused .full)
  have bit (b : BitVec 12) : (b ||| Condition.only .sceneRefused).getLsbD 7 = true := by
    rw [BitVec.getLsbD_or]
    exact Bool.or_eq_true_iff.2 (.inr rfl)
  exact ⟨raised.flags 7 (bit _), raised.fresh 7 (bit _)⟩

end

/-! ## A LIVE scene lowered (R154, R163) -/

theorem State.sceneDown_live (found : s.findScene h = some x) (live : x.state = .live) :
    s.sceneDown k j h = (s.lowerAndRemove h).finishAction k j (Outcome.plain .done) := if_pos (State.sceneLive_of found live)

theorem State.lowerAndRemove_lowered (sound : s.ListsSound) (h : Handle) : Lowered (fun g => g = h) s (s.lowerAndRemove h) := by
  have removed := Lowered.of_layers ((s.lowerScene h).removeStanding_layers h)
  exact ((State.lowerScene_lowered sound.layerScenes h).trans removed).congr fun g => or_iff_left id

theorem State.lowerAndRemove_standing (s : State) (h : Handle) :
    (s.lowerAndRemove h).mixer.standing = s.mixer.standing.filter fun y => y.scene != h := by
  rw [State.lowerAndRemove, State.removeStanding_standing, State.lowerScene_standing]

end Sys2Proof.Machine
end

section
/-! SILENCE (R118): the queued QUARTER and HOUR entries are removed one after the other. -/

namespace Sys2Proof.Machine

variable {s t u : State} {x y : Entry} {m k j minutes : Nat}

/-- Whether an entry is a QUARTER entry, as `Entry.isClock` asks for either kind. -/
def Entry.isQuarter (x : Entry) : Bool := match x.source with | .quarter _ => true | _ => false

/-- Whether an entry is an HOUR entry. -/
def Entry.isHour (x : Entry) : Bool := match x.source with | .hour _ => true | _ => false

theorem Entry.isClock_eq (x : Entry) : x.isClock = (x.isQuarter || x.isHour) := by
  unfold Entry.isClock Entry.isQuarter Entry.isHour
  cases x.source <;> rfl

theorem Entry.isQuarter_source (source : x.source = .quarter m) : x.isQuarter = true := by rw [Entry.isQuarter, source]

theorem Entry.isHour_source (source : x.source = .hour m) : x.isHour = true := by rw [Entry.isHour, source]

theorem Entry.isHour_quarter (source : x.source = .quarter m) : x.isHour = false := by rw [Entry.isHour, source]

theorem Entry.isQuarter_hour (source : x.source = .hour m) : x.isQuarter = false := by rw [Entry.isQuarter, source]

/-- The outcome a stopped clock entry leaves (R117). -/
def Entry.stoppedOutcome (x : Entry) (source : ClockSource) (m : Nat) : ClockOutcome :=
  { source := source, mark := m, report := .stopped, skipped := x.carried.1 }

/-! ## One entry removed -/

/-- R117: STOPPED counts a miss of an entry that had not started, and no condition is raised. -/
theorem State.reportToClock_stopped (s : State) (source : ClockSource) (m : Nat) (started : Bool) (n : Nat) :
    s.reportToClock source m .stopped started n = { s with program := { (if !started then s.program.countMiss source else s.program)
      with lastOutcome := some { source := source, mark := m, report := .stopped, skipped := n } } } := rfl

/-- What becomes of a state from which the clock entries of a list have been removed. -/
structure ClocksRemoved (l : List Entry) (s t : State) : Prop where
  queue : t.chime.queue = s.chime.queue.filter fun z => !(l.map (·.number)).contains z.number
  performance : t.chime.performance = s.chime.performance
  calendar : t.calendar = s.calendar
  link : t.link = s.link
  silenced : t.program.silencedUntil = s.program.silencedUntil
  quarters : s.program.quartersMissed ≤ 65535 →
    t.program.quartersMissed = min 65535 (s.program.quartersMissed + l.countP fun x => x.isQuarter && !x.started)
  hours : s.program.hoursMissed ≤ 65535 →
    t.program.hoursMissed = min 65535 (s.program.hoursMissed + l.countP fun x => x.isHour && !x.started)
  unchanged : l = [] → t.program.lastOutcome = s.program.lastOutcome
  last : ∀ x m, l.getLast? = some x → (x.source = .quarter m → t.program.lastOutcome = some (x.stoppedOutcome .quarter m)) ∧
    (x.source = .hour m → t.program.lastOutcome = some (x.stoppedOutcome .hour m))
  tunes : ∀ g z, s.findTune g = some z → t.findTune g = z.afterDrops (l.countP fun x => x.content == .tune g)

/-- A removal of one clock entry. -/
structure ClockRemoved (x : Entry) (s t : State) : Prop where
  queue : t.chime.queue = s.chime.queue.filter fun z => z.number != x.number
  performance : t.chime.performance = s.chime.performance
  calendar : t.calendar = s.calendar
  link : t.link = s.link
  silenced : t.program.silencedUntil = s.program.silencedUntil
  quarters : t.program.quartersMissed
    = if x.isQuarter && !x.started then min 65535 (s.program.quartersMissed + 1) else s.program.quartersMissed
  hours : t.program.hoursMissed = if x.isHour && !x.started then min 65535 (s.program.hoursMissed + 1) else s.program.hoursMissed
  last : ∀ m, (x.source = .quarter m → t.program.lastOutcome = some (x.stoppedOutcome .quarter m)) ∧
    (x.source = .hour m → t.program.lastOutcome = some (x.stoppedOutcome .hour m))
  tunes : ∀ g z n, s.findTune g = Tune.afterDrops z n → t.findTune g = z.afterDrops (n + if x.content = .tune g then 1 else 0)

/-- R82: the reference an entry holds to a tune. -/
theorem State.findTune_dropEntryRef_again {g : Handle} {z : Tune} {n : Nat} (found : s.findTune g = z.afterDrops n) (x : Entry) :
    (s.dropEntryRef x).findTune g = z.afterDrops (n + if x.content = .tune g then 1 else 0) := by
  unfold State.dropEntryRef
  cases content : x.content with
  | tune h =>
    refine (State.findTune_dropRef_again found h).trans ?_
    exact congrArg (fun d => z.afterDrops (n + d)) (if_congr (by rw [Content.tune.injEq]) rfl rfl)
  | hourStrike bell blows interval velocity => exact found

theorem State.removeEntry_clock (clock : x.isClock = true) (s : State) : ClockRemoved x s (s.removeEntry x) := by
  have report : ∃ source n, (s.unqueue x.number).reportEntry x .stopped x.carried.1 x.carried.2
      = (s.unqueue x.number).reportToClock source n .stopped x.started x.carried.1 ∧
      ((source = .quarter ∧ x.source = .quarter n) ∨ (source = .hour ∧ x.source = .hour n)) := by
    unfold State.reportEntry
    cases source : x.source with
    | quarter n => exact ⟨.quarter, n, rfl, .inl ⟨rfl, rfl⟩⟩
    | hour n => exact ⟨.hour, n, rfl, .inr ⟨rfl, rfl⟩⟩
    | occasion h k j => rw [Entry.isClock, source] at clock; cases clock
    | command => rw [Entry.isClock, source] at clock; cases clock
  obtain ⟨source, n, reported, kind⟩ := report
  rw [State.reportToClock_stopped] at reported
  have removed : s.removeEntry x = State.dropEntryRef { s.unqueue x.number with program :=
      { (if !x.started then s.program.countMiss source else s.program) with
        lastOutcome := some { source := source, mark := n, report := .stopped, skipped := x.carried.1 } } } x :=
    congrArg (fun u : State => u.dropEntryRef x) reported
  have tunes (v : State) (same : v.tunes = s.tunes) (g : Handle) (z : Tune) (n : Nat) (found : s.findTune g = z.afterDrops n) :
      (v.dropEntryRef x).findTune g = z.afterDrops (n + if x.content = .tune g then 1 else 0) :=
    State.findTune_dropEntryRef_again ((State.findTune_of_tunes same g).trans found) x
  rw [removed]
  refine { queue := by rw [State.dropEntryRef_chime]; rfl, performance := by rw [State.dropEntryRef_chime]; rfl
           calendar := State.dropEntryRef_calendar _ x, link := State.dropEntryRef_link _ x, silenced := ?_, quarters := ?_, hours := ?_
           last := fun m => ?_, tunes := fun g z n found => ?_ }
  · rw [State.dropEntryRef_program]
    cases x.started <;> cases source <;> rfl
  · rw [State.dropEntryRef_program]
    rcases kind with ⟨rfl, source⟩ | ⟨rfl, source⟩
    · rw [Entry.isQuarter_source source]
      cases x.started <;> rfl
    · rw [Entry.isQuarter_hour source]
      cases x.started <;> rfl
  · rw [State.dropEntryRef_program]
    rcases kind with ⟨rfl, source⟩ | ⟨rfl, source⟩
    · rw [Entry.isHour_quarter source]
      cases x.started <;> rfl
    · rw [Entry.isHour_source source]
      cases x.started <;> rfl
  · rw [State.dropEntryRef_program]
    rcases kind with ⟨rfl, source⟩ | ⟨rfl, source⟩
    · exact ⟨fun same => by rw [source] at same; cases same; rfl, fun same => by rw [source] at same; cases same⟩
    · exact ⟨fun same => (by rw [source] at same; cases same), fun same => by rw [source] at same; cases same; rfl⟩
  · refine tunes _ ?_ g z n found
    rfl

/-! ## Entry after entry -/

theorem removeEntries_clocks (l : List Entry) (clocks : ∀ x ∈ l, x.isClock = true) (s : State) :
    ClocksRemoved l s (l.foldl (fun s x => s.removeEntry x) s) := by
  induction l using List.reverseRecOn with
  | nil =>
    exact { queue := (List.filter_eq_self.2 fun _ _ => rfl).symm, performance := rfl, calendar := rfl, link := rfl, silenced := rfl
            quarters := fun le => (Nat.min_eq_right le).symm, hours := fun le => (Nat.min_eq_right le).symm
            unchanged := fun _ => rfl, last := nofun, tunes := fun g z found => found.trans z.afterDrops_zero.symm }
  | append_singleton l x ih =>
    have before := ih fun y mem => clocks y (List.mem_append_left _ mem)
    have one := State.removeEntry_clock (clocks x (List.mem_append_right _ (List.mem_singleton_self x))) (l.foldl (fun s x => s.removeEntry x) s)
    rw [List.foldl_append]
    refine { queue := ?_, performance := one.performance.trans before.performance, calendar := one.calendar.trans before.calendar
             link := one.link.trans before.link, silenced := one.silenced.trans before.silenced, quarters := fun le => ?_
             hours := fun le => ?_, unchanged := fun none => absurd none (List.append_ne_nil_of_right_ne_nil l (by nofun))
             last := fun y m last => ?_, tunes := fun g z found => ?_ }
    · refine one.queue.trans ?_
      rw [before.queue, List.filter_filter]
      refine List.filter_congr fun z _ => ?_
      simp [bne, Bool.and_comm, beq_eq_decide]
    · refine one.quarters.trans ?_
      rw [before.quarters le, List.countP_append, List.countP_singleton]
      split <;> omega
    · refine one.hours.trans ?_
      rw [before.hours le, List.countP_append, List.countP_singleton]
      split <;> omega
    · rw [List.getLast?_concat] at last
      cases last
      exact one.last m
    · refine (one.tunes g z _ (before.tunes g z found)).trans ?_
      rw [List.countP_append, List.countP_singleton]
      exact congrArg (fun d => z.afterDrops (_ + d)) (if_congr beq_iff_eq.symm rfl rfl)

/-- In a queue of distinct numbers the clock entries are those whose numbers leave. -/
theorem filter_unclocked {q : List Entry} (distinct : (q.map (·.number)).Nodup) :
    q.filter (fun z => !((q.filter Entry.isClock).map (·.number)).contains z.number) = q.filter fun z => !z.isClock := by
  refine List.filter_congr fun z mem => congrArg not (Bool.eq_iff_iff.2 ?_)
  rw [List.contains_iff_mem, List.mem_map]
  refine ⟨fun ⟨y, mem', same⟩ => ?_, fun clock => ⟨z, List.mem_filter.2 ⟨mem, clock⟩, rfl⟩⟩
  obtain ⟨mem', clock⟩ := List.mem_filter.1 mem'
  rwa [← List.inj_on_of_nodup_map distinct mem' mem same]

/-- R118: silenced-until is set, and the clock entries are removed. -/
theorem State.silence_removes (s : State) (minutes : Nat) : ClocksRemoved (s.chime.queue.filter Entry.isClock)
    { s with program.silencedUntil := some (max (s.program.silencedUntil.getD 0) (s.time.standard + minutes * 60)) }
    (s.silence minutes) := removeEntries_clocks _ (fun _ mem => (List.mem_filter.1 mem).2) _

theorem State.finishAction_program (s : State) (k j : Nat) (x : Outcome) : (s.finishAction k j x).program = s.program :=
  (congrArg State.program (s.finishAction_onlyActions k j x) :)

end Sys2Proof.Machine
end

section
/-! The start of a PLAY action (R132): the entry it offers, by the tune, the queue and the performance it meets (R91 to R93, R104). -/

namespace Sys2Proof.Machine

variable {s t v w : State} {k j n : Nat} {c : Context} {a : ContextAction} {o : Occasion} {x y : Entry} {z : Tune} {h g : Handle}
  {p : Performance} {holds : Bool}

/-! ## No tune to play -/

theorem State.namesLive_of (found : s.findTune h = some z) (live : z.state = .live) : s.namesLive h = true := by
  rw [State.namesLive, found, Option.any_some, live]
  rfl

theorem State.startPlay_unheld : s.startPlay false k j h x = s.finishAction k j (Outcome.plain .refused .noRecord) := by
  unfold State.startPlay
  rw [Bool.false_and]
  rfl

/-- R82, R132: a tune no longer LIVE loses the action's reference. -/
theorem State.startPlay_dead (dead : ∀ z, s.findTune h = some z → z.state ≠ .live) :
    s.startPlay true k j h x = (s.dropRef h).finishAction k j (Outcome.plain .refused .noRecord) := by
  have gone : ¬(true && s.namesLive h) = true := fun live => by
    obtain ⟨z, found, same⟩ := (Option.any_eq_true _ _).1 (Bool.and_eq_true_iff.1 live).2
    exact dead z found (beq_iff_eq.1 same)
  unfold State.startPlay
  rw [if_neg gone]
  rfl

theorem State.startPlay_live (found : s.findTune h = some z) (live : z.state = .live) : s.startPlay true k j h x = (s.arrive x).1 := by
  unfold State.startPlay
  rw [Bool.true_and, if_pos (State.namesLive_of found live)]

/-! ## An occasion's entry that arrives -/

theorem State.admitArrival_empty (empty : s.chime.queue = []) : s.admitArrival x = (s.placeArrival x, .placed x.number) :=
  State.admitArrival_room (by rw [empty]; exact Nat.zero_lt_succ 7)

theorem Entry.outranked (lower : x.priority ≤ y.priority) (earlier : y.arrival < x.arrival) : ¬x.outranks y = true := fun outranks =>
  ((Entry.outranks_iff x y).1 outranks).elim (fun higher => Nat.not_lt.2 lower higher) fun equal => Nat.lt_asymm earlier equal.2

theorem State.reportToAction_program (s : State) (k j n : Nat) (r : EntryReport) (m : Nat) (d : Bool) :
    (s.reportToAction k j n r m d).program = s.program := (congrArg State.program (s.reportToAction_onlyActions k j n r m d) :)

theorem State.dropEntryRef_tune (content : x.content = .tune h) (s : State) : s.dropEntryRef x = s.dropRef h := by
  unfold State.dropEntryRef
  rw [content]
  rfl

theorem State.findTune_dropRef_live (found : s.findTune h = some z) (live : z.state = .live) :
    (s.dropRef h).findTune h = some { z with refs := z.refs - 1 } := by
  rw [State.findTune_dropRef found, if_pos rfl, if_neg fun last => by rw [live] at last; cases last.1]

/-- R117, R135: only a report on an occasion's entry reads or changes the calendar. -/
theorem State.reportEntry_calendar (other : ∀ g i m, y.source ≠ .occasion g i m) (s : State) (r : EntryReport) (m : Nat) (d : Bool) :
    (s.reportEntry y r m d).calendar = s.calendar := by
  unfold State.reportEntry
  split
  · exact s.reportToClock_calendar ..
  · exact s.reportToClock_calendar ..
  next g i l source => exact absurd source (other g i l)
  · split <;> rfl

/-- R92, R104: what the queueing of an occasion's entry beside a performance does outside the calendar. -/
theorem State.placeArrival_queued (source : x.source = .occasion g k j) (plays : w.chime.performance = some p) :
    let t := w.placeArrival x
    t.chime = { w.chime with
      queue := insertEntry w.chime.queue x
      performance := some (if p.ending = none ∧ p.entry.priority < x.priority ∧ p.entry.yields = true then
        { p with preemptPending := true } else p) } ∧ t.tunes = w.tunes ∧ t.program = w.program := by
  let q : State := { w with chime.queue := insertEntry w.chime.queue x }
  have chime : (q.reportEntry x .queued).chime = q.chime := by
    rw [State.reportEntry_occasion source, State.reportToAction_chime]
  have program : (q.reportEntry x .queued).program = q.program := by
    rw [State.reportEntry_occasion source, State.reportToAction_program]
  intro t
  rw [show t = _ from State.placeArrival_plays plays]
  refine ⟨?_, (State.reportEntry_tunes q x .queued 0 false :), program⟩
  dsimp only
  rw [chime]

section
variable (put : ActionPut s k j c a o a.phase o.outcome w) (action : c.actions[j]? = some a) (source : x.source = .occasion g k j)
include put action source

/-- R135: what the first report makes of the action. -/
theorem ActionPut.reportEntry (r : EntryReport) :
    ActionPut s k j c a o (r.phaseTold x.number a.phase) (o.outcome.set j (r.told 0 false)) (w.reportEntry x r) := by
  rw [State.reportEntry_occasion source]
  exact put.reportToAction action x.number r 0 false

/-- R92, R104: beside a performance the entry is queued, and its action ACTIVE and PENDING. -/
theorem ActionPut.placeArrival_plays (plays : w.chime.performance = some p) :
    ActionPut s k j c a o (.active (.entry x.number)) (o.outcome.set j (Outcome.plain .pending)) (w.placeArrival x) := by
  let q : State := { w with chime.queue := insertEntry w.chime.queue x }
  have queued := (put.of_calendar (v := q) rfl).reportEntry action source .queued
  rw [State.placeArrival_plays plays]
  exact queued.of_calendar rfl

/-- R93: an entry that a full queue refuses leaves its reference. -/
theorem ActionPut.refuseArrival (content : x.content = .tune h) (found : w.findTune h = some z) (live : z.state = .live) :
    let t := (w.reportEntry x .refusedFull).dropEntryRef x
    t.chime = w.chime ∧ t.findTune h = some { z with refs := z.refs - 1 } ∧
      ActionPut s k j c a o .done (o.outcome.set j (Outcome.plain .refused .full)) t ∧
      t.link.flags.getLsbD 5 = true ∧ t.link.fresh.getLsbD 5 = true := by
  have flags := State.reportToAction_flags put.context put.occasion (j := j) x.number (r := .refusedFull) (.inl rfl) 0 false
  rw [← State.reportEntry_occasion source] at flags
  intro t
  refine ⟨?_, ?_, (put.reportEntry action source .refusedFull).of_calendar (State.dropEntryRef_calendar _ x), ?_⟩
  · rw [show t = (w.reportEntry x .refusedFull).dropEntryRef x from rfl, State.dropEntryRef_chime, State.reportEntry_occasion source,
      State.reportToAction_chime]
  · rw [show t = _ from State.dropEntryRef_tune content _]
    exact State.findTune_dropRef_live ((State.findTune_of_tunes (State.reportEntry_tunes w x .refusedFull 0 false) h).trans found) live
  · rw [State.dropEntryRef_link]
    exact flags

/-! ## Where nothing plays or waits (R91) -/

variable (none : w.chime.performance = none) (empty : w.chime.queue = [])
include none empty

/-- R91, R92: the entry is the performance at once, and its action STARTED. -/
theorem ActionPut.placeArrival_begins (current : x.expired w.time.standard = false) (fresh : x.started = false) :
    let t := w.placeArrival x
    t.chime.performance = some (formPerformance x w.nowMs) ∧ t.chime.queue = [] ∧ t.tunes = w.tunes ∧
      ActionPut s k j c a o (.active (.entry x.number)) (o.outcome.set j (Outcome.plain .started)) t := by
  let q : State := { w with chime.queue := [x] }
  let v := q.reportEntry x .queued
  let l : State := { v with chime.queue := [], chime.performance := some (formPerformance x w.nowMs) }
  have queued := (put.of_calendar (v := q) rfl).reportEntry action source .queued
  have clock : v.nowMs = w.nowMs := State.nowMs_of_clock (State.reportEntry_clock q x .queued 0 false)
  have begins : w.placeArrival x = l.reportEntry x .started := by
    rw [State.placeArrival_idle none empty, State.dequeue_begins (x := x) (rest := [])
      ((State.reportEntry_performance q x .queued 0 false).trans none) (State.reportEntry_queue q x .queued 0 false)
      (by rw [State.reportEntry_time]; exact current)]
    refine (if_neg (Bool.eq_false_iff.1 fresh)).trans ?_
    unfold l
    rw [← clock]
    rfl
  have started := (queued.of_calendar (v := l) rfl).reportToAction action x.number .started 0 false
  rw [List.set_set, ← State.reportEntry_occasion source, ← begins] at started
  refine ⟨?_, ?_, ?_, started⟩
  · rw [begins, State.reportEntry_performance]
  · rw [begins, State.reportEntry_queue]
  · rw [begins, State.reportEntry_tunes]
    exact State.reportEntry_tunes q x .queued 0 false

/-- R91, R94: one whose expiry has passed is SKIPPED, and its reference dropped. -/
theorem ActionPut.placeArrival_expired (expired : x.expired w.time.standard = true) (content : x.content = .tune h)
    (found : w.findTune h = some z) (live : z.state = .live) : let t := w.placeArrival x
    t.chime.performance = .none ∧ t.chime.queue = [] ∧ t.findTune h = some { z with refs := z.refs - 1 } ∧
      ActionPut s k j c a o .done (o.outcome.set j (Outcome.plain .skipped .expired)) t ∧
      t.link.flags.getLsbD 5 = true ∧ t.link.fresh.getLsbD 5 = true := by
  let q : State := { w with chime.queue := [x] }
  let v := q.reportEntry x .queued
  let l : State := { v with chime.queue := [] }
  let m := l.reportEntry x .expired
  have queued := (put.of_calendar (v := q) rfl).reportEntry action source .queued
  have tunes : m.tunes = w.tunes := (State.reportEntry_tunes l x .expired 0 false).trans (State.reportEntry_tunes q x .queued 0 false)
  have queue : (m.dropRef h).chime.queue = [] := by
    rw [State.dropRef_chime]
    exact State.reportEntry_queue l x .expired 0 false
  have leaves : w.placeArrival x = m.dropRef h := by
    rw [State.placeArrival_idle none empty, State.dequeue_expired (x := x) (rest := [])
      ((State.reportEntry_performance q x .queued 0 false).trans none) (State.reportEntry_queue q x .queued 0 false)
      (by rw [State.reportEntry_time]; exact expired), State.dropEntryRef_tune content]
    exact State.dequeue_empty queue
  have skipped := (queued.of_calendar (v := l) rfl).reportToAction action x.number .expired 0 false
  rw [List.set_set, ← State.reportEntry_occasion source] at skipped
  have flags := State.reportToAction_flags (s := l) queued.context queued.occasion (j := j) x.number (r := .expired)
    (.inr (.inl rfl)) 0 false
  rw [← State.reportEntry_occasion source] at flags
  have link : (m.dropRef h).link = m.link := (congrArg State.link (m.dropRef_onlyTunes h) :)
  rw [leaves]
  dsimp only
  rw [link, State.dropRef_chime]
  refine ⟨?_, ?_, ?_, skipped.of_calendar (State.dropRef_calendar m h), flags⟩
  · exact (State.reportEntry_performance l x .expired 0 false).trans ((State.reportEntry_performance q x .queued 0 false).trans none)
  · exact State.reportEntry_queue l x .expired 0 false
  · exact State.findTune_dropRef_live ((State.findTune_of_tunes tunes h).trans found) live

end

/-- R93, R94: the loser of a full queue leaves; only an occasion's sees its report in the calendar. -/
theorem State.displaceEntry_calendar (other : ∀ g i m, y.source ≠ .occasion g i m) (s : State) :
    (s.displaceEntry y).calendar = s.calendar :=
  (State.dropEntryRef_calendar _ y).trans (State.reportEntry_calendar other (s.unqueue y.number) .refusedFull 0 false)

theorem State.displaceEntry_performance (s : State) (y : Entry) : (s.displaceEntry y).chime.performance = s.chime.performance := by
  rw [State.displaceEntry, State.dropEntryRef_chime]
  exact State.reportEntry_performance (s.unqueue y.number) y .refusedFull 0 false

end Sys2Proof.Machine
end

section
/-! ACTION_START (R132 to R136). -/

namespace Sys2Proof.Machine

variable {s w : State} {k j : Nat} {c : Context} {a : ContextAction} {o : Occasion}

theorem Acting.refuse (acting : Acting s k j c a o) (same : w.calendar = s.calendar) (r : Reason) :
    let u := w.finishAction k j (Outcome.plain .refused r)
    ActionPut s k j c a o .done (o.outcome.set j (Outcome.plain .refused r)) u ∧
      u.link.flags.getLsbD 5 = true ∧ u.link.fresh.getLsbD 5 = true :=
  ⟨(acting.start.of_calendar same).finishAction acting.action _, State.finishAction_flags
    ((State.context_of_calendar same k).trans acting.stands) ((State.findOccasion_of_calendar same _).trans acting.occasion) j (.inl rfl)⟩

theorem Acting.done (acting : Acting s k j c a o) (same : w.calendar = s.calendar) (note : Reason) :
    ActionPut s k j c a o .done (o.outcome.set j (Outcome.plain .done note)) (w.finishAction k j (Outcome.plain .done note)) :=
  (acting.start.of_calendar same).finishAction acting.action _

theorem Occasion.left_outcome (o : Occasion) (l : List Outcome) : { o with outcome := l }.left = { o with
    outcome := l, context := none, state := if o.state = .firing then (if o.due = none then .spent else .armed) else o.state } := by
  unfold Occasion.left
  cases o.due <;> rfl

/-- Settles O49: which action starts, and its start by its kind. -/
theorem actionsStartInTheirBlock : Obligations.ActionsStartInTheirBlock := by
  unfold Obligations.ActionsStartInTheirBlock
  refine ⟨fun s k => ⟨rfl, rfl, fun j early => State.startIfDue_early fun c a holds => early c a holds⟩,
    fun s dt k mains bound settled early => ?_, ?_⟩
  · rw [exec_actionStart mains bound, State.startFirstDue_none (s := s.elapse dt) early,
      State.settleContexts_of_calendar (t := s.elapse dt) settled rfl]
  intro s dt k j c o a holds mains bound stands action waiting come found _ living e u t calm alone told put active ended raised refused
  have acting : Acting e k j c a o := ⟨stands, action, found⟩
  have starts : u = e.startAction c o k j a holds := State.startIfDue_due acting waiting come
  have live : o.state ≠ .retiring := by rcases living with state | state <;> rw [state] <;> nofun
  have goes {h : Holder} {outcome : List Outcome} (p : ActionPut e k j c a o (.active h) outcome u) : active h outcome :=
    ⟨⟨p.context, p.contexts, p.occasion, p.slots⟩, fun calm => p.settle_left calm.1 calm.2 action (.inl nofun)⟩
  have closes {kind : OutcomeKind} {note : Reason} (p : ActionPut e k j c a o .done (o.outcome.set j (Outcome.plain kind note)) u) :
      ended kind note := by
    refine ⟨⟨p.context, p.contexts, p.occasion, p.slots⟩, fun calm others => p.settle_left calm.1 calm.2 action (.inr ?_),
      fun calm all => ?_⟩
    · unfold alone at others
      push Not at others
      exact others
    · obtain ⟨frame, freed, left⟩ := p.settle_freed calm.1 calm.2 rfl all live
      exact ⟨frame, freed, left.trans (congrArg some (o.left_outcome _))⟩
  have rejects {w : State} {r : Reason} (same : w.calendar = e.calendar) (is : u = w.finishAction k j (Outcome.plain .refused r)) :
      refused r := by
    have p := acting.refuse same r
    rw [← is] at p
    exact ⟨closes p.1, p.2⟩
  refine ⟨fun earlier => ?first, fun bell interval blows velocity kind => ?toll, fun bell minutes kind bound => ?swing,
    fun h transposition repeats yields kind => ?play, fun h minutes x kind found live => ?sceneUp, fun h kind dead => ?scene,
    fun h x sound kind found live => ?sceneDown, fun minutes kind distinct quarters hours => ?silence⟩
  case first =>
    rw [exec_actionStart mains bound, State.startFirstDue_place (s := e) stands (Context.duePlaces_first action waiting come earlier)]
  case toll =>
    have tolls : u = e.startToll c.occasion k j bell interval blows velocity := by
      rw [starts, State.startAction, kind]
    refine ⟨fun claimed => ?_, fun v w first second other other' => ?_, fun n lt idle lower free => ?_⟩
    · exact rejects rfl (tolls.trans (State.startToll_refused (s := e) (State.tollChannel_claimed claimed)))
    · refine rejects rfl (tolls.trans (State.startToll_refused (s := e) (State.tollChannel_busy (s := e) (fun i x lt tolls => ?_) first second)))
      interval_cases i
      · rw [show e.toll 0 = some v from first] at tolls; cases tolls; exact other
      · rw [show e.toll 1 = some w from second] at tolls; cases tolls; exact other'
    · have takes := State.startToll_takes acting lt (State.tollChannel_idle (s := e) free lt idle lower)
        (interval := interval) (blows := blows) (velocity := velocity)
      rw [← tolls] at takes
      exact ⟨takes.1, goes takes.2⟩
  case swing =>
    have swings : u = e.startSwingAction k j bell minutes := by
      rw [starts, State.startAction, kind]
    refine ⟨fun r refusal => rejects rfl (swings.trans (State.startSwingAction_refused (s := e) refusal)), fun accepted off => ?_,
      fun length since admitted sources accepted new pending => ?_, fun energised endAt satisfied sources accepted new running => ?_⟩
    · have begun := State.startSwingAction_off acting accepted bound off (minutes := minutes)
      rw [← swings] at begun
      exact ⟨begun.1, goes begun.2⟩
    · have extended := State.startSwingAction_pending acting accepted bound new pending (minutes := minutes)
      rw [← swings] at extended
      exact ⟨extended.1, goes extended.2⟩
    · have extended := State.startSwingAction_running acting accepted bound new running (minutes := minutes)
      rw [← swings] at extended
      exact ⟨extended.1, goes extended.2⟩
  case play =>
    intro n expiry entry preempted
    have plays : u = e.startPlay holds k j h (playEntry o c k j a h transposition repeats yields) := by
      rw [starts, State.startAction, kind]
    refine ⟨fun unheld => ?_, fun held dead => ?_, fun x held found live => ?_⟩
    · rw [unheld] at plays
      exact rejects rfl (plays.trans State.startPlay_unheld)
    · rw [held] at plays
      have dropped := plays.trans (State.startPlay_dead (s := e) dead)
      refine ⟨rejects (State.dropRef_calendar e h) dropped, ?_, fun x found => ?_⟩
      · rw [dropped, State.finishAction_chime]
        exact State.dropRef_chime e h
      · rw [dropped, State.findTune_of_tunes (State.finishAction_tunes _ k j _)]
        exact (State.findTune_dropRef (s := e) found h).trans (if_pos rfl)
    let w : State := e.countArrival
    have counted : ActionPut e k j c a o a.phase o.outcome w := acting.start.of_calendar rfl
    have arrives : u = (w.admitArrival entry).1 := by
      rw [plays, held, State.startPlay_live (s := e) found live, State.arrive_withReference rfl]
      rfl
    refine ⟨fun none empty current => ?idle, fun none empty passed => ?expired, fun p performs room => ?queued,
      fun y full lowest lower earlier => ?full, fun p y performs full lowest higher => ?displaces⟩
    case idle =>
      have fresh : entry.expired w.time.standard = false := Entry.expired_eq_false fun m is => by cases is; exact current
      rw [State.admitArrival_empty (s := w) empty] at arrives
      obtain ⟨performs, queue, tunes, put⟩ := counted.placeArrival_begins action (x := entry) rfl none empty fresh rfl
      rw [← show u = w.placeArrival entry from arrives] at performs queue tunes put
      exact ⟨_, performs, rfl, rfl, queue, goes put, (State.findTune_of_tunes tunes h).trans found⟩
    case expired =>
      have late : entry.expired w.time.standard = true := (entry.expired_iff _).2 ⟨expiry, rfl, passed⟩
      rw [State.admitArrival_empty (s := w) empty] at arrives
      obtain ⟨idle, queue, tune, put, flags⟩ := counted.placeArrival_expired action (x := entry) rfl none empty late rfl found live
      rw [← show u = w.placeArrival entry from arrives] at idle queue tune put flags
      exact ⟨closes put, flags, idle, queue, tune⟩
    case queued =>
      rw [State.admitArrival_room (s := w) room] at arrives
      have put := counted.placeArrival_plays action (x := entry) rfl performs
      obtain ⟨chime, tunes, -⟩ := State.placeArrival_queued (w := w) (x := entry) rfl performs
      rw [← show u = w.placeArrival entry from arrives] at chime tunes put
      exact ⟨congrArg ChimeSequencer.queue chime, congrArg ChimeSequencer.performance chime, goes put,
        (State.findTune_of_tunes tunes h).trans found⟩
    case full =>
      have outranked : ¬entry.outranks y = true := Entry.outranked lower (Nat.lt_succ_of_le earlier)
      rw [State.admitArrival_refused (s := w) full lowest outranked] at arrives
      obtain ⟨chime, tune, put, flags⟩ := counted.refuseArrival action (x := entry) rfl rfl found live
      rw [← show u = (w.reportEntry entry .refusedFull).dropEntryRef entry from arrives] at chime tune put flags
      exact ⟨⟨closes put, flags⟩, (congrArg ChimeSequencer.queue chime :), (congrArg ChimeSequencer.performance chime :), tune⟩
    case displaces =>
      intro left before dropped
      have outranks : entry.outranks y = true := (Entry.outranks_iff entry y).2 (.inl higher)
      rw [State.admitArrival_displaces (s := w) full lowest outranks] at arrives
      have performs' : dropped.chime.performance = some p := (w.displaceEntry_performance y).trans performs
      obtain ⟨chime, tunes, program⟩ := State.placeArrival_queued (w := dropped) (x := entry) rfl performs'
      have put (other : ∀ g i m, y.source ≠ .occasion g i m) : ActionPut e k j c a o (.active (.entry n))
          (o.outcome.set j (Outcome.plain .pending)) (dropped.placeArrival entry) :=
        (acting.start.of_calendar (w.displaceEntry_calendar other)).placeArrival_plays action (x := entry) rfl performs'
      rw [← show u = dropped.placeArrival entry from arrives] at chime tunes program put
      rw [show dropped.chime.queue = left from w.displaceEntry_queue y] at chime
      exact ⟨chime, tunes, program, fun other => goes (put other)⟩
  case sceneUp =>
    have raises : u = e.sceneUp c.occasion k j h minutes := by
      rw [starts, State.startAction, kind]
    intro entry
    refine ⟨fun empty => ⟨raises ▸ State.sceneUp_layers (s := e) found live empty, fun none => ?_, fun full unlisted => ?_⟩,
      fun full firm => ?_⟩
    · let v : State := State.store { e.addLayer h x with mixer.standing := [entry] } .standingList
      have stood : u = v.finishAction k j (Outcome.plain .done) := raises.trans (State.sceneUp_first (s := e) found live empty none)
      have put := acting.done (w := v) rfl .none
      have mixer := v.finishAction_mixer k j (Outcome.plain .done)
      rw [← stood] at put mixer
      exact ⟨congrArg Mixer.standing mixer, closes put⟩
    · rw [State.sceneUp_unlisted (s := e) found live empty full unlisted] at raises
      have put := acting.done (w := e.addLayer h x) rfl .notStanding
      have mixer := State.finishAction_mixer (e.addLayer h x) k j (Outcome.plain .done .notStanding)
      rw [← raises] at put mixer
      exact ⟨(congrArg Mixer.standing mixer :), closes put⟩
    · have noWay := State.raiseScene_full (s := e) found live full firm
      have flags := State.sceneUp_refused_flags (s := e) found live noWay (g := c.occasion) (k := k) (j := j) (hold := minutes)
      rw [← raises] at flags
      rw [State.sceneUp_noWay (s := e) found live noWay] at raises
      refine ⟨rejects (w := e.raise .sceneRefused) rfl raises, ?_, flags⟩
      rw [raises]
      exact State.finishAction_mixer ..
  case scene =>
    have rejected : u = e.finishAction k j (Outcome.plain .refused .noRecord) := by
      rcases kind with kind | ⟨minutes, kind⟩
      · rw [starts, State.startAction, kind]
        exact State.sceneDown_dead (s := e) dead
      · rw [starts, State.startAction, kind]
        exact State.sceneUp_dead (s := e) dead c.occasion
    refine ⟨rejects rfl rejected, ?_⟩
    rw [rejected]
    exact State.finishAction_mixer ..
  case sceneDown =>
    have lowers : u = (e.lowerAndRemove h).finishAction k j (Outcome.plain .done) := by
      rw [starts, State.startAction, kind]
      exact State.sceneDown_live (s := e) found live
    have calendar : (e.lowerAndRemove h).calendar = e.calendar := (congrArg State.calendar (e.lowerAndRemove_onlyMixer h) :)
    have lowered := State.lowerAndRemove_lowered (s := e) ⟨sound.1, sound.2, sound.3, sound.4, sound.5⟩ h
    have mixer : u.mixer = (e.lowerAndRemove h).mixer := by
      rw [lowers]
      exact State.finishAction_mixer ..
    rw [mixer]
    have put := acting.done calendar .none
    rw [← lowers] at put
    exact ⟨fun l mem same => lowered.target l mem same, lowered.scenes, e.lowerAndRemove_standing h, closes put⟩
  case silence =>
    intro quarter hour gone outcome
    have silences : u = (e.silence minutes).finishAction k j (Outcome.plain .done) := by
      rw [starts, State.startAction, kind]
    have removed := e.silence_removes minutes
    have goneClocks : e.chime.queue.filter Entry.isClock = gone := by
      refine List.filter_congr fun x _ => ?_
      exact x.isClock_eq
    rw [goneClocks] at removed
    have program : u.program = (e.silence minutes).program := by rw [silences, State.finishAction_program]
    have chime : u.chime = (e.silence minutes).chime := by rw [silences, State.finishAction_chime]
    have link : u.link = (e.silence minutes).link := by
      rw [silences]
      exact State.finishAction_link _ k j rfl
    have tunes : u.tunes = (e.silence minutes).tunes := by rw [silences, State.finishAction_tunes]
    have put := acting.done removed.calendar .none
    rw [← silences] at put
    rw [program, chime, link]
    refine ⟨removed.silenced, ?_, removed.performance, removed.quarters quarters, removed.hours hours, removed.unchanged,
      fun x m last => ?_, congrArg Link.flags removed.link, fun h x found => ?_, closes put⟩
    · rw [removed.queue, ← goneClocks]
      refine (filter_unclocked distinct).trans (List.filter_congr fun x _ => ?_)
      rw [x.isClock_eq, Bool.not_or]
      rfl
    · have told (source : ClockSource) : outcome x source m = x.stoppedOutcome source m := by
        unfold outcome Entry.stoppedOutcome Entry.carried
        cases x.resume <;> rfl
      rw [told, told]
      exact removed.last x m last
    · exact (State.findTune_of_tunes tunes h).trans (removed.tunes h x found)

end Sys2Proof.Machine
end
